-- ==== Sys2Proof/Word.lean ====
section
/-! DEFINITION. The word types and their plainest arithmetic: registers and bookkeeping words (64 bits), bytes, and bit
fields of a word numbered as R7 numbers them. -/

namespace Sys2Proof

/-- A byte of a line. -/
abbrev Byte := BitVec 8

/-- A slice register, a tag entry, a directory word, a descriptor word: 64 bits (R14, R63, R376). -/
abbrev Word := BitVec 64

/-- The 128 bytes of a line, byte `b` in bits `8b + 7 .. 8b` (R8, R9). -/
abbrev LineData := BitVec 1024

/-- The `w` bits of `x` from bit `lo` up, as a number (R7). -/
def getBits {n : Nat} (x : BitVec n) (lo w : Nat) : Nat := (x.toNat >>> lo) % 2 ^ w

/-- `x` with the `w` bits from bit `lo` up replaced by `v` (taken modulo `2 ^ w`) and every other bit kept. -/
def setBits {n : Nat} (x : BitVec n) (lo w v : Nat) : BitVec n :=
  (x &&& ~~~(BitVec.ofNat n (2 ^ w - 1) <<< lo)) ||| (BitVec.ofNat n (v % 2 ^ w) <<< lo)

/-- One bit of `x`. -/
def bitAt {n : Nat} (x : BitVec n) (i : Nat) : Bool := x.getLsbD i

/-- 1 for true. -/
def b2n (b : Bool) : Nat := if b then 1 else 0

/-- Addition that stops at a maximum (the counts that "stop at" a value). -/
def satAdd (max a b : Nat) : Nat := min max (a + b)

/-- Ceiling division. -/
def cdiv (a b : Nat) : Nat := (a + b - 1) / b

end Sys2Proof
end

