-- ==== Sys2Proof/Config.lean ====
section
/-! DEFINITION. What the spec leaves open: free values, constants without a body that no proof can look into. -/

namespace Sys2Proof

/-- Which columns the SECDED (39,32) check matrix has, among those that R578 permits: the matrix is not given (assumption 1). -/
opaque Config.dataPick : Nat → Nat

/-- Which columns the SECDED (72,64) check matrix of a bookkeeping word has (R597; assumption 1). -/
opaque Config.bkPick : Nat → Nat

/-- The FP32 value of GELU (`true`) or SiLU (`false`) of the FP32 input where the model's interval evaluation of R290 does not
settle the rounding (assumption 2). -/
opaque Config.actOpen : Bool → BitVec 32 → BitVec 32

/-- The half of a one-sector write beat on HC that holds no sector: no rule states it (R531; assumption 112). -/
opaque Config.hcIdle : BitVec 256

/-- The value of an accumulator or chunk element whose sector an error has poisoned: by the cycle in which its group's OPEN was accepted
and the element's number (chunk values count on from 2^24). No rule states it (R579, R582; assumption 113). -/
opaque Config.lostAcc : Nat → Nat → BitVec 320

/-- The bytes delivered in a poisoned sector: no rule states them (assumption 4). -/
opaque Config.poisonLine : LineData

end Sys2Proof
end

