-- ==== Sys2Proof/Machine/Msg.lean ====
section
/-! DEFINITION. The operands of the slice's commands: requests at the mesh and die-to-die ports, messages of the LCL, replies
that arrive from outside, register accesses, and the small enumerations the commands name. -/

namespace Sys2Proof

/-- A line's address, PA[51:7] (R27). -/
abbrev LineAddr := BitVec 45

/-- The atomic operations of R357, in the order of their opcodes (R512). -/
inductive AOp where
  | swap | cas | add | smax | smin | umax | umin | band | bor | bxor | fadd
  | lswap | lcstore | ladd | land | lor | lxor
  deriving DecidableEq, Repr

/-- The request opcodes of R512; `other` stands for a code that R512 reserves. -/
inductive Op where
  | rd | rdc | rdacq | wr | wrrel | fence | flush | crd | cwr | vrd | vwr | vcrd | vcwr | cmdwr | grpctl
  | redc | redn | cntwr | sealwr | accinc | pxrd | pxwr | tinv
  | atom (a : AOp) (posted : Bool)
  | other (code : BitVec 6)
  deriving DecidableEq, Repr

/-- Where a request enters the slice: the mesh port, or the die-to-die port from the exit slice of another die (R503, R538). -/
inductive Via where
  | mq
  | dd (die : BitVec 3)
  deriving DecidableEq, Repr

/-- What the other pipe presents in the same cycle, where it presents a data-carrying request (R517, R520): the fields by which
a credited resend is matched (R400). -/
structure Peer where
  op : Op
  reqid : BitVec 8
  cred : Bool
  vsp : Bool
  ctx : BitVec 12
  gen : BitVec 8
  pa : BitVec 52
  deriving DecidableEq, Repr

/-- A request: the header of R507 without its opcode, the data line, and how it is presented. -/
structure Req where
  via : Via
  /-- false the even pipe, true the odd pipe -/
  odd : Bool
  /-- the data-carrying request on the other pipe in this cycle, if there is one -/
  peer : Option Peer
  mask : BitVec 128
  aux : BitVec 64
  priv : BitVec 2
  pcause : BitVec 12
  pois : BitVec 4
  cred : Bool
  vsp : Bool
  tag : BitVec 12
  srcdie : BitVec 3
  reqid : BitVec 8
  pa : BitVec 52
  group : BitVec 6
  fmt : BitVec 5
  slack : BitVec 12
  cls : BitVec 3
  hint : BitVec 2
  scope : BitVec 2
  gen : BitVec 8
  ctx : BitVec 12
  data : LineData
  deriving DecidableEq, Repr

/-- A register access at the control port: the fields of CT_REQ but the offset and the write bit (R540). -/
structure CtAcc where
  data : Word
  tag : BitVec 3
  origin : BitVec 8
  priv : BitVec 2
  /-- the upper half of a 32-bit access -/
  upper : Bool
  /-- a 32-bit access -/
  half : Bool
  deriving DecidableEq, Repr

/-- A group-control command: a GRPCTL request, or the descriptor staged in NS_GRPDESC submitted by a write of NS_GRPOPEN
(R265). -/
inductive GrpReq where
  | mesh (r : Req)
  | staged (a : CtAcc)
  deriving DecidableEq, Repr

/-- The cluster and line of a host-class message, and whether it is a resend that carries a reserved credit (R387, R400). -/
structure ClMsg where
  cluster : BitVec 5
  line : LineAddr
  cred : Bool
  deriving DecidableEq, Repr

/-- The operation an ATOM message carries (R387): opcode, posted form, byte offset in the line, mask, format, operand line,
context and generation. -/
structure ClAtom where
  op : AOp
  posted : Bool
  offset : BitVec 7
  mask : BitVec 128
  fmt : BitVec 5
  data : LineData
  deriving DecidableEq, Repr

/-- HAD of a SNP_ACK (R387). -/
inductive Had where
  | none | s | x
  deriving DecidableEq, Repr

/-- A reply that reaches the slice on MI or DD: the tag it returns (entry and epoch, R620) and the fields of the reply header
(R521). -/
structure RepMsg where
  tag : BitVec 12
  status : BitVec 6
  acklvl : BitVec 2
  detail : BitVec 8
  auxr : BitVec 32
  part : BitVec 3
  npart : BitVec 4
  pois : BitVec 4
  pcause : BitVec 12
  data : LineData
  deriving DecidableEq, Repr

/-- The LW classes (R534). -/
inductive LwCls where
  | req | snp | rsp | dat | mem
  deriving DecidableEq, Repr

/-- The DD classes (R538). -/
inductive DdCls where
  | dreq | dinv | drsp
  deriving DecidableEq, Repr

/-- The service points of R472. -/
inductive Point where
  | reply | arrayWrite | accum | update | channel | outbound
  deriving DecidableEq, Repr

/-- The kinds of work with a progress counter (R622), in the order of their codes. -/
inductive HangKind where
  | read | write | red | atom | bulk | group | coh | accn
  deriving DecidableEq, Repr

end Sys2Proof
end

