-- ==== Sys2Proof/Syntax.lean ====
section
/-! DEFINITION. The commands of a Nelna slice: requests at the mesh and die-to-die ports, messages of the LCL, answers that
arrive from outside, register accesses, events of the pins and of the slice's own engines. Their operands are declared in
Machine/Msg.lean. -/

namespace Sys2Proof

/-- The commands of the slice: one constructor per row of spec/opcode_table.json. -/
inductive Instr where
  /-- A read request is presented (R67, R512). -/
  | rd (r : Req)
  /-- A read whose reply the tile may keep near its core (R512). -/
  | rdc (r : Req)
  /-- An acquire read at SCOPE (R437). -/
  | rdacq (r : Req)
  /-- A write (R69). -/
  | wr (r : Req)
  /-- A release write at SCOPE (R436). -/
  | wrrel (r : Req)
  /-- A fence sweep (R440, R441). -/
  | fence (r : Req)
  /-- A flush of the line's dirty sectors (R74, R304). -/
  | flush (r : Req)
  /-- An addressed converting read (R322). -/
  | crd (r : Req)
  /-- An addressed converting write, one part (R322). -/
  | cwr (r : Req)
  /-- A vitrine read (R146). -/
  | vrd (r : Req)
  /-- A vitrine write (R140). -/
  | vwr (r : Req)
  /-- A vitrine converting read (R322). -/
  | vcrd (r : Req)
  /-- A vitrine converting write, one part (R335). -/
  | vcwr (r : Req)
  /-- A bulk command write (R149 to R152). -/
  | cmdwr (r : Req)
  /-- The active FILL command writes its next line (R175). -/
  | fill
  /-- The active COPY command issues its next line (R176). -/
  | copy
  /-- The active snapshot save writes its next line into the image (R180 to R184). -/
  | snapshotSave
  /-- The active snapshot restore reads its next line of the image (R183). -/
  | snapshotRestore
  /-- The active scatter-reduce issues its next line (R158). -/
  | scatterReduce
  /-- The active broadcast-invalidate sends its next page (R179). -/
  | binv
  /-- A group-control OPEN (R268). -/
  | openGrp (g : GrpReq)
  /-- A group-control CLOSE (R758). -/
  | closeGrp (g : GrpReq)
  /-- A group-control ABORT (R269, R758). -/
  | abortGrp (g : GrpReq)
  /-- A reduction arrival that routers may pre-combine (R272). -/
  | redc (r : Req)
  /-- A reduction arrival that routers never combine (R272). -/
  | redn (r : Req)
  /-- A counted write (R454). -/
  | cntwr (r : Req)
  /-- A sealed write (R456). -/
  | sealwr (r : Req)
  /-- An accession increment (R458). -/
  | accinc (r : Req)
  /-- A proxy read (R22, R569). -/
  | pxrd (r : Req)
  /-- A proxy write (R22, R569). -/
  | pxwr (r : Req)
  /-- A request whose opcode is reserved, or a TINV on MQ (R513). -/
  | reservedOpcode (code : BitVec 6) (r : Req)
  /-- The returning atomic SWAP (R357). -/
  | swap (r : Req)
  /-- The returning atomic CAS (R357). -/
  | cas (r : Req)
  /-- The returning atomic ADD (R357). -/
  | add (r : Req)
  /-- The returning atomic SMAX (R357). -/
  | smax (r : Req)
  /-- The returning atomic SMIN (R357). -/
  | smin (r : Req)
  /-- The returning atomic UMAX (R357). -/
  | umax (r : Req)
  /-- The returning atomic UMIN (R357). -/
  | umin (r : Req)
  /-- The returning atomic AND (R357). -/
  | band (r : Req)
  /-- The returning atomic OR (R357). -/
  | bor (r : Req)
  /-- The returning atomic XOR (R357). -/
  | bxor (r : Req)
  /-- The returning atomic FADD (R357). -/
  | fadd (r : Req)
  /-- The returning atomic LSWAP (R357). -/
  | lswap (r : Req)
  /-- The returning atomic LCSTORE (R357). -/
  | lcstore (r : Req)
  /-- The returning atomic LADD (R357). -/
  | ladd (r : Req)
  /-- The returning atomic LAND (R357). -/
  | land (r : Req)
  /-- The returning atomic LOR (R357). -/
  | lor (r : Req)
  /-- The returning atomic LXOR (R357). -/
  | lxor (r : Req)
  /-- The posted atomic ADD.P (R357, R363). -/
  | addP (r : Req)
  /-- The posted atomic SMAX.P (R357, R363). -/
  | smaxP (r : Req)
  /-- The posted atomic SMIN.P (R357, R363). -/
  | sminP (r : Req)
  /-- The posted atomic UMAX.P (R357, R363). -/
  | umaxP (r : Req)
  /-- The posted atomic UMIN.P (R357, R363). -/
  | uminP (r : Req)
  /-- The posted atomic AND.P (R357, R363). -/
  | bandP (r : Req)
  /-- The posted atomic OR.P (R357, R363). -/
  | borP (r : Req)
  /-- The posted atomic XOR.P (R357, R363). -/
  | bxorP (r : Req)
  /-- The posted atomic FADD.P (R357, R363). -/
  | faddP (r : Req)
  /-- The posted atomic LADD.P (R357, R363). -/
  | laddP (r : Req)
  /-- The posted atomic LAND.P (R357, R363). -/
  | landP (r : Req)
  /-- The posted atomic LOR.P (R357, R363). -/
  | lorP (r : Req)
  /-- The posted atomic LXOR.P (R357, R363). -/
  | lxorP (r : Req)
  /-- Cluster read for a shared copy (R382, R387). -/
  | rdS (m : ClMsg)
  /-- Cluster read for an exclusive copy (R382). -/
  | rdX (m : ClMsg)
  /-- Cluster upgrade from shared to exclusive (R382, R383). -/
  | upg (m : ClMsg)
  /-- Cluster offer of dirty data (R393, R394). -/
  | wb (m : ClMsg)
  /-- Clean owner drops its copy (R393, R394). -/
  | evc (m : ClMsg)
  /-- Cluster atomic, near or far (R369 to R374). -/
  | atom (m : ClMsg) (a : ClAtom)
  /-- A holder's snoop answer (R387, R391). -/
  | snpAck (m : ClMsg) (had : Had) (d wbp : Bool)
  /-- The requester holds grant and data (R392). -/
  | compAck (m : ClMsg)
  /-- Dirty data of a snooped holder (R386). -/
  | snpData (m : ClMsg) (data : LineData) (pois : BitVec 4)
  /-- Writeback data after WB_GO (R393). -/
  | wbData (m : ClMsg) (data : LineData) (pois : BitVec 4)
  /-- Host DRAM data on the MEM class (R385, R536). -/
  | memData (line : LineAddr) (data : LineData) (pois : BitVec 4)
  /-- A loan invalidation from a home on another die (R43, R538). -/
  | dinv (die : BitVec 3) (line : LineAddr)
  /-- An exit slice confirms a loan invalidation (R40). -/
  | invConfirm (die : BitVec 3) (line : LineAddr)
  /-- A home's reply or acknowledgement to a forwarded request (R29, R430). -/
  | ddReply (m : RepMsg)
  /-- A tile acknowledges a range invalidation (R530). -/
  | tileInvAck (tile : BitVec 8) (tag : BitVec 12)
  /-- The answer to a group's forward arrival (R302). -/
  | forwardReply (m : RepMsg)
  /-- The home's answer to a released sealed write (R458). -/
  | sealReleaseReply (m : RepMsg)
  /-- The reply to a proxy access this slice issued (R569, R571). -/
  | proxyReply (m : RepMsg)
  /-- A destination's answer to a bulk-engine line request (R172). -/
  | bulkLineReply (m : RepMsg)
  /-- A reply to another request this slice issued (R620). -/
  | issuedReply (m : RepMsg)
  /-- The read beats of one channel operation (R532); `rerr` has a bit per sector (HC_RERR). -/
  | hcReadBeat (otag : BitVec 7) (data : LineData) (rerr : BitVec 4)
  /-- HC_CRRET for one cycle (R531). -/
  | hcCreditReturn
  /-- MR_CRRET for one cycle (R527). -/
  | mrCreditReturn
  /-- MO_CRRET for one cycle (R528). -/
  | moCreditReturn
  /-- One LW transmit credit of a class (R535). -/
  | lwCreditReturn (cls : LwCls)
  /-- One DD credit of a class for a die (R539). -/
  | ddCreditReturn (die : BitVec 3) (cls : DdCls)
  /-- The IOMMU maps the 4 KiB page of `va` to the page of `pa` for the active command (R162). -/
  | translationDone (va pa : BitVec 64)
  /-- The IOMMU faults at address `va` of the active command (R164). -/
  | iommuFault (va : BitVec 64)
  /-- The engine makes the next command active and checks it (R153, R159). -/
  | bulkCommandStart
  /-- The engine issues the next line of its active command (R163). -/
  | bulkLineIssue
  /-- An urgent command pre-empts the active one (R154). -/
  | bulkPreempt
  /-- The next completion record is written at the translated address, or dropped when its page faults (`none`) or CPLADDR is 0 (R171 to R174, R310). -/
  | completionRecord (cpl : Option (BitVec 52))
  /-- A write of NS_BLK_CTL.PAUSE (R167). -/
  | blkCtlPause (a : CtAcc)
  /-- A write of NS_BLK_CTL.ABORT (R168). -/
  | blkCtlAbort (a : CtAcc)
  /-- A write of NS_WAYCHG (R48). -/
  | waychgGo (a : CtAcc)
  /-- The way-drain walk takes the next set of a draining way (R49). -/
  | drainWalkStep
  /-- Every draining way is empty: the new map is taken (R49). -/
  | waychgDone
  /-- A write of NS_DIST_CTL (R55). -/
  | distCtlWrite (a : CtAcc)
  /-- A write of NS_VT_REGION*n* (R133, R134). -/
  | vtRegionWrite (n : BitVec 6) (a : CtAcc)
  /-- A write of NS_FP_WIN*n*A, or of NS_FP_WIN*n*B when `b` (R324, R325). -/
  | fpWinWrite (n : BitVec 4) (b : Bool) (a : CtAcc)
  /-- Initialisation and preload of group `g` end (R269, R270, R297). -/
  | groupInitDone (g : BitVec 6)
  /-- The next accepted arrival finishes combining (R276). -/
  | arrivalCombined
  /-- The promotion and epilogue of closing group `g` (R286). -/
  | epilogueStart (g : BitVec 6)
  /-- The epilogue of group `g` ends (R286). -/
  | epilogueDone (g : BitVec 6)
  /-- A write of NS_UU_CTL (R370). -/
  | predclr (a : CtAcc)
  /-- A write of NS_DIR_RECLAIM (R406). -/
  | dirReclaimGo (a : CtAcc)
  /-- The reclaim walk ends (R408, R409). -/
  | reclaimDone
  /-- A write of NS_DIR_DEADMASK (R410). -/
  | deadmaskWrite (a : CtAcc)
  /-- A snoop of the cluster for the line is unanswered for the snoop timeout (R405). -/
  | snoopTimeout (m : ClMsg)
  /-- A granted credit is not used within the credit timeout (R401). -/
  | creditTimeout (reqid : BitVec 8)
  /-- A write of NS_ACCN_TARGET*k* (R468, R469). -/
  | accnTargetWrite (k : BitVec 8) (a : CtAcc)
  /-- A regulation window begins (R479). -/
  | regWindowStart
  /-- The remaining slack of an accepted request reaches 0 (R489). -/
  | slackZero (reqid : BitVec 8) (srcdie : BitVec 3) (tag : BitVec 12)
  /-- A service point grants its next unit (R475). -/
  | serviceGrant (p : Point)
  /-- A write of NS_REG_BUDGET*m* (R501). -/
  | budgetWrite (m : BitVec 8) (a : CtAcc)
  /-- A reply beat is sent on MR (R527, R617). -/
  | replyBeat
  /-- SCLK takes the divisor of NS_CLKCTL.SCLKDIV (R545). -/
  | sclkDivChange
  /-- The slice asserts SLEEP_ACK and SCLK stops (R546). -/
  | sleepEnter
  /-- WAKE rises (R548). -/
  | wake
  /-- A woken slice sleeps again (R549). -/
  | resleep
  /-- FRZ rises and the counters are captured (R542, R685). -/
  | frz
  /-- A control message of a reserved type (R541). -/
  | ctMsgReserved (word : BitVec 32)
  /-- A PURGE control message (R625). -/
  | purge (ctx : BitVec 12) (gen : BitVec 8)
  /-- No purged work remains in an action (R625). -/
  | purgeDone
  /-- A progress counter reaches the hang window (R624). -/
  | hang (kind : HangKind)
  /-- An orphaned issue entry becomes reusable (R621). -/
  | orphanEntryExpire (entry : BitVec 9)
  /-- A write of NS_RC_BLK that sets or clears IDLEREQ (R638). -/
  | idlereq (a : CtAcc)
  /-- A write of NS_RC_BLK with GO (R639). -/
  | blockResetGo (a : CtAcc)
  /-- The block domain is reset (R639). -/
  | blockResetProceed
  /-- A write of NS_RC_WB (R657). -/
  | rcWbGo (a : CtAcc)
  /-- The write-back walk ends (R657). -/
  | rcWbDone
  /-- A write of NS_RC_CREDREL (R631). -/
  | credrel (a : CtAcc)
  /-- A write of NS_FWIF (R648). -/
  | fwifGo (a : CtAcc)
  /-- RST_POR_N takes effect (R633, R635). -/
  | powerOnReset
  /-- RST_PKG_N takes effect (R633, R635). -/
  | packageReset
  /-- RST_CMP_N takes effect (R633, R641). -/
  | computeReset
  /-- A low run below 32 REFCLK edges ends (R635). -/
  | glitch
  /-- No reset input remains in effect (R636). -/
  | resetEnd
  /-- Release step 1 (R642). -/
  | clockIslandRelease
  /-- Release step 2 (R643). -/
  | tagDirectorySweep
  /-- Release step 3 (R642). -/
  | dataTierPortRelease
  /-- Release step 4 (R642). -/
  | memoryPortRelease
  /-- Release step 5 (R642). -/
  | meshPortRelease
  /-- Release step 6 (R642). -/
  | lclPortRelease
  /-- Directory entries busy at the reset are recovered by snoop (R641). -/
  | snoopRecovery
  /-- The books are evaluated (R654, R656). -/
  | balanceValid
  /-- HC_STATE goes to RETRAIN (R556). -/
  | retrainEnter
  /-- HC_STATE reads NORMAL (R556, R562). -/
  | channelNormal
  /-- HC_STATE becomes MAPPED_OUT (R556). -/
  | channelLost
  /-- CSTATE has been RETRAIN for the timeout (R564). -/
  | retrainTimeout
  /-- A write of NS_CH_MAPLIST (R572). -/
  | maplistWrite (a : CtAcc)
  /-- A write of NS_CH_MAPCTL.PREP (R573, R574). -/
  | prep (a : CtAcc)
  /-- The PREP work ends (R574). -/
  | prepDone
  /-- A write of NS_CH_MAPCTL.SAVE (R573, R575). -/
  | save (a : CtAcc)
  /-- The SAVE walk ends (R575). -/
  | saveDone
  /-- The patrol scrubber visits its next line (R585 to R588). -/
  | scrubVisit
  /-- A write of NS_ECC_QUAR with QSET (R592). -/
  | qset (a : CtAcc)
  /-- A write of NS_ECC_QUAR with QCLR (R593). -/
  | qclr (a : CtAcc)
  /-- A write of NS_ECC_CBCTL with RAWRD (R595, R596). -/
  | rawrd (a : CtAcc)
  /-- A write of NS_ECC_CBCTL with RAWWR (R595, R596). -/
  | rawwr (a : CtAcc)
  /-- A write of NS_PV_CTL (R699). -/
  | pop (a : CtAcc)
  /-- The oldest held provenance entry is spilled (R700). -/
  | spillEntry
  /-- A write of NS_PV_SPILL (R701). -/
  | pvSpillWrite (a : CtAcc)
  /-- A write of NS_IRQ_SET (R738). -/
  | irqSet (a : CtAcc)
  /-- A write of NS_DG_SEL (R746). -/
  | diagGo (a : CtAcc)
  /-- A diagnostic read completes (R746). -/
  | diagDone
  /-- A register write at an offset, of the alias page when `userPage` (R720, R691). -/
  | registerWrite (off : BitVec 16) (userPage : Bool) (a : CtAcc)
  /-- A register read at an offset, of the alias page when `userPage` (R720, R690). -/
  | registerRead (off : BitVec 16) (userPage : Bool) (a : CtAcc)
  /-- One SCLK cycle ends (R676, R678, R683, R622). -/
  | sclkCycle
  /-- FRZ falls (R688). -/
  | frzFall
  /-- The standby supply comes up (R634). -/
  | standbyPowerUp
  /-- SCLK runs again after a wake (R548). -/
  | sclkRunsAgain
  deriving DecidableEq, Repr

end Sys2Proof
end

