-- ==== Sys2Proof/Machine/RegTable.lean ====
section
/-! DEFINITION. The register pages (R13, R720 and the field tables of every chapter): one row per register or array of
registers, one entry per field, transcribed from the tables of the rule named beside the row. A field that no row names is
reserved (R16). -/

namespace Sys2Proof.Machine

/-- The access codes of R15. -/
inductive Acc where
  | ro | rw | w1c | w1s | rc | rwl
  deriving DecidableEq, Repr

/-- The suffix of a Reset column (R17, R634): which resets a field survives. -/
inductive Keep where
  | none   -- reset at all three levels
  | c      -- kept through compute reset
  | k      -- kept through package and compute reset
  | a      -- always-on domain: set only by standby power-up
  deriving DecidableEq, Repr

/-- One field of a register: its low bit, its width, its access code, its reset value and what it survives. -/
structure FieldRow where
  lo : Nat
  w : Nat
  acc : Acc
  reset : Nat
  keep : Keep
  deriving DecidableEq, Repr

/-- One register (count 1) or array of registers, at `base`, `base + stride`, … in the slice's 64 KiB space. -/
structure RegRow where
  base : Nat
  count : Nat
  stride : Nat
  fields : List FieldRow
  deriving DecidableEq, Repr

/-- A field as the rules name it: the register's offset, the field's low bit and its width. -/
structure Fld where
  off : Nat
  lo : Nat
  w : Nat
  deriving DecidableEq, Repr

/-! ### Register offsets and fields, under the names of the manual -/

/-- NS_ID (R731). -/
abbrev Reg.NS_ID : Nat := 0x0000
abbrev NS_ID.VENDOR : Fld := ⟨0x0000, 48, 16⟩
abbrev NS_ID.BLOCK : Fld := ⟨0x0000, 32, 16⟩
abbrev NS_ID.REVMAJ : Fld := ⟨0x0000, 28, 4⟩
abbrev NS_ID.REVMIN : Fld := ⟨0x0000, 24, 4⟩
abbrev NS_ID.LOCK : Fld := ⟨0x0000, 15, 1⟩
abbrev NS_ID.DIE : Fld := ⟨0x0000, 9, 3⟩
abbrev NS_ID.SLICE : Fld := ⟨0x0000, 3, 6⟩

/-- NS_ID_PKG (R733). -/
abbrev Reg.NS_ID_PKG : Nat := 0x0008
abbrev NS_ID_PKG.PKGID : Fld := ⟨0x0008, 0, 32⟩

/-- NS_CAP (R734). -/
abbrev Reg.NS_CAP : Nat := 0x0040
abbrev NS_CAP.NWAYS : Fld := ⟨0x0040, 56, 8⟩
abbrev NS_CAP.NSETS : Fld := ⟨0x0040, 40, 16⟩
abbrev NS_CAP.LINESZ : Fld := ⟨0x0040, 32, 8⟩
abbrev NS_CAP.NGRP : Fld := ⟨0x0040, 24, 8⟩
abbrev NS_CAP.NVREG : Fld := ⟨0x0040, 16, 8⟩
abbrev NS_CAP.NCMD : Fld := ⟨0x0040, 8, 8⟩
abbrev NS_CAP.NCLASS : Fld := ⟨0x0040, 0, 8⟩

/-- NS_FWIF (R673). -/
abbrev Reg.NS_FWIF : Nat := 0x0048
abbrev NS_FWIF.IMGMAJ : Fld := ⟨0x0048, 56, 8⟩
abbrev NS_FWIF.IMGMIN : Fld := ⟨0x0048, 48, 8⟩
abbrev NS_FWIF.FWMAJ : Fld := ⟨0x0048, 40, 8⟩
abbrev NS_FWIF.FWMIN : Fld := ⟨0x0048, 32, 8⟩
abbrev NS_FWIF.COMMON : Fld := ⟨0x0048, 24, 8⟩
abbrev NS_FWIF.RESULT : Fld := ⟨0x0048, 8, 2⟩
abbrev NS_FWIF.GO : Fld := ⟨0x0048, 0, 1⟩

/-- NS_FWIF_FEAT (R674). -/
abbrev Reg.NS_FWIF_FEAT : Nat := 0x0050
abbrev NS_FWIF_FEAT.PRESENT : Fld := ⟨0x0050, 16, 16⟩
abbrev NS_FWIF_FEAT.DISABLED : Fld := ⟨0x0050, 0, 16⟩

/-- NS_CAP2 (R735). -/
abbrev Reg.NS_CAP2 : Nat := 0x0058
abbrev NS_CAP2.RDTRK : Fld := ⟨0x0058, 48, 16⟩
abbrev NS_CAP2.WRTRK : Fld := ⟨0x0058, 32, 16⟩
abbrev NS_CAP2.REDTRK : Fld := ⟨0x0058, 16, 16⟩
abbrev NS_CAP2.CHOPS : Fld := ⟨0x0058, 0, 16⟩

/-- NS_CTL (R736). -/
abbrev Reg.NS_CTL : Nat := 0x0080
abbrev NS_CTL.ERRLATEST : Fld := ⟨0x0080, 8, 1⟩
abbrev NS_CTL.IRQEN : Fld := ⟨0x0080, 0, 1⟩

/-- NS_CLKCTL (R554). -/
abbrev Reg.NS_CLKCTL : Nat := 0x0088
abbrev NS_CLKCTL.SLEEP : Fld := ⟨0x0088, 8, 1⟩
abbrev NS_CLKCTL.SCLKDIV : Fld := ⟨0x0088, 0, 2⟩

/-- NS_READY (R675). -/
abbrev Reg.NS_READY : Nat := 0x00C0
abbrev NS_READY.SAFE : Fld := ⟨0x00C0, 7, 1⟩
abbrev NS_READY.CHANNEL : Fld := ⟨0x00C0, 5, 1⟩
abbrev NS_READY.HOSTCOH : Fld := ⟨0x00C0, 4, 1⟩
abbrev NS_READY.REDUCE : Fld := ⟨0x00C0, 3, 1⟩
abbrev NS_READY.UPDATE : Fld := ⟨0x00C0, 2, 1⟩
abbrev NS_READY.VITRINE : Fld := ⟨0x00C0, 1, 1⟩
abbrev NS_READY.CACHE : Fld := ⟨0x00C0, 0, 1⟩

/-- NS_PORTSTAT (R555). -/
abbrev Reg.NS_PORTSTAT : Nat := 0x00C8
abbrev NS_PORTSTAT.DIVNOW : Fld := ⟨0x00C8, 40, 2⟩
abbrev NS_PORTSTAT.HCSTATE : Fld := ⟨0x00C8, 32, 2⟩
abbrev NS_PORTSTAT.HCCRED : Fld := ⟨0x00C8, 24, 8⟩
abbrev NS_PORTSTAT.MOCRED : Fld := ⟨0x00C8, 16, 8⟩
abbrev NS_PORTSTAT.MRCRED : Fld := ⟨0x00C8, 8, 8⟩
abbrev NS_PORTSTAT.CTRDY : Fld := ⟨0x00C8, 5, 1⟩
abbrev NS_PORTSTAT.LWRDY : Fld := ⟨0x00C8, 4, 1⟩
abbrev NS_PORTSTAT.DDRDY : Fld := ⟨0x00C8, 3, 1⟩
abbrev NS_PORTSTAT.MESHRDY : Fld := ⟨0x00C8, 2, 1⟩
abbrev NS_PORTSTAT.MEMRDY : Fld := ⟨0x00C8, 1, 1⟩
abbrev NS_PORTSTAT.AWAKE : Fld := ⟨0x00C8, 0, 1⟩

/-- NS_IRQ_STAT (R738). -/
abbrev Reg.NS_IRQ_STAT : Nat := 0x0100
abbrev NS_IRQ_STAT.COUNTER : Fld := ⟨0x0100, 8, 1⟩
abbrev NS_IRQ_STAT.HANG : Fld := ⟨0x0100, 7, 1⟩
abbrev NS_IRQ_STAT.ECC : Fld := ⟨0x0100, 6, 1⟩
abbrev NS_IRQ_STAT.CHANNEL : Fld := ⟨0x0100, 5, 1⟩
abbrev NS_IRQ_STAT.DIR : Fld := ⟨0x0100, 4, 1⟩
abbrev NS_IRQ_STAT.GROUP : Fld := ⟨0x0100, 3, 1⟩
abbrev NS_IRQ_STAT.BULK : Fld := ⟨0x0100, 2, 1⟩
abbrev NS_IRQ_STAT.WAYCHG : Fld := ⟨0x0100, 1, 1⟩
abbrev NS_IRQ_STAT.ERROR : Fld := ⟨0x0100, 0, 1⟩

/-- NS_IRQ_EN (R738). -/
abbrev Reg.NS_IRQ_EN : Nat := 0x0108
abbrev NS_IRQ_EN.COUNTER : Fld := ⟨0x0108, 8, 1⟩
abbrev NS_IRQ_EN.HANG : Fld := ⟨0x0108, 7, 1⟩
abbrev NS_IRQ_EN.ECC : Fld := ⟨0x0108, 6, 1⟩
abbrev NS_IRQ_EN.CHANNEL : Fld := ⟨0x0108, 5, 1⟩
abbrev NS_IRQ_EN.DIR : Fld := ⟨0x0108, 4, 1⟩
abbrev NS_IRQ_EN.GROUP : Fld := ⟨0x0108, 3, 1⟩
abbrev NS_IRQ_EN.BULK : Fld := ⟨0x0108, 2, 1⟩
abbrev NS_IRQ_EN.WAYCHG : Fld := ⟨0x0108, 1, 1⟩
abbrev NS_IRQ_EN.ERROR : Fld := ⟨0x0108, 0, 1⟩

/-- NS_IRQ_SET (R738). -/
abbrev Reg.NS_IRQ_SET : Nat := 0x0110
abbrev NS_IRQ_SET.COUNTER : Fld := ⟨0x0110, 8, 1⟩
abbrev NS_IRQ_SET.HANG : Fld := ⟨0x0110, 7, 1⟩
abbrev NS_IRQ_SET.ECC : Fld := ⟨0x0110, 6, 1⟩
abbrev NS_IRQ_SET.CHANNEL : Fld := ⟨0x0110, 5, 1⟩
abbrev NS_IRQ_SET.DIR : Fld := ⟨0x0110, 4, 1⟩
abbrev NS_IRQ_SET.GROUP : Fld := ⟨0x0110, 3, 1⟩
abbrev NS_IRQ_SET.BULK : Fld := ⟨0x0110, 2, 1⟩
abbrev NS_IRQ_SET.WAYCHG : Fld := ⟨0x0110, 1, 1⟩
abbrev NS_IRQ_SET.ERROR : Fld := ⟨0x0110, 0, 1⟩

/-- NS_ERR_REC0 (R742). -/
abbrev Reg.NS_ERR_REC0 : Nat := 0x0140
abbrev NS_ERR_REC0.CODE : Fld := ⟨0x0140, 56, 8⟩
abbrev NS_ERR_REC0.SRC : Fld := ⟨0x0140, 54, 2⟩
abbrev NS_ERR_REC0.PRIV : Fld := ⟨0x0140, 52, 2⟩
abbrev NS_ERR_REC0.OPC : Fld := ⟨0x0140, 46, 6⟩
abbrev NS_ERR_REC0.WHO : Fld := ⟨0x0140, 38, 8⟩
abbrev NS_ERR_REC0.SRCDIE : Fld := ⟨0x0140, 35, 3⟩
abbrev NS_ERR_REC0.CTX : Fld := ⟨0x0140, 23, 12⟩
abbrev NS_ERR_REC0.GEN : Fld := ⟨0x0140, 15, 8⟩

/-- NS_ERR_REC1 (R743). -/
abbrev Reg.NS_ERR_REC1 : Nat := 0x0148
abbrev NS_ERR_REC1.DETAIL : Fld := ⟨0x0148, 0, 52⟩

/-- NS_ERR_REC2 (R744). -/
abbrev Reg.NS_ERR_REC2 : Nat := 0x0150
abbrev NS_ERR_REC2.STAMP : Fld := ⟨0x0150, 0, 64⟩

/-- NS_ERR_CNT (R745). -/
abbrev Reg.NS_ERR_CNT : Nat := 0x0158
abbrev NS_ERR_CNT.VALID : Fld := ⟨0x0158, 63, 1⟩
abbrev NS_ERR_CNT.LASTCODE : Fld := ⟨0x0158, 32, 8⟩
abbrev NS_ERR_CNT.COUNT : Fld := ⟨0x0158, 0, 32⟩

/-- NS_PL_HBMBASE (R56). -/
abbrev Reg.NS_PL_HBMBASE : Nat := 0x1000
abbrev NS_PL_HBMBASE.LOCK : Fld := ⟨0x1000, 63, 1⟩
abbrev NS_PL_HBMBASE.BASE : Fld := ⟨0x1000, 0, 12⟩

/-- NS_PL_STACKLIM (R57). -/
abbrev Reg.NS_PL_STACKLIM : Nat := 0x1008
abbrev NS_PL_STACKLIM.VISCH : Fld := ⟨0x1008, 0, 6⟩

/-- NS_WAYMAP (R58). -/
abbrev Reg.NS_WAYMAP : Nat := 0x1040
abbrev NS_WAYMAP.WAY15 : Fld := ⟨0x1040, 60, 4⟩
abbrev NS_WAYMAP.WAY14 : Fld := ⟨0x1040, 56, 4⟩
abbrev NS_WAYMAP.WAY13 : Fld := ⟨0x1040, 52, 4⟩
abbrev NS_WAYMAP.WAY12 : Fld := ⟨0x1040, 48, 4⟩
abbrev NS_WAYMAP.WAY11 : Fld := ⟨0x1040, 44, 4⟩
abbrev NS_WAYMAP.WAY10 : Fld := ⟨0x1040, 40, 4⟩
abbrev NS_WAYMAP.WAY9 : Fld := ⟨0x1040, 36, 4⟩
abbrev NS_WAYMAP.WAY8 : Fld := ⟨0x1040, 32, 4⟩
abbrev NS_WAYMAP.WAY7 : Fld := ⟨0x1040, 28, 4⟩
abbrev NS_WAYMAP.WAY6 : Fld := ⟨0x1040, 24, 4⟩
abbrev NS_WAYMAP.WAY5 : Fld := ⟨0x1040, 20, 4⟩
abbrev NS_WAYMAP.WAY4 : Fld := ⟨0x1040, 16, 4⟩
abbrev NS_WAYMAP.WAY3 : Fld := ⟨0x1040, 12, 4⟩
abbrev NS_WAYMAP.WAY2 : Fld := ⟨0x1040, 8, 4⟩
abbrev NS_WAYMAP.WAY1 : Fld := ⟨0x1040, 4, 4⟩
abbrev NS_WAYMAP.WAY0 : Fld := ⟨0x1040, 0, 4⟩

/-- NS_WAYMAP_NEXT (R58). -/
abbrev Reg.NS_WAYMAP_NEXT : Nat := 0x1048
abbrev NS_WAYMAP_NEXT.WAY15 : Fld := ⟨0x1048, 60, 4⟩
abbrev NS_WAYMAP_NEXT.WAY14 : Fld := ⟨0x1048, 56, 4⟩
abbrev NS_WAYMAP_NEXT.WAY13 : Fld := ⟨0x1048, 52, 4⟩
abbrev NS_WAYMAP_NEXT.WAY12 : Fld := ⟨0x1048, 48, 4⟩
abbrev NS_WAYMAP_NEXT.WAY11 : Fld := ⟨0x1048, 44, 4⟩
abbrev NS_WAYMAP_NEXT.WAY10 : Fld := ⟨0x1048, 40, 4⟩
abbrev NS_WAYMAP_NEXT.WAY9 : Fld := ⟨0x1048, 36, 4⟩
abbrev NS_WAYMAP_NEXT.WAY8 : Fld := ⟨0x1048, 32, 4⟩
abbrev NS_WAYMAP_NEXT.WAY7 : Fld := ⟨0x1048, 28, 4⟩
abbrev NS_WAYMAP_NEXT.WAY6 : Fld := ⟨0x1048, 24, 4⟩
abbrev NS_WAYMAP_NEXT.WAY5 : Fld := ⟨0x1048, 20, 4⟩
abbrev NS_WAYMAP_NEXT.WAY4 : Fld := ⟨0x1048, 16, 4⟩
abbrev NS_WAYMAP_NEXT.WAY3 : Fld := ⟨0x1048, 12, 4⟩
abbrev NS_WAYMAP_NEXT.WAY2 : Fld := ⟨0x1048, 8, 4⟩
abbrev NS_WAYMAP_NEXT.WAY1 : Fld := ⟨0x1048, 4, 4⟩
abbrev NS_WAYMAP_NEXT.WAY0 : Fld := ⟨0x1048, 0, 4⟩

/-- NS_WAYCHG (R59). -/
abbrev Reg.NS_WAYCHG : Nat := 0x1050
abbrev NS_WAYCHG.DRAIN : Fld := ⟨0x1050, 16, 16⟩
abbrev NS_WAYCHG.STATUS : Fld := ⟨0x1050, 5, 3⟩
abbrev NS_WAYCHG.DONE : Fld := ⟨0x1050, 2, 1⟩
abbrev NS_WAYCHG.BUSY : Fld := ⟨0x1050, 1, 1⟩
abbrev NS_WAYCHG.GO : Fld := ⟨0x1050, 0, 1⟩

/-- NS_HOSTWIN*n* (R60). -/
abbrev Reg.NS_HOSTWIN (n : Nat) : Nat := 0x1080 + 8 * n
abbrev NS_HOSTWIN.EN (n : Nat) : Fld := ⟨0x1080 + 8 * n, 63, 1⟩
abbrev NS_HOSTWIN.LIMIT (n : Nat) : Fld := ⟨0x1080 + 8 * n, 32, 31⟩
abbrev NS_HOSTWIN.BASE (n : Nat) : Fld := ⟨0x1080 + 8 * n, 0, 31⟩

/-- NS_DIST_CTL (R61). -/
abbrev Reg.NS_DIST_CTL : Nat := 0x10C0
abbrev NS_DIST_CTL.BUSY : Fld := ⟨0x10C0, 32, 1⟩
abbrev NS_DIST_CTL.SEQ : Fld := ⟨0x10C0, 0, 32⟩

/-- NS_DIST*n* (R62). -/
abbrev Reg.NS_DIST (n : Nat) : Nat := 0x1100 + 8 * n
abbrev NS_DIST.ENT7 (n : Nat) : Fld := ⟨0x1100 + 8 * n, 56, 8⟩
abbrev NS_DIST.ENT6 (n : Nat) : Fld := ⟨0x1100 + 8 * n, 48, 8⟩
abbrev NS_DIST.ENT5 (n : Nat) : Fld := ⟨0x1100 + 8 * n, 40, 8⟩
abbrev NS_DIST.ENT4 (n : Nat) : Fld := ⟨0x1100 + 8 * n, 32, 8⟩
abbrev NS_DIST.ENT3 (n : Nat) : Fld := ⟨0x1100 + 8 * n, 24, 8⟩
abbrev NS_DIST.ENT2 (n : Nat) : Fld := ⟨0x1100 + 8 * n, 16, 8⟩
abbrev NS_DIST.ENT1 (n : Nat) : Fld := ⟨0x1100 + 8 * n, 8, 8⟩
abbrev NS_DIST.ENT0 (n : Nat) : Fld := ⟨0x1100 + 8 * n, 0, 8⟩

/-- NS_RET_CTL (R121). -/
abbrev Reg.NS_RET_CTL : Nat := 0x2000
abbrev NS_RET_CTL.KEEPFREE : Fld := ⟨0x2000, 12, 4⟩
abbrev NS_RET_CTL.DEACMODE : Fld := ⟨0x2000, 8, 1⟩
abbrev NS_RET_CTL.COMBMAX : Fld := ⟨0x2000, 0, 5⟩

/-- NS_RET_EVT (R122). -/
abbrev Reg.NS_RET_EVT : Nat := 0x2008
abbrev NS_RET_EVT.KEEPDEM : Fld := ⟨0x2008, 48, 16⟩
abbrev NS_RET_EVT.STALE : Fld := ⟨0x2008, 32, 16⟩
abbrev NS_RET_EVT.REVIVE : Fld := ⟨0x2008, 16, 16⟩
abbrev NS_RET_EVT.DISCARD : Fld := ⟨0x2008, 0, 16⟩

/-- NS_RET_EVT2 (R123). -/
abbrev Reg.NS_RET_EVT2 : Nat := 0x2010
abbrev NS_RET_EVT2.NOALLOC : Fld := ⟨0x2010, 16, 16⟩
abbrev NS_RET_EVT2.RETRYALLOC : Fld := ⟨0x2010, 0, 16⟩

/-- NS_VT_CTL (R187). -/
abbrev Reg.NS_VT_CTL : Nat := 0x2100
abbrev NS_VT_CTL.SNAPCTX : Fld := ⟨0x2100, 32, 12⟩
abbrev NS_VT_CTL.VMASK : Fld := ⟨0x2100, 0, 16⟩

/-- NS_VT_EVT (R188). -/
abbrev Reg.NS_VT_EVT : Nat := 0x2108
abbrev NS_VT_EVT.DENIED : Fld := ⟨0x2108, 32, 16⟩
abbrev NS_VT_EVT.ZFILL : Fld := ⟨0x2108, 16, 16⟩
abbrev NS_VT_EVT.UNINITRD : Fld := ⟨0x2108, 0, 16⟩

/-- NS_BLK_CTL (R189). -/
abbrev Reg.NS_BLK_CTL : Nat := 0x2110
abbrev NS_BLK_CTL.ABORT : Fld := ⟨0x2110, 2, 1⟩
abbrev NS_BLK_CTL.PAUSE : Fld := ⟨0x2110, 1, 1⟩

/-- NS_BLK_STAT (R190). -/
abbrev Reg.NS_BLK_STAT : Nat := 0x2118
abbrev NS_BLK_STAT.PURGED : Fld := ⟨0x2118, 48, 16⟩
abbrev NS_BLK_STAT.ACTOPC : Fld := ⟨0x2118, 20, 4⟩
abbrev NS_BLK_STAT.QDEPTH : Fld := ⟨0x2118, 6, 5⟩
abbrev NS_BLK_STAT.CPLIRQ : Fld := ⟨0x2118, 4, 1⟩
abbrev NS_BLK_STAT.PAUSED : Fld := ⟨0x2118, 3, 1⟩
abbrev NS_BLK_STAT.HOLDING : Fld := ⟨0x2118, 2, 1⟩
abbrev NS_BLK_STAT.URGACT : Fld := ⟨0x2118, 1, 1⟩
abbrev NS_BLK_STAT.ACTIVE : Fld := ⟨0x2118, 0, 1⟩

/-- NS_BLK_PROG (R191). -/
abbrev Reg.NS_BLK_PROG : Nat := 0x2120
abbrev NS_BLK_PROG.TAG : Fld := ⟨0x2120, 48, 16⟩
abbrev NS_BLK_PROG.OPC : Fld := ⟨0x2120, 44, 4⟩
abbrev NS_BLK_PROG.PROGRESS : Fld := ⟨0x2120, 0, 40⟩

/-- NS_BLK_CPLERR (R192). -/
abbrev Reg.NS_BLK_CPLERR : Nat := 0x2128
abbrev NS_BLK_CPLERR.TAG : Fld := ⟨0x2128, 48, 16⟩
abbrev NS_BLK_CPLERR.STATUS : Fld := ⟨0x2128, 40, 8⟩
abbrev NS_BLK_CPLERR.COUNT : Fld := ⟨0x2128, 0, 16⟩

/-- NS_VT_REGION*n* (R193). -/
abbrev Reg.NS_VT_REGION (n : Nat) : Nat := 0x2200 + 8 * n
abbrev NS_VT_REGION.EN (n : Nat) : Fld := ⟨0x2200 + 8 * n, 63, 1⟩
abbrev NS_VT_REGION.SHARED (n : Nat) : Fld := ⟨0x2200 + 8 * n, 62, 1⟩
abbrev NS_VT_REGION.TEARDOWN (n : Nat) : Fld := ⟨0x2200 + 8 * n, 61, 1⟩
abbrev NS_VT_REGION.BUSY (n : Nat) : Fld := ⟨0x2200 + 8 * n, 60, 1⟩
abbrev NS_VT_REGION.CTX (n : Nat) : Fld := ⟨0x2200 + 8 * n, 48, 12⟩
abbrev NS_VT_REGION.LIMIT (n : Nat) : Fld := ⟨0x2200 + 8 * n, 32, 12⟩
abbrev NS_VT_REGION.BASE (n : Nat) : Fld := ⟨0x2200 + 8 * n, 0, 12⟩

/-- NS_RA_CAP (R251). -/
abbrev Reg.NS_RA_CAP : Nat := 0x3000
abbrev NS_RA_CAP.FP64RATE : Fld := ⟨0x3000, 56, 8⟩
abbrev NS_RA_CAP.ARGRATE : Fld := ⟨0x3000, 48, 8⟩
abbrev NS_RA_CAP.EXRATE : Fld := ⟨0x3000, 40, 8⟩
abbrev NS_RA_CAP.INTRATE : Fld := ⟨0x3000, 32, 8⟩
abbrev NS_RA_CAP.HRATE : Fld := ⟨0x3000, 24, 8⟩
abbrev NS_RA_CAP.SRATE : Fld := ⟨0x3000, 16, 8⟩
abbrev NS_RA_CAP.ACCMASK : Fld := ⟨0x3000, 8, 8⟩
abbrev NS_RA_CAP.OPMASK : Fld := ⟨0x3000, 0, 8⟩

/-- NS_RA_STICKY (R252). -/
abbrev Reg.NS_RA_STICKY : Nat := 0x3008
abbrev NS_RA_STICKY.POISON : Fld := ⟨0x3008, 7, 1⟩
abbrev NS_RA_STICKY.REJCMB : Fld := ⟨0x3008, 6, 1⟩
abbrev NS_RA_STICKY.REJFMT : Fld := ⟨0x3008, 5, 1⟩
abbrev NS_RA_STICKY.XOVF : Fld := ⟨0x3008, 4, 1⟩
abbrev NS_RA_STICKY.IOVF : Fld := ⟨0x3008, 3, 1⟩
abbrev NS_RA_STICKY.OF : Fld := ⟨0x3008, 2, 1⟩
abbrev NS_RA_STICKY.NV : Fld := ⟨0x3008, 1, 1⟩
abbrev NS_RA_STICKY.NANIN : Fld := ⟨0x3008, 0, 1⟩

/-- NS_RA_REJ (R253). -/
abbrev Reg.NS_RA_REJ : Nat := 0x3010
abbrev NS_RA_REJ.FMT : Fld := ⟨0x3010, 16, 16⟩
abbrev NS_RA_REJ.CMB : Fld := ⟨0x3010, 0, 16⟩

/-- NS_GRPOPEN (R312). -/
abbrev Reg.NS_GRPOPEN : Nat := 0x3040
abbrev NS_GRPOPEN.CLASS : Fld := ⟨0x3040, 60, 3⟩
abbrev NS_GRPOPEN.CTX : Fld := ⟨0x3040, 48, 12⟩
abbrev NS_GRPOPEN.RSTATUS : Fld := ⟨0x3040, 40, 8⟩
abbrev NS_GRPOPEN.BUSY : Fld := ⟨0x3040, 16, 1⟩
abbrev NS_GRPOPEN.GO : Fld := ⟨0x3040, 8, 1⟩
abbrev NS_GRPOPEN.GROUP : Fld := ⟨0x3040, 0, 6⟩

/-- NS_GRP_OPENMASK (R314). -/
abbrev Reg.NS_GRP_OPENMASK : Nat := 0x3048
abbrev NS_GRP_OPENMASK.INUSE : Fld := ⟨0x3048, 0, 64⟩

/-- NS_GRP_EVT (R315). -/
abbrev Reg.NS_GRP_EVT : Nat := 0x3050
abbrev NS_GRP_EVT.FLUSHPART : Fld := ⟨0x3050, 48, 16⟩
abbrev NS_GRP_EVT.FWDREJ : Fld := ⟨0x3050, 32, 16⟩
abbrev NS_GRP_EVT.ABORTED : Fld := ⟨0x3050, 16, 16⟩
abbrev NS_GRP_EVT.REJOTHER : Fld := ⟨0x3050, 0, 16⟩

/-- NS_GRPDESC*n* (R316). -/
abbrev Reg.NS_GRPDESC (n : Nat) : Nat := 0x3100 + 8 * n
abbrev NS_GRPDESC.WORD (n : Nat) : Fld := ⟨0x3100 + 8 * n, 0, 64⟩

/-- NS_GRPSTAT*n* (R317). -/
abbrev Reg.NS_GRPSTAT (n : Nat) : Nat := 0x3200 + 8 * n
abbrev NS_GRPSTAT.STATE (n : Nat) : Fld := ⟨0x3200 + 8 * n, 61, 3⟩
abbrev NS_GRPSTAT.TKIND (n : Nat) : Fld := ⟨0x3200 + 8 * n, 60, 1⟩
abbrev NS_GRPSTAT.CTX (n : Nat) : Fld := ⟨0x3200 + 8 * n, 48, 12⟩
abbrev NS_GRPSTAT.LAST (n : Nat) : Fld := ⟨0x3200 + 8 * n, 40, 8⟩
abbrev NS_GRPSTAT.FLAGS (n : Nat) : Fld := ⟨0x3200 + 8 * n, 32, 8⟩
abbrev NS_GRPSTAT.CNTSAT (n : Nat) : Fld := ⟨0x3200 + 8 * n, 31, 1⟩
abbrev NS_GRPSTAT.SHORTU (n : Nat) : Fld := ⟨0x3200 + 8 * n, 0, 24⟩

/-- NS_FP_CAP (R351). -/
abbrev Reg.NS_FP_CAP : Nat := 0x4000
abbrev NS_FP_CAP.NWIN : Fld := ⟨0x4000, 56, 8⟩
abbrev NS_FP_CAP.RDLAT : Fld := ⟨0x4000, 48, 8⟩
abbrev NS_FP_CAP.MXMASK : Fld := ⟨0x4000, 32, 16⟩
abbrev NS_FP_CAP.SMASK : Fld := ⟨0x4000, 16, 16⟩
abbrev NS_FP_CAP.DMASK : Fld := ⟨0x4000, 0, 16⟩

/-- NS_FP_STICKY (R352). -/
abbrev Reg.NS_FP_STICKY : Nat := 0x4008
abbrev NS_FP_STICKY.SCLAMP : Fld := ⟨0x4008, 5, 1⟩
abbrev NS_FP_STICKY.INFBLK : Fld := ⟨0x4008, 4, 1⟩
abbrev NS_FP_STICKY.NANBLK : Fld := ⟨0x4008, 3, 1⟩
abbrev NS_FP_STICKY.OF : Fld := ⟨0x4008, 2, 1⟩
abbrev NS_FP_STICKY.NV : Fld := ⟨0x4008, 1, 1⟩
abbrev NS_FP_STICKY.REJ : Fld := ⟨0x4008, 0, 1⟩

/-- NS_FP_EVT (R353). -/
abbrev Reg.NS_FP_EVT : Nat := 0x4010
abbrev NS_FP_EVT.SCALEUP : Fld := ⟨0x4010, 48, 16⟩
abbrev NS_FP_EVT.REJ : Fld := ⟨0x4010, 32, 16⟩
abbrev NS_FP_EVT.CVTWR : Fld := ⟨0x4010, 16, 16⟩
abbrev NS_FP_EVT.CVTRD : Fld := ⟨0x4010, 0, 16⟩

/-- NS_FP_WINA*n* (R354). -/
abbrev Reg.NS_FP_WINA (n : Nat) : Nat := 0x4100 + 16 * n
abbrev NS_FP_WINA.EN (n : Nat) : Fld := ⟨0x4100 + 16 * n, 63, 1⟩
abbrev NS_FP_WINA.KIND (n : Nat) : Fld := ⟨0x4100 + 16 * n, 62, 1⟩
abbrev NS_FP_WINA.SFMT (n : Nat) : Fld := ⟨0x4100 + 16 * n, 56, 5⟩
abbrev NS_FP_WINA.DBASE (n : Nat) : Fld := ⟨0x4100 + 16 * n, 12, 40⟩
abbrev NS_FP_WINA.SBASE (n : Nat) : Fld := ⟨0x4100 + 16 * n, 0, 12⟩

/-- NS_FP_WINB*n* (R355). -/
abbrev Reg.NS_FP_WINB (n : Nat) : Nat := 0x4108 + 16 * n
abbrev NS_FP_WINB.DLIMIT (n : Nat) : Fld := ⟨0x4108 + 16 * n, 12, 40⟩

/-- NS_UU_CAP (R412). -/
abbrev Reg.NS_UU_CAP : Nat := 0x5000
abbrev NS_UU_CAP.ATOMTRK : Fld := ⟨0x5000, 56, 8⟩
abbrev NS_UU_CAP.DIRWAYS : Fld := ⟨0x5000, 48, 8⟩
abbrev NS_UU_CAP.DIRSETS : Fld := ⟨0x5000, 32, 16⟩
abbrev NS_UU_CAP.PREDENT : Fld := ⟨0x5000, 20, 12⟩
abbrev NS_UU_CAP.CREDENT : Fld := ⟨0x5000, 8, 12⟩
abbrev NS_UU_CAP.HATOMLAT : Fld := ⟨0x5000, 0, 8⟩

/-- NS_UU_CTL (R413). -/
abbrev Reg.NS_UU_CTL : Nat := 0x5008
abbrev NS_UU_CTL.PREDCLR : Fld := ⟨0x5008, 8, 1⟩
abbrev NS_UU_CTL.NEARTH : Fld := ⟨0x5008, 4, 3⟩
abbrev NS_UU_CTL.HMODE : Fld := ⟨0x5008, 0, 2⟩

/-- NS_UU_STICKY (R414). -/
abbrev Reg.NS_UU_STICKY : Nat := 0x5010
abbrev NS_UU_STICKY.POISON : Fld := ⟨0x5010, 2, 1⟩
abbrev NS_UU_STICKY.OF : Fld := ⟨0x5010, 1, 1⟩
abbrev NS_UU_STICKY.NV : Fld := ⟨0x5010, 0, 1⟩

/-- NS_UU_EVT (R415). -/
abbrev Reg.NS_UU_EVT : Nat := 0x5018
abbrev NS_UU_EVT.NEAR : Fld := ⟨0x5018, 48, 16⟩
abbrev NS_UU_EVT.FAR : Fld := ⟨0x5018, 32, 16⟩
abbrev NS_UU_EVT.REFUSED : Fld := ⟨0x5018, 16, 16⟩
abbrev NS_UU_EVT.POISON : Fld := ⟨0x5018, 0, 16⟩

/-- NS_DIR_CTL (R416). -/
abbrev Reg.NS_DIR_CTL : Nat := 0x5040
abbrev NS_DIR_CTL.CREDTOEXP : Fld := ⟨0x5040, 8, 5⟩
abbrev NS_DIR_CTL.SNPTOEXP : Fld := ⟨0x5040, 0, 5⟩

/-- NS_DIR_STAT (R417). -/
abbrev Reg.NS_DIR_STAT : Nat := 0x5048
abbrev NS_DIR_STAT.ENTRIES : Fld := ⟨0x5048, 47, 17⟩
abbrev NS_DIR_STAT.TOCLUSTER : Fld := ⟨0x5048, 8, 5⟩
abbrev NS_DIR_STAT.PROTERR : Fld := ⟨0x5048, 3, 1⟩
abbrev NS_DIR_STAT.RECLDONE : Fld := ⟨0x5048, 2, 1⟩
abbrev NS_DIR_STAT.RECLBUSY : Fld := ⟨0x5048, 1, 1⟩
abbrev NS_DIR_STAT.SNPTO : Fld := ⟨0x5048, 0, 1⟩

/-- NS_DIR_DEADMASK (R418). -/
abbrev Reg.NS_DIR_DEADMASK : Nat := 0x5050
abbrev NS_DIR_DEADMASK.DEAD : Fld := ⟨0x5050, 0, 32⟩

/-- NS_DIR_RECLAIM (R419). -/
abbrev Reg.NS_DIR_RECLAIM : Nat := 0x5058
abbrev NS_DIR_RECLAIM.GO : Fld := ⟨0x5058, 8, 1⟩
abbrev NS_DIR_RECLAIM.CLUSTER : Fld := ⟨0x5058, 0, 5⟩

/-- NS_DIR_RECLOG (R420). -/
abbrev Reg.NS_DIR_RECLOG : Nat := 0x5060
abbrev NS_DIR_RECLOG.CLUSTER : Fld := ⟨0x5060, 59, 5⟩
abbrev NS_DIR_RECLOG.CLEARED : Fld := ⟨0x5060, 32, 24⟩
abbrev NS_DIR_RECLOG.POISONED : Fld := ⟨0x5060, 0, 24⟩

/-- NS_DIR_EVT (R421). -/
abbrev Reg.NS_DIR_EVT : Nat := 0x5068
abbrev NS_DIR_EVT.CREDLOST : Fld := ⟨0x5068, 48, 16⟩
abbrev NS_DIR_EVT.RETRYNC : Fld := ⟨0x5068, 32, 16⟩
abbrev NS_DIR_EVT.RETRYCR : Fld := ⟨0x5068, 16, 16⟩
abbrev NS_DIR_EVT.LATEDROP : Fld := ⟨0x5068, 0, 16⟩

/-- NS_DIR_EVT2 (R422). -/
abbrev Reg.NS_DIR_EVT2 : Nat := 0x5070
abbrev NS_DIR_EVT2.DIRVICT : Fld := ⟨0x5070, 16, 16⟩
abbrev NS_DIR_EVT2.NACKDEAD : Fld := ⟨0x5070, 0, 16⟩

/-- NS_ACCN_CAP (R465). -/
abbrev Reg.NS_ACCN_CAP : Nat := 0x6000
abbrev NS_ACCN_CAP.NCNT : Fld := ⟨0x6000, 48, 16⟩
abbrev NS_ACCN_CAP.CNTW : Fld := ⟨0x6000, 40, 8⟩
abbrev NS_ACCN_CAP.SWEEPQ : Fld := ⟨0x6000, 32, 8⟩

/-- NS_ACCN_STICKY (R466). -/
abbrev Reg.NS_ACCN_STICKY : Nat := 0x6008
abbrev NS_ACCN_STICKY.TAINTREL : Fld := ⟨0x6008, 4, 1⟩
abbrev NS_ACCN_STICKY.OVF : Fld := ⟨0x6008, 3, 1⟩
abbrev NS_ACCN_STICKY.MISMATCH : Fld := ⟨0x6008, 2, 1⟩
abbrev NS_ACCN_STICKY.REJ : Fld := ⟨0x6008, 1, 1⟩
abbrev NS_ACCN_STICKY.EXCESS : Fld := ⟨0x6008, 0, 1⟩

/-- NS_ACCN_EVT (R467). -/
abbrev Reg.NS_ACCN_EVT : Nat := 0x6010
abbrev NS_ACCN_EVT.RELEASED : Fld := ⟨0x6010, 48, 16⟩
abbrev NS_ACCN_EVT.STALEINC : Fld := ⟨0x6010, 32, 16⟩
abbrev NS_ACCN_EVT.STRAYINC : Fld := ⟨0x6010, 16, 16⟩
abbrev NS_ACCN_EVT.REJECTED : Fld := ⟨0x6010, 0, 16⟩

/-- NS_ACCN_TARGET*n* (R468). -/
abbrev Reg.NS_ACCN_TARGET (n : Nat) : Nat := 0x6800 + 8 * n
abbrev NS_ACCN_TARGET.EN (n : Nat) : Fld := ⟨0x6800 + 8 * n, 63, 1⟩
abbrev NS_ACCN_TARGET.STATE (n : Nat) : Fld := ⟨0x6800 + 8 * n, 61, 2⟩
abbrev NS_ACCN_TARGET.TAINT (n : Nat) : Fld := ⟨0x6800 + 8 * n, 60, 1⟩
abbrev NS_ACCN_TARGET.CTX (n : Nat) : Fld := ⟨0x6800 + 8 * n, 48, 12⟩
abbrev NS_ACCN_TARGET.TARGET (n : Nat) : Fld := ⟨0x6800 + 8 * n, 24, 24⟩
abbrev NS_ACCN_TARGET.COUNT (n : Nat) : Fld := ⟨0x6800 + 8 * n, 0, 24⟩

/-- NS_REG_CTL (R495). -/
abbrev Reg.NS_REG_CTL : Nat := 0x7000
abbrev NS_REG_CTL.URGWIN : Fld := ⟨0x7000, 32, 8⟩
abbrev NS_REG_CTL.FLOORGAP : Fld := ⟨0x7000, 16, 8⟩
abbrev NS_REG_CTL.BGPRI : Fld := ⟨0x7000, 8, 4⟩

/-- NS_REG_EST (R496). -/
abbrev Reg.NS_REG_EST : Nat := 0x7008
abbrev NS_REG_EST.EST_MISS : Fld := ⟨0x7008, 48, 16⟩
abbrev NS_REG_EST.EST_HIT : Fld := ⟨0x7008, 32, 16⟩
abbrev NS_REG_EST.EST_WR : Fld := ⟨0x7008, 16, 16⟩
abbrev NS_REG_EST.EST_FWD : Fld := ⟨0x7008, 0, 16⟩

/-- NS_REG_CLASS*n* (R497). -/
abbrev Reg.NS_REG_CLASS (n : Nat) : Nat := 0x7040 + 8 * n
abbrev NS_REG_CLASS.TARGET (n : Nat) : Fld := ⟨0x7040 + 8 * n, 48, 16⟩
abbrev NS_REG_CLASS.MEAN (n : Nat) : Fld := ⟨0x7040 + 8 * n, 32, 16⟩
abbrev NS_REG_CLASS.BOOST (n : Nat) : Fld := ⟨0x7040 + 8 * n, 30, 2⟩
abbrev NS_REG_CLASS.BASEPRI (n : Nat) : Fld := ⟨0x7040 + 8 * n, 24, 4⟩

/-- NS_REG_SLKEVT*n* (R498). -/
abbrev Reg.NS_REG_SLKEVT (n : Nat) : Nat := 0x7080 + 8 * n
abbrev NS_REG_SLKEVT.URGENT (n : Nat) : Fld := ⟨0x7080 + 8 * n, 16, 16⟩
abbrev NS_REG_SLKEVT.DLMISS (n : Nat) : Fld := ⟨0x7080 + 8 * n, 0, 16⟩

/-- NS_REG_RDBYTES*n* (R499). -/
abbrev Reg.NS_REG_RDBYTES (n : Nat) : Nat := 0x7100 + 8 * n
abbrev NS_REG_RDBYTES.OVF (n : Nat) : Fld := ⟨0x7100 + 8 * n, 63, 1⟩
abbrev NS_REG_RDBYTES.COUNT (n : Nat) : Fld := ⟨0x7100 + 8 * n, 0, 48⟩

/-- NS_REG_WRBYTES*n* (R499). -/
abbrev Reg.NS_REG_WRBYTES (n : Nat) : Nat := 0x7140 + 8 * n
abbrev NS_REG_WRBYTES.OVF (n : Nat) : Fld := ⟨0x7140 + 8 * n, 63, 1⟩
abbrev NS_REG_WRBYTES.COUNT (n : Nat) : Fld := ⟨0x7140 + 8 * n, 0, 48⟩

/-- NS_REG_BUDGET*n* (R500). -/
abbrev Reg.NS_REG_BUDGET (n : Nat) : Nat := 0x7800 + 8 * n
abbrev NS_REG_BUDGET.USED (n : Nat) : Fld := ⟨0x7800 + 8 * n, 32, 16⟩
abbrev NS_REG_BUDGET.OVERCNT (n : Nat) : Fld := ⟨0x7800 + 8 * n, 16, 8⟩
abbrev NS_REG_BUDGET.BUDGET (n : Nat) : Fld := ⟨0x7800 + 8 * n, 0, 16⟩

/-- NS_CH_CTL (R601). -/
abbrev Reg.NS_CH_CTL : Nat := 0x8000
abbrev NS_CH_CTL.RTMAXEXP : Fld := ⟨0x8000, 8, 5⟩

/-- NS_CH_STAT (R602). -/
abbrev Reg.NS_CH_STAT : Nat := 0x8008
abbrev NS_CH_STAT.RTCOUNT : Fld := ⟨0x8008, 48, 16⟩
abbrev NS_CH_STAT.RTLAST : Fld := ⟨0x8008, 24, 24⟩
abbrev NS_CH_STAT.HELD : Fld := ⟨0x8008, 16, 8⟩
abbrev NS_CH_STAT.RTTO : Fld := ⟨0x8008, 3, 1⟩
abbrev NS_CH_STAT.CSTATE : Fld := ⟨0x8008, 0, 3⟩

/-- NS_CH_STALL (R603). -/
abbrev Reg.NS_CH_STALL : Nat := 0x8010
abbrev NS_CH_STALL.RTWORST : Fld := ⟨0x8010, 40, 24⟩
abbrev NS_CH_STALL.RTRETRY : Fld := ⟨0x8010, 16, 16⟩
abbrev NS_CH_STALL.RTTOCNT : Fld := ⟨0x8010, 0, 16⟩

/-- NS_CH_MAPLIST (R604). -/
abbrev Reg.NS_CH_MAPLIST : Nat := 0x8040
abbrev NS_CH_MAPLIST.COUNT : Fld := ⟨0x8040, 32, 3⟩
abbrev NS_CH_MAPLIST.CH3 : Fld := ⟨0x8040, 24, 5⟩
abbrev NS_CH_MAPLIST.CH2 : Fld := ⟨0x8040, 16, 5⟩
abbrev NS_CH_MAPLIST.CH1 : Fld := ⟨0x8040, 8, 5⟩
abbrev NS_CH_MAPLIST.CH0 : Fld := ⟨0x8040, 0, 5⟩

/-- NS_CH_MAPCTL (R605). -/
abbrev Reg.NS_CH_MAPCTL : Nat := 0x8048
abbrev NS_CH_MAPCTL.PROGRESS : Fld := ⟨0x8048, 40, 24⟩
abbrev NS_CH_MAPCTL.STATUS : Fld := ⟨0x8048, 8, 3⟩
abbrev NS_CH_MAPCTL.SAVE : Fld := ⟨0x8048, 4, 1⟩
abbrev NS_CH_MAPCTL.PREP : Fld := ⟨0x8048, 3, 1⟩
abbrev NS_CH_MAPCTL.DONE : Fld := ⟨0x8048, 2, 1⟩
abbrev NS_CH_MAPCTL.BUSY : Fld := ⟨0x8048, 1, 1⟩

/-- NS_ECC_CTL (R606). -/
abbrev Reg.NS_ECC_CTL : Nat := 0x8080
abbrev NS_ECC_CTL.SCRUBINT : Fld := ⟨0x8080, 48, 16⟩
abbrev NS_ECC_CTL.REPTH : Fld := ⟨0x8080, 32, 8⟩
abbrev NS_ECC_CTL.CBEN : Fld := ⟨0x8080, 0, 1⟩

/-- NS_ECC_STAT (R607). -/
abbrev Reg.NS_ECC_STAT : Nat := 0x8088
abbrev NS_ECC_STAT.SCRUBPASS : Fld := ⟨0x8088, 32, 32⟩
abbrev NS_ECC_STAT.SCRUBPOS : Fld := ⟨0x8088, 15, 17⟩
abbrev NS_ECC_STAT.BKLOSS : Fld := ⟨0x8088, 7, 1⟩
abbrev NS_ECC_STAT.REPINT : Fld := ⟨0x8088, 6, 1⟩
abbrev NS_ECC_STAT.BKUE : Fld := ⟨0x8088, 5, 1⟩
abbrev NS_ECC_STAT.BKCE : Fld := ⟨0x8088, 4, 1⟩
abbrev NS_ECC_STAT.DATAUE : Fld := ⟨0x8088, 3, 1⟩
abbrev NS_ECC_STAT.DATACE : Fld := ⟨0x8088, 2, 1⟩
abbrev NS_ECC_STAT.CHUE : Fld := ⟨0x8088, 1, 1⟩
abbrev NS_ECC_STAT.SCRUBON : Fld := ⟨0x8088, 0, 1⟩

/-- NS_ECC_EVT (R608). -/
abbrev Reg.NS_ECC_EVT : Nat := 0x8090
abbrev NS_ECC_EVT.DATACE : Fld := ⟨0x8090, 48, 16⟩
abbrev NS_ECC_EVT.DATAUE : Fld := ⟨0x8090, 32, 16⟩
abbrev NS_ECC_EVT.BKCE : Fld := ⟨0x8090, 16, 16⟩
abbrev NS_ECC_EVT.CHUE : Fld := ⟨0x8090, 0, 16⟩

/-- NS_ECC_EVT2 (R608). -/
abbrev Reg.NS_ECC_EVT2 : Nat := 0x8098
abbrev NS_ECC_EVT2.REFETCH : Fld := ⟨0x8098, 32, 16⟩
abbrev NS_ECC_EVT2.SKIP : Fld := ⟨0x8098, 16, 16⟩
abbrev NS_ECC_EVT2.POISWR : Fld := ⟨0x8098, 0, 16⟩

/-- NS_ECC_QUAR (R609). -/
abbrev Reg.NS_ECC_QUAR : Nat := 0x80A0
abbrev NS_ECC_QUAR.QCOUNT : Fld := ⟨0x80A0, 48, 16⟩
abbrev NS_ECC_QUAR.WAY : Fld := ⟨0x80A0, 32, 4⟩
abbrev NS_ECC_QUAR.SET : Fld := ⟨0x80A0, 16, 13⟩
abbrev NS_ECC_QUAR.STATUS : Fld := ⟨0x80A0, 8, 3⟩
abbrev NS_ECC_QUAR.DONE : Fld := ⟨0x80A0, 2, 1⟩
abbrev NS_ECC_QUAR.QCLR : Fld := ⟨0x80A0, 1, 1⟩
abbrev NS_ECC_QUAR.QSET : Fld := ⟨0x80A0, 0, 1⟩

/-- NS_ECC_CBCTL (R610). -/
abbrev Reg.NS_ECC_CBCTL : Nat := 0x80C0
abbrev NS_ECC_CBCTL.TARGET : Fld := ⟨0x80C0, 62, 2⟩
abbrev NS_ECC_CBCTL.WAY : Fld := ⟨0x80C0, 32, 4⟩
abbrev NS_ECC_CBCTL.SET : Fld := ⟨0x80C0, 16, 13⟩
abbrev NS_ECC_CBCTL.WORD : Fld := ⟨0x80C0, 8, 5⟩
abbrev NS_ECC_CBCTL.DONE : Fld := ⟨0x80C0, 2, 1⟩
abbrev NS_ECC_CBCTL.RAWWR : Fld := ⟨0x80C0, 1, 1⟩
abbrev NS_ECC_CBCTL.RAWRD : Fld := ⟨0x80C0, 0, 1⟩

/-- NS_ECC_CBDATA (R611). -/
abbrev Reg.NS_ECC_CBDATA : Nat := 0x80C8
abbrev NS_ECC_CBDATA.DATA : Fld := ⟨0x80C8, 0, 64⟩

/-- NS_ECC_CBCHK (R611). -/
abbrev Reg.NS_ECC_CBCHK : Nat := 0x80D0
abbrev NS_ECC_CBCHK.CHECK : Fld := ⟨0x80D0, 0, 8⟩

/-- NS_ECC_CLOG*n* (R612). -/
abbrev Reg.NS_ECC_CLOG (n : Nat) : Nat := 0x8100 + 8 * n
abbrev NS_ECC_CLOG.VALID (n : Nat) : Fld := ⟨0x8100 + 8 * n, 63, 1⟩
abbrev NS_ECC_CLOG.KIND (n : Nat) : Fld := ⟨0x8100 + 8 * n, 61, 2⟩
abbrev NS_ECC_CLOG.REPEAT (n : Nat) : Fld := ⟨0x8100 + 8 * n, 48, 8⟩
abbrev NS_ECC_CLOG.BIT (n : Nat) : Fld := ⟨0x8100 + 8 * n, 35, 7⟩
abbrev NS_ECC_CLOG.WAY (n : Nat) : Fld := ⟨0x8100 + 8 * n, 18, 4⟩
abbrev NS_ECC_CLOG.SET (n : Nat) : Fld := ⟨0x8100 + 8 * n, 5, 13⟩
abbrev NS_ECC_CLOG.WORD (n : Nat) : Fld := ⟨0x8100 + 8 * n, 0, 5⟩

/-- NS_ECC_REG*n* (R613). -/
abbrev Reg.NS_ECC_REG (n : Nat) : Nat := 0x8200 + 8 * n
abbrev NS_ECC_REG.CNT7 (n : Nat) : Fld := ⟨0x8200 + 8 * n, 56, 8⟩
abbrev NS_ECC_REG.CNT6 (n : Nat) : Fld := ⟨0x8200 + 8 * n, 48, 8⟩
abbrev NS_ECC_REG.CNT5 (n : Nat) : Fld := ⟨0x8200 + 8 * n, 40, 8⟩
abbrev NS_ECC_REG.CNT4 (n : Nat) : Fld := ⟨0x8200 + 8 * n, 32, 8⟩
abbrev NS_ECC_REG.CNT3 (n : Nat) : Fld := ⟨0x8200 + 8 * n, 24, 8⟩
abbrev NS_ECC_REG.CNT2 (n : Nat) : Fld := ⟨0x8200 + 8 * n, 16, 8⟩
abbrev NS_ECC_REG.CNT1 (n : Nat) : Fld := ⟨0x8200 + 8 * n, 8, 8⟩
abbrev NS_ECC_REG.CNT0 (n : Nat) : Fld := ⟨0x8200 + 8 * n, 0, 8⟩

/-- NS_RC_CTL (R659). -/
abbrev Reg.NS_RC_CTL : Nat := 0x9000
abbrev NS_RC_CTL.IDLETOEXP : Fld := ⟨0x9000, 8, 5⟩
abbrev NS_RC_CTL.HANGEXP : Fld := ⟨0x9000, 0, 5⟩

/-- NS_RC_BLK (R660). -/
abbrev Reg.NS_RC_BLK : Nat := 0x9008
abbrev NS_RC_BLK.TIMEOUT : Fld := ⟨0x9008, 4, 1⟩
abbrev NS_RC_BLK.BUSY : Fld := ⟨0x9008, 3, 1⟩
abbrev NS_RC_BLK.IDLE : Fld := ⟨0x9008, 2, 1⟩
abbrev NS_RC_BLK.IDLEREQ : Fld := ⟨0x9008, 1, 1⟩
abbrev NS_RC_BLK.GO : Fld := ⟨0x9008, 0, 1⟩

/-- NS_RC_HANG (R661). -/
abbrev Reg.NS_RC_HANG : Nat := 0x9010
abbrev NS_RC_HANG.MASK : Fld := ⟨0x9010, 56, 8⟩
abbrev NS_RC_HANG.KIND : Fld := ⟨0x9010, 53, 3⟩
abbrev NS_RC_HANG.REQID : Fld := ⟨0x9010, 45, 8⟩
abbrev NS_RC_HANG.CTX : Fld := ⟨0x9010, 33, 12⟩
abbrev NS_RC_HANG.OPC : Fld := ⟨0x9010, 27, 6⟩
abbrev NS_RC_HANG.AGE : Fld := ⟨0x9010, 0, 27⟩

/-- NS_RC_PURGE (R662). -/
abbrev Reg.NS_RC_PURGE : Nat := 0x9018
abbrev NS_RC_PURGE.BUSY : Fld := ⟨0x9018, 63, 1⟩
abbrev NS_RC_PURGE.CTX : Fld := ⟨0x9018, 48, 12⟩
abbrev NS_RC_PURGE.GEN : Fld := ⟨0x9018, 40, 8⟩
abbrev NS_RC_PURGE.ORPHAN : Fld := ⟨0x9018, 16, 16⟩
abbrev NS_RC_PURGE.COUNT : Fld := ⟨0x9018, 0, 16⟩

/-- NS_RC_GEN (R663). -/
abbrev Reg.NS_RC_GEN : Nat := 0x9020
abbrev NS_RC_GEN.CTX : Fld := ⟨0x9020, 32, 12⟩
abbrev NS_RC_GEN.GEN : Fld := ⟨0x9020, 0, 8⟩

/-- NS_RC_STALE (R664). -/
abbrev Reg.NS_RC_STALE : Nat := 0x9028
abbrev NS_RC_STALE.LATE : Fld := ⟨0x9028, 32, 16⟩
abbrev NS_RC_STALE.RPL : Fld := ⟨0x9028, 16, 16⟩
abbrev NS_RC_STALE.REQ : Fld := ⟨0x9028, 0, 16⟩

/-- NS_RC_WB (R665). -/
abbrev Reg.NS_RC_WB : Nat := 0x9030
abbrev NS_RC_WB.LINES : Fld := ⟨0x9030, 40, 24⟩
abbrev NS_RC_WB.DONE : Fld := ⟨0x9030, 2, 1⟩
abbrev NS_RC_WB.BUSY : Fld := ⟨0x9030, 1, 1⟩
abbrev NS_RC_WB.GO : Fld := ⟨0x9030, 0, 1⟩

/-- NS_RC_CREDREL (R666). -/
abbrev Reg.NS_RC_CREDREL : Nat := 0x9038
abbrev NS_RC_CREDREL.GO : Fld := ⟨0x9038, 8, 1⟩
abbrev NS_RC_CREDREL.REQID : Fld := ⟨0x9038, 0, 8⟩

/-- NS_RC_RSTREC (R667). -/
abbrev Reg.NS_RC_RSTREC : Nat := 0x9040
abbrev NS_RC_RSTREC.LOSTREQ : Fld := ⟨0x9040, 48, 16⟩
abbrev NS_RC_RSTREC.REINV : Fld := ⟨0x9040, 32, 16⟩
abbrev NS_RC_RSTREC.RSNOOP : Fld := ⟨0x9040, 16, 16⟩
abbrev NS_RC_RSTREC.RSTPOIS : Fld := ⟨0x9040, 0, 16⟩

/-- NS_BALANCE (R668). -/
abbrev Reg.NS_BALANCE : Nat := 0x9080
abbrev NS_BALANCE.VALID : Fld := ⟨0x9080, 63, 1⟩
abbrev NS_BALANCE.FAULT : Fld := ⟨0x9080, 62, 1⟩
abbrev NS_BALANCE.ACCN : Fld := ⟨0x9080, 8, 1⟩
abbrev NS_BALANCE.GRP : Fld := ⟨0x9080, 7, 1⟩
abbrev NS_BALANCE.CRED : Fld := ⟨0x9080, 6, 1⟩
abbrev NS_BALANCE.TRK : Fld := ⟨0x9080, 5, 1⟩
abbrev NS_BALANCE.DD : Fld := ⟨0x9080, 4, 1⟩
abbrev NS_BALANCE.LW : Fld := ⟨0x9080, 3, 1⟩
abbrev NS_BALANCE.HC : Fld := ⟨0x9080, 2, 1⟩
abbrev NS_BALANCE.MO : Fld := ⟨0x9080, 1, 1⟩
abbrev NS_BALANCE.MR : Fld := ⟨0x9080, 0, 1⟩

/-- NS_BALANCE_INC (R669). -/
abbrev Reg.NS_BALANCE_INC : Nat := 0x9088
abbrev NS_BALANCE_INC.INCRCVD : Fld := ⟨0x9088, 32, 32⟩
abbrev NS_BALANCE_INC.INCSENT : Fld := ⟨0x9088, 0, 32⟩

/-- NS_RST_CAUSE (R670). -/
abbrev Reg.NS_RST_CAUSE : Nat := 0x9100
abbrev NS_RST_CAUSE.CLR : Fld := ⟨0x9100, 63, 1⟩
abbrev NS_RST_CAUSE.LAST : Fld := ⟨0x9100, 53, 3⟩
abbrev NS_RST_CAUSE.SEEN : Fld := ⟨0x9100, 0, 6⟩

/-- NS_RST_CNT0 (R671). -/
abbrev Reg.NS_RST_CNT0 : Nat := 0x9108
abbrev NS_RST_CNT0.BLOCK : Fld := ⟨0x9108, 48, 16⟩
abbrev NS_RST_CNT0.CMP : Fld := ⟨0x9108, 32, 16⟩
abbrev NS_RST_CNT0.PKG : Fld := ⟨0x9108, 16, 16⟩
abbrev NS_RST_CNT0.POR : Fld := ⟨0x9108, 0, 16⟩

/-- NS_RST_CNT1 (R671). -/
abbrev Reg.NS_RST_CNT1 : Nat := 0x9110
abbrev NS_RST_CNT1.GLITCH : Fld := ⟨0x9110, 16, 16⟩
abbrev NS_RST_CNT1.BKUE : Fld := ⟨0x9110, 0, 16⟩

/-- NS_CNT_CTL (R705). -/
abbrev Reg.NS_CNT_CTL : Nat := 0xA000
abbrev NS_CNT_CTL.CAPSEQ : Fld := ⟨0xA000, 32, 16⟩
abbrev NS_CNT_CTL.FRZ : Fld := ⟨0xA000, 8, 1⟩
abbrev NS_CNT_CTL.FRZSTOP : Fld := ⟨0xA000, 1, 1⟩

/-- NS_CNT_PRIV (R706). -/
abbrev Reg.NS_CNT_PRIV : Nat := 0xA008
abbrev NS_CNT_PRIV.UPMC : Fld := ⟨0xA008, 8, 8⟩
abbrev NS_CNT_PRIV.UREAD : Fld := ⟨0xA008, 0, 1⟩

/-- NS_CNT_SNAP_PVSEQ (R711). -/
abbrev Reg.NS_CNT_SNAP_PVSEQ : Nat := 0xA038
abbrev NS_CNT_SNAP_PVSEQ.SEQ : Fld := ⟨0xA038, 0, 32⟩

/-- NS_CNT_CYCLE (R707). -/
abbrev Reg.NS_CNT_CYCLE : Nat := 0xA040
abbrev NS_CNT_CYCLE.COUNT : Fld := ⟨0xA040, 0, 64⟩

/-- NS_CNT_SLOT*n* (R708). -/
abbrev Reg.NS_CNT_SLOT (n : Nat) : Nat := 0xA048 + 8 * n
abbrev NS_CNT_SLOT.OVF (n : Nat) : Fld := ⟨0xA048 + 8 * n, 63, 1⟩
abbrev NS_CNT_SLOT.COUNT (n : Nat) : Fld := ⟨0xA048 + 8 * n, 0, 48⟩

/-- NS_CNT_PMC*n* (R709). -/
abbrev Reg.NS_CNT_PMC (n : Nat) : Nat := 0xA080 + 8 * n
abbrev NS_CNT_PMC.OVF (n : Nat) : Fld := ⟨0xA080 + 8 * n, 63, 1⟩
abbrev NS_CNT_PMC.COUNT (n : Nat) : Fld := ⟨0xA080 + 8 * n, 0, 48⟩

/-- NS_CNT_SEL*n* (R710). -/
abbrev Reg.NS_CNT_SEL (n : Nat) : Nat := 0xA0C0 + 8 * n
abbrev NS_CNT_SEL.EN (n : Nat) : Fld := ⟨0xA0C0 + 8 * n, 63, 1⟩
abbrev NS_CNT_SEL.OVFIRQ (n : Nat) : Fld := ⟨0xA0C0 + 8 * n, 62, 1⟩
abbrev NS_CNT_SEL.PIPEMASK (n : Nat) : Fld := ⟨0xA0C0 + 8 * n, 16, 2⟩
abbrev NS_CNT_SEL.CLSMASK (n : Nat) : Fld := ⟨0xA0C0 + 8 * n, 8, 8⟩
abbrev NS_CNT_SEL.EVENT (n : Nat) : Fld := ⟨0xA0C0 + 8 * n, 0, 8⟩

/-- NS_CNT_SNAP_CYCLE (R711). -/
abbrev Reg.NS_CNT_SNAP_CYCLE : Nat := 0xA100
abbrev NS_CNT_SNAP_CYCLE.WORD : Fld := ⟨0xA100, 0, 64⟩

/-- NS_CNT_SNAP_SLOT*n* (R711). -/
abbrev Reg.NS_CNT_SNAP_SLOT (n : Nat) : Nat := 0xA108 + 8 * n
abbrev NS_CNT_SNAP_SLOT.WORD (n : Nat) : Fld := ⟨0xA108 + 8 * n, 0, 64⟩

/-- NS_CNT_SNAP_PMC*n* (R711). -/
abbrev Reg.NS_CNT_SNAP_PMC (n : Nat) : Nat := 0xA140 + 8 * n
abbrev NS_CNT_SNAP_PMC.WORD (n : Nat) : Fld := ⟨0xA140 + 8 * n, 0, 64⟩

/-- NS_CNT_SNAP_RDB*n* (R711). -/
abbrev Reg.NS_CNT_SNAP_RDB (n : Nat) : Nat := 0xA180 + 8 * n
abbrev NS_CNT_SNAP_RDB.WORD (n : Nat) : Fld := ⟨0xA180 + 8 * n, 0, 64⟩

/-- NS_CNT_SNAP_WRB*n* (R711). -/
abbrev Reg.NS_CNT_SNAP_WRB (n : Nat) : Nat := 0xA1C0 + 8 * n
abbrev NS_CNT_SNAP_WRB.WORD (n : Nat) : Fld := ⟨0xA1C0 + 8 * n, 0, 64⟩

/-- NS_PV_CTL (R713). -/
abbrev Reg.NS_PV_CTL : Nat := 0xB000
abbrev NS_PV_CTL.MODE : Fld := ⟨0xB000, 8, 1⟩
abbrev NS_PV_CTL.POP : Fld := ⟨0xB000, 0, 1⟩

/-- NS_PV_STAT (R714). -/
abbrev Reg.NS_PV_STAT : Nat := 0xB008
abbrev NS_PV_STAT.SEQNEXT : Fld := ⟨0xB008, 32, 32⟩
abbrev NS_PV_STAT.HELD : Fld := ⟨0xB008, 16, 9⟩
abbrev NS_PV_STAT.SPILLERR : Fld := ⟨0xB008, 0, 1⟩

/-- NS_PV_LOST (R715). -/
abbrev Reg.NS_PV_LOST : Nat := 0xB010
abbrev NS_PV_LOST.LOST : Fld := ⟨0xB010, 0, 32⟩

/-- NS_PV_SPILL (R716). -/
abbrev Reg.NS_PV_SPILL : Nat := 0xB018
abbrev NS_PV_SPILL.EN : Fld := ⟨0xB018, 63, 1⟩
abbrev NS_PV_SPILL.LIMIT : Fld := ⟨0xB018, 32, 12⟩
abbrev NS_PV_SPILL.BASE : Fld := ⟨0xB018, 0, 12⟩

/-- NS_PV_SPILLWP (R717). -/
abbrev Reg.NS_PV_SPILLWP : Nat := 0xB020
abbrev NS_PV_SPILLWP.WP : Fld := ⟨0xB020, 0, 32⟩

/-- NS_PV_SPILLRP (R717). -/
abbrev Reg.NS_PV_SPILLRP : Nat := 0xB028
abbrev NS_PV_SPILLRP.RP : Fld := ⟨0xB028, 0, 32⟩

/-- NS_PV_HEAD*n* (R718). -/
abbrev Reg.NS_PV_HEAD (n : Nat) : Nat := 0xB040 + 8 * n
abbrev NS_PV_HEAD.WORD (n : Nat) : Fld := ⟨0xB040 + 8 * n, 0, 64⟩

/-- NS_DG_SEL (R750). -/
abbrev Reg.NS_DG_SEL : Nat := 0xC000
abbrev NS_DG_SEL.TARGET : Fld := ⟨0xC000, 60, 4⟩
abbrev NS_DG_SEL.WAY : Fld := ⟨0xC000, 52, 4⟩
abbrev NS_DG_SEL.SET : Fld := ⟨0xC000, 32, 13⟩
abbrev NS_DG_SEL.INDEX : Fld := ⟨0xC000, 16, 9⟩
abbrev NS_DG_SEL.DONE : Fld := ⟨0xC000, 2, 1⟩
abbrev NS_DG_SEL.BUSY : Fld := ⟨0xC000, 1, 1⟩
abbrev NS_DG_SEL.GO : Fld := ⟨0xC000, 0, 1⟩

/-- NS_DG_STAT (R751). -/
abbrev Reg.NS_DG_STAT : Nat := 0xC008
abbrev NS_DG_STAT.UEMASK : Fld := ⟨0xC008, 32, 32⟩
abbrev NS_DG_STAT.CEMASK : Fld := ⟨0xC008, 0, 32⟩

/-- NS_DG_STAT2 (R752). -/
abbrev Reg.NS_DG_STAT2 : Nat := 0xC010
abbrev NS_DG_STAT2.RANGE : Fld := ⟨0xC010, 16, 1⟩
abbrev NS_DG_STAT2.POIS : Fld := ⟨0xC010, 12, 4⟩
abbrev NS_DG_STAT2.PCAUSE : Fld := ⟨0xC010, 0, 12⟩

/-- NS_DG_DATA*n* (R753). -/
abbrev Reg.NS_DG_DATA (n : Nat) : Nat := 0xC040 + 8 * n
abbrev NS_DG_DATA.WORD (n : Nat) : Fld := ⟨0xC040 + 8 * n, 0, 64⟩

/-! ### The table, page by page -/

/-- Page 0. -/
def regPage0 : List RegRow :=
  [
    -- NS_ID (R731)
    ⟨0x0000, 1, 8, [⟨48, 16, .ro, 0x4b47, .none⟩, ⟨32, 16, .ro, 0x4e53, .none⟩, ⟨28, 4, .ro, 1, .none⟩, ⟨24, 4, .ro, 0, .none⟩, ⟨15, 1, .w1s, 0, .k⟩, ⟨9, 3, .rwl, 0, .k⟩, ⟨3, 6, .rwl, 0, .k⟩]⟩,
    -- NS_ID_PKG (R733)
    ⟨0x0008, 1, 8, [⟨0, 32, .rwl, 0, .k⟩]⟩,
    -- NS_CAP (R734)
    ⟨0x0040, 1, 8, [⟨56, 8, .ro, 0x10, .none⟩, ⟨40, 16, .ro, 0x2000, .none⟩, ⟨32, 8, .ro, 0x80, .none⟩, ⟨24, 8, .ro, 0x40, .none⟩, ⟨16, 8, .ro, 0x40, .none⟩, ⟨8, 8, .ro, 0x10, .none⟩, ⟨0, 8, .ro, 8, .none⟩]⟩,
    -- NS_FWIF (R673)
    ⟨0x0048, 1, 8, [⟨56, 8, .ro, 3, .none⟩, ⟨48, 8, .ro, 2, .none⟩, ⟨40, 8, .rw, 0, .c⟩, ⟨32, 8, .rw, 0, .c⟩, ⟨24, 8, .ro, 0, .c⟩, ⟨8, 2, .ro, 0, .c⟩, ⟨0, 1, .w1s, 0, .none⟩]⟩,
    -- NS_FWIF_FEAT (R674)
    ⟨0x0050, 1, 8, [⟨16, 16, .ro, 0x1f, .none⟩, ⟨0, 16, .ro, 0, .c⟩]⟩,
    -- NS_CAP2 (R735)
    ⟨0x0058, 1, 8, [⟨48, 16, .ro, 0x100, .none⟩, ⟨32, 16, .ro, 0x80, .none⟩, ⟨16, 16, .ro, 0x40, .none⟩, ⟨0, 16, .ro, 0x60, .none⟩]⟩,
    -- NS_CTL (R736)
    ⟨0x0080, 1, 8, [⟨8, 1, .rw, 0, .c⟩, ⟨0, 1, .rw, 0, .c⟩]⟩,
    -- NS_CLKCTL (R554)
    ⟨0x0088, 1, 8, [⟨8, 1, .rw, 0, .none⟩, ⟨0, 2, .rw, 0, .none⟩]⟩,
    -- NS_READY (R675)
    ⟨0x00C0, 1, 8, [⟨7, 1, .ro, 0, .c⟩, ⟨5, 1, .ro, 0, .none⟩, ⟨4, 1, .ro, 0, .none⟩, ⟨3, 1, .ro, 0, .none⟩, ⟨2, 1, .ro, 0, .none⟩, ⟨1, 1, .ro, 0, .none⟩, ⟨0, 1, .ro, 0, .none⟩]⟩,
    -- NS_PORTSTAT (R555)
    ⟨0x00C8, 1, 8, [⟨40, 2, .ro, 0, .none⟩, ⟨32, 2, .ro, 3, .none⟩, ⟨24, 8, .ro, 0, .none⟩, ⟨16, 8, .ro, 0, .none⟩, ⟨8, 8, .ro, 0, .none⟩, ⟨5, 1, .ro, 0, .none⟩, ⟨4, 1, .ro, 0, .none⟩, ⟨3, 1, .ro, 0, .none⟩, ⟨2, 1, .ro, 0, .none⟩, ⟨1, 1, .ro, 0, .none⟩, ⟨0, 1, .ro, 0, .none⟩]⟩,
    -- NS_IRQ_STAT (R738)
    ⟨0x0100, 1, 8, [⟨8, 1, .w1c, 0, .c⟩, ⟨7, 1, .w1c, 0, .c⟩, ⟨6, 1, .w1c, 0, .c⟩, ⟨5, 1, .w1c, 0, .c⟩, ⟨4, 1, .w1c, 0, .c⟩, ⟨3, 1, .w1c, 0, .c⟩, ⟨2, 1, .w1c, 0, .c⟩, ⟨1, 1, .w1c, 0, .c⟩, ⟨0, 1, .w1c, 0, .c⟩]⟩,
    -- NS_IRQ_EN (R738)
    ⟨0x0108, 1, 8, [⟨8, 1, .rw, 0, .c⟩, ⟨7, 1, .rw, 0, .c⟩, ⟨6, 1, .rw, 0, .c⟩, ⟨5, 1, .rw, 0, .c⟩, ⟨4, 1, .rw, 0, .c⟩, ⟨3, 1, .rw, 0, .c⟩, ⟨2, 1, .rw, 0, .c⟩, ⟨1, 1, .rw, 0, .c⟩, ⟨0, 1, .rw, 0, .c⟩]⟩,
    -- NS_IRQ_SET (R738)
    ⟨0x0110, 1, 8, [⟨8, 1, .w1s, 0, .none⟩, ⟨7, 1, .w1s, 0, .none⟩, ⟨6, 1, .w1s, 0, .none⟩, ⟨5, 1, .w1s, 0, .none⟩, ⟨4, 1, .w1s, 0, .none⟩, ⟨3, 1, .w1s, 0, .none⟩, ⟨2, 1, .w1s, 0, .none⟩, ⟨1, 1, .w1s, 0, .none⟩, ⟨0, 1, .w1s, 0, .none⟩]⟩,
    -- NS_ERR_REC0 (R742)
    ⟨0x0140, 1, 8, [⟨56, 8, .ro, 0, .k⟩, ⟨54, 2, .ro, 0, .k⟩, ⟨52, 2, .ro, 0, .k⟩, ⟨46, 6, .ro, 0, .k⟩, ⟨38, 8, .ro, 0, .k⟩, ⟨35, 3, .ro, 0, .k⟩, ⟨23, 12, .ro, 0, .k⟩, ⟨15, 8, .ro, 0, .k⟩]⟩,
    -- NS_ERR_REC1 (R743)
    ⟨0x0148, 1, 8, [⟨0, 52, .ro, 0, .k⟩]⟩,
    -- NS_ERR_REC2 (R744)
    ⟨0x0150, 1, 8, [⟨0, 64, .ro, 0, .k⟩]⟩,
    -- NS_ERR_CNT (R745)
    ⟨0x0158, 1, 8, [⟨63, 1, .w1c, 0, .k⟩, ⟨32, 8, .ro, 0, .k⟩, ⟨0, 32, .rc, 0, .k⟩]⟩
  ]

/-- Page 1. -/
def regPage1 : List RegRow :=
  [
    -- NS_PL_HBMBASE (R56)
    ⟨0x1000, 1, 8, [⟨63, 1, .w1s, 0, .c⟩, ⟨0, 12, .rwl, 0, .c⟩]⟩,
    -- NS_PL_STACKLIM (R57)
    ⟨0x1008, 1, 8, [⟨0, 6, .ro, 0x20, .k⟩]⟩,
    -- NS_WAYMAP (R58)
    ⟨0x1040, 1, 8, [⟨60, 4, .ro, 0, .c⟩, ⟨56, 4, .ro, 0, .c⟩, ⟨52, 4, .ro, 0, .c⟩, ⟨48, 4, .ro, 0, .c⟩, ⟨44, 4, .ro, 0, .c⟩, ⟨40, 4, .ro, 0, .c⟩, ⟨36, 4, .ro, 0, .c⟩, ⟨32, 4, .ro, 0, .c⟩, ⟨28, 4, .ro, 0, .c⟩, ⟨24, 4, .ro, 0, .c⟩, ⟨20, 4, .ro, 0, .c⟩, ⟨16, 4, .ro, 0, .c⟩, ⟨12, 4, .ro, 0, .c⟩, ⟨8, 4, .ro, 0, .c⟩, ⟨4, 4, .ro, 0, .c⟩, ⟨0, 4, .ro, 0, .c⟩]⟩,
    -- NS_WAYMAP_NEXT (R58)
    ⟨0x1048, 1, 8, [⟨60, 4, .rw, 0, .c⟩, ⟨56, 4, .rw, 0, .c⟩, ⟨52, 4, .rw, 0, .c⟩, ⟨48, 4, .rw, 0, .c⟩, ⟨44, 4, .rw, 0, .c⟩, ⟨40, 4, .rw, 0, .c⟩, ⟨36, 4, .rw, 0, .c⟩, ⟨32, 4, .rw, 0, .c⟩, ⟨28, 4, .rw, 0, .c⟩, ⟨24, 4, .rw, 0, .c⟩, ⟨20, 4, .rw, 0, .c⟩, ⟨16, 4, .rw, 0, .c⟩, ⟨12, 4, .rw, 0, .c⟩, ⟨8, 4, .rw, 0, .c⟩, ⟨4, 4, .rw, 0, .c⟩, ⟨0, 4, .rw, 0, .c⟩]⟩,
    -- NS_WAYCHG (R59)
    ⟨0x1050, 1, 8, [⟨16, 16, .ro, 0, .none⟩, ⟨5, 3, .ro, 0, .none⟩, ⟨2, 1, .w1c, 0, .none⟩, ⟨1, 1, .ro, 0, .none⟩, ⟨0, 1, .w1s, 0, .none⟩]⟩,
    -- NS_HOSTWIN (R60)
    ⟨0x1080, 8, 8, [⟨63, 1, .rwl, 0, .c⟩, ⟨32, 31, .rwl, 0, .c⟩, ⟨0, 31, .rwl, 0, .c⟩]⟩,
    -- NS_DIST_CTL (R61)
    ⟨0x10C0, 1, 8, [⟨32, 1, .rw, 0, .none⟩, ⟨0, 32, .ro, 0, .none⟩]⟩,
    -- NS_DIST (R62)
    ⟨0x1100, 18, 8, [⟨56, 8, .rw, 0xff, .none⟩, ⟨48, 8, .rw, 0xff, .none⟩, ⟨40, 8, .rw, 0xff, .none⟩, ⟨32, 8, .rw, 0xff, .none⟩, ⟨24, 8, .rw, 0xff, .none⟩, ⟨16, 8, .rw, 0xff, .none⟩, ⟨8, 8, .rw, 0xff, .none⟩, ⟨0, 8, .rw, 0xff, .none⟩]⟩
  ]

/-- Page 2. -/
def regPage2 : List RegRow :=
  [
    -- NS_RET_CTL (R121)
    ⟨0x2000, 1, 8, [⟨12, 4, .rw, 1, .none⟩, ⟨8, 1, .rw, 0, .none⟩, ⟨0, 5, .rw, 0x10, .none⟩]⟩,
    -- NS_RET_EVT (R122)
    ⟨0x2008, 1, 8, [⟨48, 16, .rc, 0, .c⟩, ⟨32, 16, .rc, 0, .c⟩, ⟨16, 16, .rc, 0, .c⟩, ⟨0, 16, .rc, 0, .c⟩]⟩,
    -- NS_RET_EVT2 (R123)
    ⟨0x2010, 1, 8, [⟨16, 16, .rc, 0, .c⟩, ⟨0, 16, .rc, 0, .c⟩]⟩,
    -- NS_VT_CTL (R187)
    ⟨0x2100, 1, 8, [⟨32, 12, .rw, 0, .c⟩, ⟨0, 16, .ro, 0, .c⟩]⟩,
    -- NS_VT_EVT (R188)
    ⟨0x2108, 1, 8, [⟨32, 16, .rc, 0, .c⟩, ⟨16, 16, .rc, 0, .c⟩, ⟨0, 16, .rc, 0, .c⟩]⟩,
    -- NS_BLK_CTL (R189)
    ⟨0x2110, 1, 8, [⟨2, 1, .w1s, 0, .none⟩, ⟨1, 1, .rw, 0, .none⟩]⟩,
    -- NS_BLK_STAT (R190)
    ⟨0x2118, 1, 8, [⟨48, 16, .rc, 0, .c⟩, ⟨20, 4, .ro, 0, .none⟩, ⟨6, 5, .ro, 0, .none⟩, ⟨4, 1, .w1c, 0, .none⟩, ⟨3, 1, .ro, 0, .none⟩, ⟨2, 1, .ro, 0, .none⟩, ⟨1, 1, .ro, 0, .none⟩, ⟨0, 1, .ro, 0, .none⟩]⟩,
    -- NS_BLK_PROG (R191)
    ⟨0x2120, 1, 8, [⟨48, 16, .ro, 0, .c⟩, ⟨44, 4, .ro, 0, .c⟩, ⟨0, 40, .ro, 0, .c⟩]⟩,
    -- NS_BLK_CPLERR (R192)
    ⟨0x2128, 1, 8, [⟨48, 16, .ro, 0, .c⟩, ⟨40, 8, .ro, 0, .c⟩, ⟨0, 16, .rc, 0, .c⟩]⟩,
    -- NS_VT_REGION (R193)
    ⟨0x2200, 64, 8, [⟨63, 1, .rw, 0, .c⟩, ⟨62, 1, .rw, 0, .c⟩, ⟨61, 1, .rw, 0, .c⟩, ⟨60, 1, .ro, 0, .none⟩, ⟨48, 12, .rw, 0, .c⟩, ⟨32, 12, .rw, 0, .c⟩, ⟨0, 12, .rw, 0, .c⟩]⟩
  ]

/-- Page 3. -/
def regPage3 : List RegRow :=
  [
    -- NS_RA_CAP (R251)
    ⟨0x3000, 1, 8, [⟨56, 8, .ro, 0x10, .none⟩, ⟨48, 8, .ro, 0x10, .none⟩, ⟨40, 8, .ro, 0x10, .none⟩, ⟨32, 8, .ro, 0x20, .none⟩, ⟨24, 8, .ro, 0x40, .none⟩, ⟨16, 8, .ro, 0x20, .none⟩, ⟨8, 8, .ro, 0x7f, .none⟩, ⟨0, 8, .ro, 0xff, .none⟩]⟩,
    -- NS_RA_STICKY (R252)
    ⟨0x3008, 1, 8, [⟨7, 1, .w1c, 0, .c⟩, ⟨6, 1, .w1c, 0, .c⟩, ⟨5, 1, .w1c, 0, .c⟩, ⟨4, 1, .w1c, 0, .c⟩, ⟨3, 1, .w1c, 0, .c⟩, ⟨2, 1, .w1c, 0, .c⟩, ⟨1, 1, .w1c, 0, .c⟩, ⟨0, 1, .w1c, 0, .c⟩]⟩,
    -- NS_RA_REJ (R253)
    ⟨0x3010, 1, 8, [⟨16, 16, .rc, 0, .c⟩, ⟨0, 16, .rc, 0, .c⟩]⟩,
    -- NS_GRPOPEN (R312)
    ⟨0x3040, 1, 8, [⟨60, 3, .rw, 0, .none⟩, ⟨48, 12, .rw, 0, .none⟩, ⟨40, 8, .ro, 0, .none⟩, ⟨16, 1, .ro, 0, .none⟩, ⟨8, 1, .w1s, 0, .none⟩, ⟨0, 6, .rw, 0, .none⟩]⟩,
    -- NS_GRP_OPENMASK (R314)
    ⟨0x3048, 1, 8, [⟨0, 64, .ro, 0, .none⟩]⟩,
    -- NS_GRP_EVT (R315)
    ⟨0x3050, 1, 8, [⟨48, 16, .rc, 0, .c⟩, ⟨32, 16, .rc, 0, .c⟩, ⟨16, 16, .rc, 0, .c⟩, ⟨0, 16, .rc, 0, .c⟩]⟩,
    -- NS_GRPDESC (R316)
    ⟨0x3100, 16, 8, [⟨0, 64, .rw, 0, .none⟩]⟩,
    -- NS_GRPSTAT (R317)
    ⟨0x3200, 64, 8, [⟨61, 3, .ro, 0, .none⟩, ⟨60, 1, .ro, 0, .none⟩, ⟨48, 12, .ro, 0, .none⟩, ⟨40, 8, .ro, 0xff, .none⟩, ⟨32, 8, .ro, 0, .none⟩, ⟨31, 1, .ro, 0, .none⟩, ⟨0, 24, .ro, 0, .none⟩]⟩
  ]

/-- Page 4. -/
def regPage4 : List RegRow :=
  [
    -- NS_FP_CAP (R351)
    ⟨0x4000, 1, 8, [⟨56, 8, .ro, 0x10, .none⟩, ⟨48, 8, .ro, 0x1c, .none⟩, ⟨32, 16, .ro, 0x9f0, .none⟩, ⟨16, 16, .ro, 0x3c, .none⟩, ⟨0, 16, .ro, 0xe, .none⟩]⟩,
    -- NS_FP_STICKY (R352)
    ⟨0x4008, 1, 8, [⟨5, 1, .w1c, 0, .c⟩, ⟨4, 1, .w1c, 0, .c⟩, ⟨3, 1, .w1c, 0, .c⟩, ⟨2, 1, .w1c, 0, .c⟩, ⟨1, 1, .w1c, 0, .c⟩, ⟨0, 1, .w1c, 0, .c⟩]⟩,
    -- NS_FP_EVT (R353)
    ⟨0x4010, 1, 8, [⟨48, 16, .rc, 0, .c⟩, ⟨32, 16, .rc, 0, .c⟩, ⟨16, 16, .rc, 0, .c⟩, ⟨0, 16, .rc, 0, .c⟩]⟩,
    -- NS_FP_WINA (R354)
    ⟨0x4100, 16, 16, [⟨63, 1, .rw, 0, .c⟩, ⟨62, 1, .rw, 0, .c⟩, ⟨56, 5, .rw, 0, .c⟩, ⟨12, 40, .rw, 0, .c⟩, ⟨0, 12, .rw, 0, .c⟩]⟩,
    -- NS_FP_WINB (R355)
    ⟨0x4108, 16, 16, [⟨12, 40, .rw, 0, .c⟩]⟩
  ]

/-- Page 5. -/
def regPage5 : List RegRow :=
  [
    -- NS_UU_CAP (R412)
    ⟨0x5000, 1, 8, [⟨56, 8, .ro, 0x20, .none⟩, ⟨48, 8, .ro, 8, .none⟩, ⟨32, 16, .ro, 0x2000, .none⟩, ⟨20, 12, .ro, 0x200, .none⟩, ⟨8, 12, .ro, 0x100, .none⟩, ⟨0, 8, .ro, 0x1e, .none⟩]⟩,
    -- NS_UU_CTL (R413)
    ⟨0x5008, 1, 8, [⟨8, 1, .w1s, 0, .none⟩, ⟨4, 3, .rw, 4, .c⟩, ⟨0, 2, .rw, 0, .c⟩]⟩,
    -- NS_UU_STICKY (R414)
    ⟨0x5010, 1, 8, [⟨2, 1, .w1c, 0, .c⟩, ⟨1, 1, .w1c, 0, .c⟩, ⟨0, 1, .w1c, 0, .c⟩]⟩,
    -- NS_UU_EVT (R415)
    ⟨0x5018, 1, 8, [⟨48, 16, .rc, 0, .c⟩, ⟨32, 16, .rc, 0, .c⟩, ⟨16, 16, .rc, 0, .c⟩, ⟨0, 16, .rc, 0, .c⟩]⟩,
    -- NS_DIR_CTL (R416)
    ⟨0x5040, 1, 8, [⟨8, 5, .rw, 0x10, .c⟩, ⟨0, 5, .rw, 0x12, .c⟩]⟩,
    -- NS_DIR_STAT (R417)
    ⟨0x5048, 1, 8, [⟨47, 17, .ro, 0, .c⟩, ⟨8, 5, .ro, 0, .c⟩, ⟨3, 1, .w1c, 0, .c⟩, ⟨2, 1, .w1c, 0, .c⟩, ⟨1, 1, .ro, 0, .none⟩, ⟨0, 1, .w1c, 0, .c⟩]⟩,
    -- NS_DIR_DEADMASK (R418)
    ⟨0x5050, 1, 8, [⟨0, 32, .w1c, 0, .c⟩]⟩,
    -- NS_DIR_RECLAIM (R419)
    ⟨0x5058, 1, 8, [⟨8, 1, .w1s, 0, .none⟩, ⟨0, 5, .rw, 0, .none⟩]⟩,
    -- NS_DIR_RECLOG (R420)
    ⟨0x5060, 1, 8, [⟨59, 5, .ro, 0, .c⟩, ⟨32, 24, .ro, 0, .c⟩, ⟨0, 24, .ro, 0, .c⟩]⟩,
    -- NS_DIR_EVT (R421)
    ⟨0x5068, 1, 8, [⟨48, 16, .rc, 0, .c⟩, ⟨32, 16, .rc, 0, .c⟩, ⟨16, 16, .rc, 0, .c⟩, ⟨0, 16, .rc, 0, .c⟩]⟩,
    -- NS_DIR_EVT2 (R422)
    ⟨0x5070, 1, 8, [⟨16, 16, .rc, 0, .c⟩, ⟨0, 16, .rc, 0, .c⟩]⟩
  ]

/-- Page 6. -/
def regPage6 : List RegRow :=
  [
    -- NS_ACCN_CAP (R465)
    ⟨0x6000, 1, 8, [⟨48, 16, .ro, 0x100, .none⟩, ⟨40, 8, .ro, 0x18, .none⟩, ⟨32, 8, .ro, 0x40, .none⟩]⟩,
    -- NS_ACCN_STICKY (R466)
    ⟨0x6008, 1, 8, [⟨4, 1, .w1c, 0, .c⟩, ⟨3, 1, .w1c, 0, .c⟩, ⟨2, 1, .w1c, 0, .c⟩, ⟨1, 1, .w1c, 0, .c⟩, ⟨0, 1, .w1c, 0, .c⟩]⟩,
    -- NS_ACCN_EVT (R467)
    ⟨0x6010, 1, 8, [⟨48, 16, .rc, 0, .c⟩, ⟨32, 16, .rc, 0, .c⟩, ⟨16, 16, .rc, 0, .c⟩, ⟨0, 16, .rc, 0, .c⟩]⟩,
    -- NS_ACCN_TARGET (R468)
    ⟨0x6800, 256, 8, [⟨63, 1, .rw, 0, .c⟩, ⟨61, 2, .ro, 0, .none⟩, ⟨60, 1, .ro, 0, .none⟩, ⟨48, 12, .rw, 0, .c⟩, ⟨24, 24, .ro, 0, .none⟩, ⟨0, 24, .rw, 0, .none⟩]⟩
  ]

/-- Page 7. -/
def regPage7 : List RegRow :=
  [
    -- NS_REG_CTL (R495)
    ⟨0x7000, 1, 8, [⟨32, 8, .rw, 0x10, .c⟩, ⟨16, 8, .rw, 0x10, .c⟩, ⟨8, 4, .rw, 1, .c⟩]⟩,
    -- NS_REG_EST (R496)
    ⟨0x7008, 1, 8, [⟨48, 16, .rw, 0xbc, .c⟩, ⟨32, 16, .rw, 0x18, .c⟩, ⟨16, 16, .rw, 0x10, .c⟩, ⟨0, 16, .rw, 0x190, .c⟩]⟩,
    -- NS_REG_CLASS (R497)
    ⟨0x7040, 1, 8, [⟨48, 16, .rw, 0, .c⟩, ⟨32, 16, .ro, 0, .none⟩, ⟨30, 2, .ro, 0, .none⟩, ⟨24, 4, .rw, 4, .c⟩]⟩,
    -- NS_REG_CLASS (R497)
    ⟨0x7048, 1, 8, [⟨48, 16, .rw, 0, .c⟩, ⟨32, 16, .ro, 0, .none⟩, ⟨30, 2, .ro, 0, .none⟩, ⟨24, 4, .rw, 5, .c⟩]⟩,
    -- NS_REG_CLASS (R497)
    ⟨0x7050, 1, 8, [⟨48, 16, .rw, 0, .c⟩, ⟨32, 16, .ro, 0, .none⟩, ⟨30, 2, .ro, 0, .none⟩, ⟨24, 4, .rw, 6, .c⟩]⟩,
    -- NS_REG_CLASS (R497)
    ⟨0x7058, 1, 8, [⟨48, 16, .rw, 0, .c⟩, ⟨32, 16, .ro, 0, .none⟩, ⟨30, 2, .ro, 0, .none⟩, ⟨24, 4, .rw, 7, .c⟩]⟩,
    -- NS_REG_CLASS (R497)
    ⟨0x7060, 1, 8, [⟨48, 16, .rw, 0, .c⟩, ⟨32, 16, .ro, 0, .none⟩, ⟨30, 2, .ro, 0, .none⟩, ⟨24, 4, .rw, 8, .c⟩]⟩,
    -- NS_REG_CLASS (R497)
    ⟨0x7068, 1, 8, [⟨48, 16, .rw, 0, .c⟩, ⟨32, 16, .ro, 0, .none⟩, ⟨30, 2, .ro, 0, .none⟩, ⟨24, 4, .rw, 9, .c⟩]⟩,
    -- NS_REG_CLASS (R497)
    ⟨0x7070, 1, 8, [⟨48, 16, .rw, 0, .c⟩, ⟨32, 16, .ro, 0, .none⟩, ⟨30, 2, .ro, 0, .none⟩, ⟨24, 4, .rw, 0xa, .c⟩]⟩,
    -- NS_REG_CLASS (R497)
    ⟨0x7078, 1, 8, [⟨48, 16, .rw, 0, .c⟩, ⟨32, 16, .ro, 0, .none⟩, ⟨30, 2, .ro, 0, .none⟩, ⟨24, 4, .rw, 0xb, .c⟩]⟩,
    -- NS_REG_SLKEVT (R498)
    ⟨0x7080, 8, 8, [⟨16, 16, .rc, 0, .c⟩, ⟨0, 16, .rc, 0, .c⟩]⟩,
    -- NS_REG_RDBYTES (R499)
    ⟨0x7100, 8, 8, [⟨63, 1, .w1c, 0, .c⟩, ⟨0, 48, .ro, 0, .c⟩]⟩,
    -- NS_REG_WRBYTES (R499)
    ⟨0x7140, 8, 8, [⟨63, 1, .w1c, 0, .c⟩, ⟨0, 48, .ro, 0, .c⟩]⟩,
    -- NS_REG_BUDGET (R500)
    ⟨0x7800, 256, 8, [⟨32, 16, .ro, 0, .none⟩, ⟨16, 8, .rc, 0, .c⟩, ⟨0, 16, .rw, 0xffff, .c⟩]⟩
  ]

/-- Page 8. -/
def regPage8 : List RegRow :=
  [
    -- NS_CH_CTL (R601)
    ⟨0x8000, 1, 8, [⟨8, 5, .rw, 0x12, .c⟩]⟩,
    -- NS_CH_STAT (R602)
    ⟨0x8008, 1, 8, [⟨48, 16, .rc, 0, .c⟩, ⟨24, 24, .ro, 0, .c⟩, ⟨16, 8, .ro, 0, .none⟩, ⟨3, 1, .w1c, 0, .c⟩, ⟨0, 3, .ro, 0, .none⟩]⟩,
    -- NS_CH_STALL (R603)
    ⟨0x8010, 1, 8, [⟨40, 24, .ro, 0, .c⟩, ⟨16, 16, .rc, 0, .c⟩, ⟨0, 16, .rc, 0, .c⟩]⟩,
    -- NS_CH_MAPLIST (R604)
    ⟨0x8040, 1, 8, [⟨32, 3, .rw, 0, .k⟩, ⟨24, 5, .rw, 0, .k⟩, ⟨16, 5, .rw, 0, .k⟩, ⟨8, 5, .rw, 0, .k⟩, ⟨0, 5, .rw, 0, .k⟩]⟩,
    -- NS_CH_MAPCTL (R605)
    ⟨0x8048, 1, 8, [⟨40, 24, .ro, 0, .none⟩, ⟨8, 3, .ro, 0, .none⟩, ⟨4, 1, .w1s, 0, .none⟩, ⟨3, 1, .w1s, 0, .none⟩, ⟨2, 1, .w1c, 0, .none⟩, ⟨1, 1, .ro, 0, .none⟩]⟩,
    -- NS_ECC_CTL (R606)
    ⟨0x8080, 1, 8, [⟨48, 16, .rw, 0x400, .c⟩, ⟨32, 8, .rw, 8, .c⟩, ⟨0, 1, .rw, 0, .none⟩]⟩,
    -- NS_ECC_STAT (R607)
    ⟨0x8088, 1, 8, [⟨32, 32, .ro, 0, .c⟩, ⟨15, 17, .ro, 0, .c⟩, ⟨7, 1, .w1c, 0, .c⟩, ⟨6, 1, .w1c, 0, .c⟩, ⟨5, 1, .w1c, 0, .c⟩, ⟨4, 1, .w1c, 0, .c⟩, ⟨3, 1, .w1c, 0, .c⟩, ⟨2, 1, .w1c, 0, .c⟩, ⟨1, 1, .w1c, 0, .c⟩, ⟨0, 1, .ro, 0, .none⟩]⟩,
    -- NS_ECC_EVT (R608)
    ⟨0x8090, 1, 8, [⟨48, 16, .rc, 0, .c⟩, ⟨32, 16, .rc, 0, .c⟩, ⟨16, 16, .rc, 0, .c⟩, ⟨0, 16, .rc, 0, .c⟩]⟩,
    -- NS_ECC_EVT2 (R608)
    ⟨0x8098, 1, 8, [⟨32, 16, .rc, 0, .c⟩, ⟨16, 16, .rc, 0, .c⟩, ⟨0, 16, .rc, 0, .c⟩]⟩,
    -- NS_ECC_QUAR (R609)
    ⟨0x80A0, 1, 8, [⟨48, 16, .ro, 0, .c⟩, ⟨32, 4, .rw, 0, .none⟩, ⟨16, 13, .rw, 0, .none⟩, ⟨8, 3, .ro, 0, .none⟩, ⟨2, 1, .w1c, 0, .none⟩, ⟨1, 1, .w1s, 0, .none⟩, ⟨0, 1, .w1s, 0, .none⟩]⟩,
    -- NS_ECC_CBCTL (R610)
    ⟨0x80C0, 1, 8, [⟨62, 2, .rw, 0, .none⟩, ⟨32, 4, .rw, 0, .none⟩, ⟨16, 13, .rw, 0, .none⟩, ⟨8, 5, .rw, 0, .none⟩, ⟨2, 1, .w1c, 0, .none⟩, ⟨1, 1, .w1s, 0, .none⟩, ⟨0, 1, .w1s, 0, .none⟩]⟩,
    -- NS_ECC_CBDATA (R611)
    ⟨0x80C8, 1, 8, [⟨0, 64, .rw, 0, .none⟩]⟩,
    -- NS_ECC_CBCHK (R611)
    ⟨0x80D0, 1, 8, [⟨0, 8, .rw, 0, .none⟩]⟩,
    -- NS_ECC_CLOG (R612)
    ⟨0x8100, 16, 8, [⟨63, 1, .w1c, 0, .c⟩, ⟨61, 2, .ro, 0, .c⟩, ⟨48, 8, .ro, 0, .c⟩, ⟨35, 7, .ro, 0, .c⟩, ⟨18, 4, .ro, 0, .c⟩, ⟨5, 13, .ro, 0, .c⟩, ⟨0, 5, .ro, 0, .c⟩]⟩,
    -- NS_ECC_REG (R613)
    ⟨0x8200, 32, 8, [⟨56, 8, .rc, 0, .c⟩, ⟨48, 8, .rc, 0, .c⟩, ⟨40, 8, .rc, 0, .c⟩, ⟨32, 8, .rc, 0, .c⟩, ⟨24, 8, .rc, 0, .c⟩, ⟨16, 8, .rc, 0, .c⟩, ⟨8, 8, .rc, 0, .c⟩, ⟨0, 8, .rc, 0, .c⟩]⟩
  ]

/-- Page 9. -/
def regPage9 : List RegRow :=
  [
    -- NS_RC_CTL (R659)
    ⟨0x9000, 1, 8, [⟨8, 5, .rw, 0x10, .c⟩, ⟨0, 5, .rw, 0x14, .c⟩]⟩,
    -- NS_RC_BLK (R660)
    ⟨0x9008, 1, 8, [⟨4, 1, .w1c, 0, .c⟩, ⟨3, 1, .ro, 0, .none⟩, ⟨2, 1, .ro, 0, .none⟩, ⟨1, 1, .rw, 0, .none⟩, ⟨0, 1, .w1s, 0, .none⟩]⟩,
    -- NS_RC_HANG (R661)
    ⟨0x9010, 1, 8, [⟨56, 8, .w1c, 0, .c⟩, ⟨53, 3, .ro, 0, .c⟩, ⟨45, 8, .ro, 0, .c⟩, ⟨33, 12, .ro, 0, .c⟩, ⟨27, 6, .ro, 0, .c⟩, ⟨0, 27, .ro, 0, .c⟩]⟩,
    -- NS_RC_PURGE (R662)
    ⟨0x9018, 1, 8, [⟨63, 1, .ro, 0, .none⟩, ⟨48, 12, .ro, 0, .c⟩, ⟨40, 8, .ro, 0, .c⟩, ⟨16, 16, .ro, 0, .c⟩, ⟨0, 16, .rc, 0, .c⟩]⟩,
    -- NS_RC_GEN (R663)
    ⟨0x9020, 1, 8, [⟨32, 12, .rw, 0, .none⟩, ⟨0, 8, .ro, 0, .c⟩]⟩,
    -- NS_RC_STALE (R664)
    ⟨0x9028, 1, 8, [⟨32, 16, .rc, 0, .c⟩, ⟨16, 16, .rc, 0, .c⟩, ⟨0, 16, .rc, 0, .c⟩]⟩,
    -- NS_RC_WB (R665)
    ⟨0x9030, 1, 8, [⟨40, 24, .ro, 0, .none⟩, ⟨2, 1, .w1c, 0, .none⟩, ⟨1, 1, .ro, 0, .none⟩, ⟨0, 1, .w1s, 0, .none⟩]⟩,
    -- NS_RC_CREDREL (R666)
    ⟨0x9038, 1, 8, [⟨8, 1, .w1s, 0, .none⟩, ⟨0, 8, .rw, 0, .none⟩]⟩,
    -- NS_RC_RSTREC (R667)
    ⟨0x9040, 1, 8, [⟨48, 16, .ro, 0, .c⟩, ⟨32, 16, .ro, 0, .c⟩, ⟨16, 16, .ro, 0, .c⟩, ⟨0, 16, .ro, 0, .c⟩]⟩,
    -- NS_BALANCE (R668)
    ⟨0x9080, 1, 8, [⟨63, 1, .ro, 0, .none⟩, ⟨62, 1, .w1c, 0, .c⟩, ⟨8, 1, .ro, 0, .none⟩, ⟨7, 1, .ro, 0, .none⟩, ⟨6, 1, .ro, 0, .none⟩, ⟨5, 1, .ro, 0, .none⟩, ⟨4, 1, .ro, 0, .none⟩, ⟨3, 1, .ro, 0, .none⟩, ⟨2, 1, .ro, 0, .none⟩, ⟨1, 1, .ro, 0, .none⟩, ⟨0, 1, .ro, 0, .none⟩]⟩,
    -- NS_BALANCE_INC (R669)
    ⟨0x9088, 1, 8, [⟨32, 32, .ro, 0, .none⟩, ⟨0, 32, .ro, 0, .none⟩]⟩,
    -- NS_RST_CAUSE (R670)
    ⟨0x9100, 1, 8, [⟨63, 1, .w1s, 0, .a⟩, ⟨53, 3, .ro, 0, .a⟩, ⟨0, 6, .w1c, 0, .a⟩]⟩,
    -- NS_RST_CNT0 (R671)
    ⟨0x9108, 1, 8, [⟨48, 16, .ro, 0, .a⟩, ⟨32, 16, .ro, 0, .a⟩, ⟨16, 16, .ro, 0, .a⟩, ⟨0, 16, .ro, 0, .a⟩]⟩,
    -- NS_RST_CNT1 (R671)
    ⟨0x9110, 1, 8, [⟨16, 16, .ro, 0, .a⟩, ⟨0, 16, .ro, 0, .a⟩]⟩
  ]

/-- Page 10. -/
def regPage10 : List RegRow :=
  [
    -- NS_CNT_CTL (R705)
    ⟨0xA000, 1, 8, [⟨32, 16, .ro, 0, .c⟩, ⟨8, 1, .ro, 0, .none⟩, ⟨1, 1, .rw, 0, .c⟩]⟩,
    -- NS_CNT_PRIV (R706)
    ⟨0xA008, 1, 8, [⟨8, 8, .rw, 0, .c⟩, ⟨0, 1, .rw, 0, .c⟩]⟩,
    -- NS_CNT_SNAP_PVSEQ (R711)
    ⟨0xA038, 1, 8, [⟨0, 32, .ro, 0, .c⟩]⟩,
    -- NS_CNT_CYCLE (R707)
    ⟨0xA040, 1, 8, [⟨0, 64, .ro, 0, .c⟩]⟩,
    -- NS_CNT_SLOT (R708)
    ⟨0xA048, 7, 8, [⟨63, 1, .w1c, 0, .c⟩, ⟨0, 48, .ro, 0, .c⟩]⟩,
    -- NS_CNT_PMC (R709)
    ⟨0xA080, 8, 8, [⟨63, 1, .w1c, 0, .c⟩, ⟨0, 48, .rw, 0, .c⟩]⟩,
    -- NS_CNT_SEL (R710)
    ⟨0xA0C0, 8, 8, [⟨63, 1, .rw, 0, .c⟩, ⟨62, 1, .rw, 0, .c⟩, ⟨16, 2, .rw, 3, .c⟩, ⟨8, 8, .rw, 0xff, .c⟩, ⟨0, 8, .rw, 0, .c⟩]⟩,
    -- NS_CNT_SNAP_CYCLE (R711)
    ⟨0xA100, 1, 8, [⟨0, 64, .ro, 0, .c⟩]⟩,
    -- NS_CNT_SNAP_SLOT (R711)
    ⟨0xA108, 7, 8, [⟨0, 64, .ro, 0, .c⟩]⟩,
    -- NS_CNT_SNAP_PMC (R711)
    ⟨0xA140, 8, 8, [⟨0, 64, .ro, 0, .c⟩]⟩,
    -- NS_CNT_SNAP_RDB (R711)
    ⟨0xA180, 8, 8, [⟨0, 64, .ro, 0, .c⟩]⟩,
    -- NS_CNT_SNAP_WRB (R711)
    ⟨0xA1C0, 8, 8, [⟨0, 64, .ro, 0, .c⟩]⟩
  ]

/-- Page 11. -/
def regPage11 : List RegRow :=
  [
    -- NS_PV_CTL (R713)
    ⟨0xB000, 1, 8, [⟨8, 1, .rw, 0, .k⟩, ⟨0, 1, .w1s, 0, .none⟩]⟩,
    -- NS_PV_STAT (R714)
    ⟨0xB008, 1, 8, [⟨32, 32, .ro, 0, .k⟩, ⟨16, 9, .ro, 0, .k⟩, ⟨0, 1, .w1c, 0, .c⟩]⟩,
    -- NS_PV_LOST (R715)
    ⟨0xB010, 1, 8, [⟨0, 32, .rc, 0, .k⟩]⟩,
    -- NS_PV_SPILL (R716)
    ⟨0xB018, 1, 8, [⟨63, 1, .rw, 0, .c⟩, ⟨32, 12, .rw, 0, .c⟩, ⟨0, 12, .rw, 0, .c⟩]⟩,
    -- NS_PV_SPILLWP (R717)
    ⟨0xB020, 1, 8, [⟨0, 32, .ro, 0, .c⟩]⟩,
    -- NS_PV_SPILLRP (R717)
    ⟨0xB028, 1, 8, [⟨0, 32, .rw, 0, .c⟩]⟩,
    -- NS_PV_HEAD (R718)
    ⟨0xB040, 4, 8, [⟨0, 64, .ro, 0, .k⟩]⟩
  ]

/-- Page 12. -/
def regPage12 : List RegRow :=
  [
    -- NS_DG_SEL (R750)
    ⟨0xC000, 1, 8, [⟨60, 4, .rw, 0, .none⟩, ⟨52, 4, .rw, 0, .none⟩, ⟨32, 13, .rw, 0, .none⟩, ⟨16, 9, .rw, 0, .none⟩, ⟨2, 1, .w1c, 0, .none⟩, ⟨1, 1, .ro, 0, .none⟩, ⟨0, 1, .w1s, 0, .none⟩]⟩,
    -- NS_DG_STAT (R751)
    ⟨0xC008, 1, 8, [⟨32, 32, .ro, 0, .none⟩, ⟨0, 32, .ro, 0, .none⟩]⟩,
    -- NS_DG_STAT2 (R752)
    ⟨0xC010, 1, 8, [⟨16, 1, .ro, 0, .none⟩, ⟨12, 4, .ro, 0, .none⟩, ⟨0, 12, .ro, 0, .none⟩]⟩,
    -- NS_DG_DATA (R753)
    ⟨0xC040, 16, 8, [⟨0, 64, .ro, 0, .none⟩]⟩
  ]

/-- The rows of a page (pages 13 to 15 have none: R13). -/
def regPage (page : Nat) : List RegRow :=
  match page with
  | 0 => regPage0
  | 1 => regPage1
  | 2 => regPage2
  | 3 => regPage3
  | 4 => regPage4
  | 5 => regPage5
  | 6 => regPage6
  | 7 => regPage7
  | 8 => regPage8
  | 9 => regPage9
  | 10 => regPage10
  | 11 => regPage11
  | 12 => regPage12
  | _ => []

/-- `off` is one of the row's registers. -/
def RegRow.has (r : RegRow) (off : Nat) : Bool :=
  r.base ≤ off && (off - r.base) % r.stride == 0 && (off - r.base) / r.stride < r.count

/-- The fields of the register at `off`; none where the offset is reserved (R13, R16 and the reserved-offset rules). -/
def regFields (off : Nat) : Option (List FieldRow) :=
  ((regPage (off / 4096)).find? (fun r => r.has off)).map (·.fields)

/-- The value of a register whose every field has its Reset-column value. -/
def resetWord (off : Nat) : Word :=
  match regFields off with
  | some fs => fs.foldl (fun w f => setBits w f.lo f.w f.reset) 0
  | none => 0

end Sys2Proof.Machine
end

