-- ==== Sys2Proof/Machine/Sparse.lean ====
section
/-! DEFINITION. Sparse maps in one canonical form: a list of (key, value) pairs, keys strictly rising, no pair whose value is
what an unlisted key reads as. The slice's data tier, its bookkeeping arrays and its register file are kept in it. -/

namespace Sys2Proof.Machine

/-- The value at `k`: the first one listed, else `d k`, what an unlisted key reads as. -/
def Sparse.get {α : Type} (d : Nat → α) (m : List (Nat × α)) (k : Nat) : α :=
  match m with
  | [] => d k
  | (k', v) :: r => if k' = k then v else Sparse.get d r k

/-- Put the pair `(k, v)` in its place, replacing what `k` had. -/
def Sparse.insert {α : Type} (m : List (Nat × α)) (k : Nat) (v : α) : List (Nat × α) :=
  match m with
  | [] => [(k, v)]
  | (k', v') :: r =>
    if k < k' then (k, v) :: (k', v') :: r
    else if k = k' then (k, v) :: r
    else (k', v') :: Sparse.insert r k v

/-- Take the pair of `k` out. -/
def Sparse.erase {α : Type} (m : List (Nat × α)) (k : Nat) : List (Nat × α) :=
  match m with
  | [] => []
  | (k', v') :: r => if k' = k then Sparse.erase r k else (k', v') :: Sparse.erase r k

/-- Write `v` at `k`, keeping the canonical form: writing what an unlisted key reads as removes the pair. -/
def Sparse.set {α : Type} [DecidableEq α] (d : Nat → α) (m : List (Nat × α)) (k : Nat) (v : α) : List (Nat × α) :=
  if v = d k then Sparse.erase m k else Sparse.insert m k v

/-- Write several pairs, in order. -/
def Sparse.setAll {α : Type} [DecidableEq α] (d : Nat → α) (m : List (Nat × α)) (ws : List (Nat × α)) : List (Nat × α) :=
  ws.foldl (fun m p => Sparse.set d m p.1 p.2) m

/-- The canonical form: keys strictly rising above `lo`, no value equal to the unlisted one. -/
def Sparse.wfFrom {α : Type} [DecidableEq α] (d : Nat → α) (lo : Nat) : List (Nat × α) → Bool
  | [] => true
  | (k, v) :: r => decide (lo ≤ k) && !(decide (v = d k)) && Sparse.wfFrom d (k + 1) r

/-- The canonical form of a whole map. -/
def Sparse.wf {α : Type} [DecidableEq α] (d : Nat → α) (m : List (Nat × α)) : Bool := Sparse.wfFrom d 0 m

end Sys2Proof.Machine
end

