-- ==== Sys2Proof/Machine/State.lean ====
section
/-! DEFINITION. The state of a Nelna slice: its register pages, its data tier and bookkeeping arrays, its trackers, queues,
tables and engines, its clocks and pins, and the queue of commands that wait. Plain data throughout. -/

namespace Sys2Proof.Machine

/-! ### Storage -/

/-- The data tier, the bookkeeping arrays and the small tables beside them. -/
structure Mem where
  /-- the data tier's bytes, at `way * 2^20 + set * 128 + byte` (R127, R578); an unlisted byte reads 0 -/
  tier : List Host.Cell
  /-- per 32-bit tier word (address div 4): the stored check bits XORed with the word's own (0: no error; 0x7F: stored poison) -/
  chk : List (Nat × BitVec 7)
  /-- tag entries in the layout of R63, at `way * 8192 + set` -/
  tags : List (Nat × Word)
  /-- group-line words (R259), at `way * 8192 + set` -/
  glw : List (Nat × BitVec 24)
  /-- loan vectors (R39, R63), at `way * 8192 + set` -/
  loan : List (Nat × BitVec 8)
  /-- directory words in the layout of R376, at `(set * 8 + entry) * 2 + word` -/
  dir : List (Nat × Word)
  /-- per bookkeeping word, its check-bit deviation; keys `kind * 2^20 + index`, kind 0 tag, 1 group-line word, 2 loan vector,
  3 directory -/
  bkchk : List (Nat × BitVec 8)
  /-- the contention predictor's counters (R370) -/
  pred : List (Nat × BitVec 3)
  /-- the deaccession filter (R94), oldest first -/
  deacf : List LineAddr
  deriving DecidableEq, Repr

/-! ### Lines and requests in flight -/

/-- What an access addresses: a line by its physical address, a vitrine line by offset bits [23:7] (R127), or no line. -/
inductive LineKey where
  /-- a vitrine line of another slice, by bits [32:7] of its vitrine address -/
  | far (a : BitVec 26)
  | pa (line : LineAddr)
  | vit (line : BitVec 17)
  | none
  deriving DecidableEq, Repr

/-- How the priority of a grant unit is found (R477, R490): as a request's, as a group's internal work (never lowered by a
budget), or at BGPRI. -/
inductive JobKind where
  | request | group | background
  deriving DecidableEq, Repr

/-- The kind of request that R488 takes a service estimate for. -/
inductive EstKind where
  | hit | miss | wr | fwd
  deriving DecidableEq, Repr

/-- The class of a unit at the outbound queue, by what it may wait for (R388, R536, R538): a request, an invalidation or snoop, a DD response,
an LCL response, data for a cluster, or host memory traffic. Units of other points are of one class. -/
inductive Lane where
  | req | inv | rsp | lrsp | dat | mem
  deriving DecidableEq, Repr

/-- A reader of a combined read that a grant unit serves beside the first (R100, R489). -/
structure Claim where
  cls : Nat
  master : Nat
  born : Nat
  slack : Nat
  deriving DecidableEq, Repr

/-- What a service point needs to know of a grant unit (R473 to R477). -/
structure Job where
  kind : JobKind
  cls : Nat
  master : Nat
  /-- acceptance cycle of the request it serves, or the cycle in which a stream item became ready (R474) -/
  born : Nat
  slack : Nat
  /-- whose service estimate it takes (R488) -/
  est : EstKind
  /-- the line it accesses (R476) -/
  key : LineKey
  lane : Lane := .rsp
  /-- its margin has been gone and it is counted in URGENT (R490) -/
  urgent : Bool := false
  others : List Claim := []
  deriving DecidableEq, Repr

/-- The kinds of tracker (R116). -/
inductive TrkKind where
  | read | write | red | atom
  /-- a request that R116 gives no tracker, kept only while it waits -/
  | none
  deriving DecidableEq, Repr

/-- What an accepted request waits for. -/
inductive Stage where
  /-- behind an earlier access to its line (R119), a hold (R519) or a purge (R627) -/
  | queued
  /-- its directory transaction has settled, and it may be served (R382) -/
  | ready
  /-- its line's data is on the way (channel, proxy or host memory) -/
  | fill
  /-- its victim leaves: its loan copies are being invalidated, or it is being written back (R83, R84) -/
  | victim
  /-- its directory transaction runs (R379) -/
  | coh
  /-- forwarded to its home as exit slice, or onward as a proxy -/
  | fwd
  /-- an exit slice holds it back until earlier forwarded writes are acknowledged (R429, R431) -/
  | fwdWait
  /-- applied; it waits for loan invalidations to be confirmed before its acknowledgement (R41, R42) -/
  | loanAck
  /-- an arrival that waits to be combined (R276) -/
  | combine
  /-- applied; its data waits to be accepted by the channel (R116) -/
  | drain
  /-- served: its last beat or its acknowledgement is queued or sent -/
  | done
  /-- dropped as stale: the tracker is free in the next cycle (R519) -/
  | stale
  deriving DecidableEq, Repr

/-- The resource of a reserved credit (R397, R399, R403, R560). -/
inductive CRes where
  | line (l : LineAddr)
  | set (n : Nat) (use : Nat)
  | dirset (n : Nat)
  | chan
  deriving DecidableEq, Repr

/-- A tracker with the request it holds (R116). -/
structure Trk where
  id : Nat
  kind : TrkKind
  op : Op
  req : Req
  key : LineKey
  stage : Stage
  /-- the cycle of acceptance (R474, R485) -/
  born : Nat
  /-- the readers of a combined read after the first, in acceptance order, each with the cycle of its acceptance (R100) -/
  joined : List (Req × Nat)
  /-- the way allocated for its line -/
  way : Option Nat
  /-- while BKLOSS is 1: the cause of each sector fetched from memory for it, with which it is delivered (R600) -/
  loss : BitVec 12
  /-- it needed a fill (R488) -/
  miss : Bool
  /-- its unit at the service point it waits at has been counted in URGENT (R490) -/
  urgent : Bool
  /-- a vitrine read that met an uninitialised sector (R143, R339) -/
  uninit : Bool
  /-- the line's invalidation has been confirmed while it waited: the returned line is not allocated (R106) -/
  noAlloc : Bool
  /-- no read joins it any more: its first data beat has left, or a write, atomic or arrival to its line was accepted (R98) -/
  closed : Bool
  /-- the cluster whose near ATOM it serves (R374) -/
  cl : Option (BitVec 5)
  /-- for a converting request: the stored format of its line and the vitrine offset of its scale bytes, by the windows of its
  acceptance (R326) -/
  cvt : Option (BitVec 5 × Nat)
  /-- a credited resend accepted on hold: R759 judges it when the hold ends (R519) -/
  anew : Bool := false
  /-- served without allocation under R85: every reader of it counts in NOALLOC (R123) -/
  noalloc : Bool := false
  /-- the resource its credit had reserved, which stays its own until it takes it (R399, R404) -/
  res : Option CRes := none
  /-- the operations of a write to memory without a way (R52, R89): none of them has left yet while all wait (R626) -/
  drains : Nat := 0
  deriving DecidableEq, Repr

/-- One destination of a reply beat (R521), with the context and generation R617 compares, its class (R491) and the cycle of its
acceptance (R485). -/
structure Dest where
  tag : BitVec 12
  reqid : BitVec 8
  srcdie : BitVec 3
  ctx : BitVec 12
  gen : BitVec 8
  cls : Nat
  born : Nat
  /-- never judged stale (R618) -/
  exempt : Bool
  deriving DecidableEq, Repr

/-- A reply beat on MR, or a reply on DD to the exit slice of die `dd` (R521, R526, R538). -/
structure Beat where
  dests : List Dest
  dd : Option (BitVec 3)
  status : Nat
  detail : Nat
  acklvl : Nat
  auxr : Nat
  part : Nat
  npart : Nat
  /-- the poison cause of each sector, 3 bits a sector (R523); 0 for none -/
  pz : BitVec 12
  data : LineData
  /-- the tracker the beat belongs to -/
  trk : Option Nat
  /-- with this beat the tracker is freed (R116) -/
  last : Bool
  /-- it carries a data line that counts in RDBYTES (R491) -/
  isData : Bool
  job : Job
  /-- its latency is measured (R485) -/
  measured : Bool
  deriving DecidableEq, Repr

/-- The census classes of R683. -/
inductive SlotCls where
  | served | replay | tracker | credit | hold | dataport
  deriving DecidableEq, Repr

/-- An entry of the reserved-credit table (R398). -/
structure Credit where
  reqid : BitVec 8
  res : CRes
  op : Op
  vsp : Bool
  pa : BitVec 52
  ctx : BitVec 12
  gen : BitVec 8
  tag : BitVec 12
  srcdie : BitVec 3
  /-- the message of a cluster it was reserved for, if it was no request at a pipe -/
  msg : Option Nat
  granted : Bool
  /-- the cycle of the grant, or of the last loss of the data port (R401, R520) -/
  since : Nat
  /-- the cycle of its first loss of the data port (R520) -/
  lost : Option Nat
  deriving DecidableEq, Repr

/-- A pending fence sweep (R441) and the forwarded writes it waits for. -/
structure Sweep where
  dest : Dest
  dd : Option (BitVec 3)
  cls : Nat
  slack : Nat
  born : Nat
  trks : List Nat
  deriving DecidableEq, Repr

/-- The request and reply ports. -/
structure Port where
  trks : List Trk
  nextId : Nat
  beats : List Beat
  /-- granted by the reply port and not yet sent -/
  granted : List Beat
  /-- what the census counts for each pipe's slot of this cycle (R683); none while nothing was presented -/
  slotE : Option SlotCls
  slotO : Option SlotCls
  /-- RCR of this cycle's retry at each pipe: a credit is reserved for the request (R515) -/
  rcrE : Bool
  rcrO : Bool
  /-- a data-carrying request was accepted in this cycle (R517) -/
  dataTaken : Bool
  credits : List Credit
  sweeps : List Sweep
  /-- loan invalidations that await confirmation: line and dies (R40, R41) -/
  invs : List (LineAddr × BitVec 8)
  /-- those of them that are invalidated once more when they confirm, because they asked for the line meanwhile (R40) -/
  again : List (LineAddr × BitVec 8) := []
  /-- forwarded writes that await their package-level acknowledgement, as (tracker, line) in acceptance order (R429) -/
  fwdWr : List (Nat × LineAddr)
  /-- requests whose slack has reached 0 and been counted, while they are unanswered (R489) -/
  late : List Dest
  /-- grants made so far at each service point, in the order of `Point` (R475) -/
  grants : List Nat
  deriving DecidableEq, Repr

/-! ### Requests and messages that leave -/

/-- Why the slice issued a request: who is told of its reply. -/
inductive Why where
  /-- an exit slice's forward of a tracker's request (R29) -/
  | fwd (trk : Nat)
  /-- a proxy access for memory operation `op` (R22, R569) -/
  | proxy (op : Nat)
  /-- the read of the line at byte `o` of bulk command `cmd`, a write of one of its lines, and an arrival it sends -/
  | bulkRd (cmd o : Nat)
  | bulkWr (cmd o : Nat)
  | bulkRed (cmd o : Nat)
  /-- a forward arrival of group `g` (R300) -/
  | arrival (g : Nat)
  | incr
  /-- the released write of accession counter `k`, its hold `n` (R458) -/
  | seal (k n : Nat)
  /-- a range invalidation of a BINV command for the page of the virtual address `page * 4096` (R530) -/
  | tinv (cmd page : Nat)
  /-- completion record `id` -/
  | record (id : Nat)
  deriving DecidableEq, Repr

/-- A request issued on MO, or on DD to the same slice of another die (R528, R538). -/
structure OReq where
  dd : Bool
  die : Nat
  slice : Nat
  op : Op
  req : Req
  why : Why
  /-- for a range invalidation, the number of tiles that are to acknowledge it (R530) -/
  tiles : Nat := 0
  deriving DecidableEq, Repr

/-- An open issue entry (R620). -/
structure Issue where
  entry : Nat
  epoch : BitVec 3
  op : Op
  ctx : BitVec 12
  gen : BitVec 8
  die : Nat
  line : LineAddr
  why : Why
  orphan : Bool
  /-- the cycle in which it was orphaned, or issued -/
  since : Nat
  /-- the tiles whose acknowledgements of a range invalidation have not come (R530) -/
  acks : Nat := 0
  deriving DecidableEq, Repr

/-- The messages the home sends to clusters and to host memory (R387, R536). -/
inductive LwName where
  | snpS | snpX | snpInv | snpHome | goS | goX | retry | credit | wbGo | wbStale | evcGo | atomAck | nackDead
  | dataS | dataX | atomRes | memRd | memWr
  deriving DecidableEq, Repr

/-- A message the slice sends on LW. -/
structure LwMsg where
  name : LwName
  cluster : Nat
  line : LineAddr
  /-- the requester named by SNP_S and SNP_X -/
  reqr : Nat
  /-- FAR of a grant, CR of a RETRY -/
  flag : Bool
  data : LineData
  pois : BitVec 4
  /-- sectors written by memWr -/
  mask : BitVec 128
  /-- the remaining slack of a memory request (R487) -/
  slack : BitVec 12
  deriving DecidableEq, Repr

/-- The place a message of a cluster or to a cluster takes on its way: a bridge entry reserved to its class, a shared one (R35), or, from
the LCL port of the slice's own wing, a place of the LW crossing (R543). -/
inductive BridgeSlot where
  | own | shared | crossing
  deriving DecidableEq, Repr

/-- A message to a cluster of the other wing that is in the wing bridge: its entry, and how many of its flits have still to cross (R34,
R35). -/
structure BridgeOut where
  msg : LwMsg
  slot : BridgeSlot
  flits : Nat
  deriving DecidableEq, Repr

/-- What the slice sends on DD besides forwarded requests and replies (R538). -/
inductive DdMsg where
  | inv (die : Nat) (line : LineAddr)
  | confirm (die : Nat) (line : LineAddr)
  deriving DecidableEq, Repr

/-- A message that waits at the outbound queue for a credit or an issue entry (R472, R528, R620). -/
inductive OutMsg where
  | req (q : OReq)
  | lw (m : LwMsg)
  | dd (m : DdMsg)
  | rep (b : Beat)
  deriving DecidableEq, Repr

/-- A queued outbound message with what R490 needs of it. -/
structure OutItem where
  msg : OutMsg
  job : Job
  deriving DecidableEq, Repr

/-- What the LCL port answers a cluster (R37, R403): RETRY with its CR, or CREDIT. -/
inductive PortAns where
  | retry (cluster : Nat) (line : LineAddr) (cr : Bool)
  | credit (cluster : Nat) (line : LineAddr)
  deriving DecidableEq, Repr

/-- Requests and messages that leave the slice. -/
structure Outs where
  issue : List Issue
  /-- the epochs of the 512 issue entries (R620, R621) -/
  epochs : List (Nat × BitVec 3)
  outq : List OutItem
  /-- what is in the wing bridge on its way from this slice, in the order it was sent (R33, R35, R36) -/
  bridgeOut : List BridgeOut := []
  /-- transmit credits per LW class, in the order of `LwCls` (R535) -/
  lwCred : List Nat
  /-- LW_RX_CRRET: receive credits announced and given back per class (R537, R553) -/
  lwRx : List Nat
  /-- DD_RX_CRRET: receive credits announced and given back, at `die * 3 + class` (R539, R553) -/
  ddRx : List Nat
  /-- DD credits, at `die * 3 + class` (R539) -/
  ddCred : List Nat
  /-- the outputs, oldest first: reply beats on MR, requests on MO and DD, messages on LW and DD, replies on DD, channel
  operations on HC, responses on CT -/
  sentMR : List Beat
  sentReq : List OReq
  sentLW : List LwMsg
  sentDD : List DdMsg
  sentRep : List Beat
  /-- what the LCL port has answered clusters on the slice's behalf (R37, R403) -/
  sentPort : List PortAns
  sentCT : List (BitVec 2 × BitVec 3 × Word)
  deriving DecidableEq, Repr

/-! ### The channel side -/

/-- Where a memory operation of this home goes (R385, R559, R569). -/
inductive MemTgt where
  /-- this slice's own channel, at a bay -/
  | chan (bay : Nat)
  /-- a proxy to slice `slice` of die `die` for a physical line -/
  | proxy (die slice : Nat) (line : LineAddr)
  /-- host DRAM over LW -/
  | host (line : LineAddr)
  deriving DecidableEq, Repr

/-- What a memory operation is for. -/
inductive MemWhy where
  /-- the line of a tracker -/
  | trk (id : Nat)
  /-- the home copy a cluster's transaction needs -/
  | txn (line : LineAddr)
  /-- dirty data of a cluster that goes through to memory for the transaction of its line (R386, R559) -/
  | home (line : LineAddr)
  /-- an image line that snapshot restore `cmd` reads for a vitrine line (R183) -/
  | restore (cmd vl : Nat)
  /-- an image line that snapshot save `cmd` writes (R180) -/
  | image (cmd : Nat)
  /-- a line that SAVE writes to its reserve line (R575) -/
  | save
  /-- a line that the write-back command writes (R657) -/
  | wb
  /-- the line in `way` of `set`, for a request that a purge has discarded (R626) -/
  | fill (way set : Nat)
  /-- the line in `way` of `set` is leaving (R73, R83) -/
  | evict (way set : Nat)
  /-- a write-through, or a write without allocation that nothing waits for -/
  | none
  deriving DecidableEq, Repr

/-- The operation is part of a line that leaves. -/
def MemWhy.isEvict : MemWhy → Bool
  | .evict _ _ => true
  | _ => false

/-- The operation fills a line for no request any more. -/
def MemWhy.isFill : MemWhy → Bool
  | .fill _ _ => true
  | _ => false

/-- A memory operation: queued, or issued and unanswered. -/
structure MemOp where
  id : Nat
  write : Bool
  /-- sectors moved -/
  sectors : BitVec 4
  /-- bytes written -/
  mask : BitVec 128
  data : LineData
  pz : BitVec 12
  why : MemWhy
  line : LineAddr
  /-- it belongs to one of the slice's own streams (R561) -/
  stream : Bool
  /-- where it was sent, once it has been -/
  sent : Option MemTgt
  /-- the OTAG under which it was issued on HC -/
  otag : Option Nat
  job : Job
  ctx : BitVec 12
  gen : BitVec 8
  /-- the HINT of a bulk command's line (R163) -/
  hint : BitVec 2 := 1
  deriving DecidableEq, Repr

/-- One operation issued on HC (R531). -/
structure HcCmd where
  otag : Nat
  bay : Nat
  sectors : BitVec 4
  line : Bool
  write : Bool
  data : LineData
  wpois : BitVec 12
  deriving DecidableEq, Repr

/-- The beats of 64 B that follow a write on HC (R531): two for a whole line, beat 0 first; one for a single sector `s`, which stands at beat
bytes 32 * (s mod 2). -/
def HcCmd.beats (c : HcCmd) : List (BitVec 512) :=
  if c.line then [c.data.extractLsb' 0 512, c.data.extractLsb' 512 512]
  else (List.range 4).filterMap fun i =>
    if !bitAt c.sectors i then none
    else
      let sec := c.data.extractLsb' (256 * i) 256
      some (if i % 2 = 0 then Config.hcIdle ++ sec else sec ++ Config.hcIdle)

/-- The line that the two read beats of a whole-line operation carry. -/
def hcLine (beat0 beat1 : BitVec 512) : LineData := beat1 ++ beat0

/-- The channel side (R556 to R577). -/
structure Chan where
  ops : List MemOp
  nextOp : Nat
  /-- lines that are being written back before their entries are reused, each by its way and set; each holds a write/evict tracker
  (R83, R116) -/
  evicts : List (Nat × Nat)
  /-- operations issued on HC, oldest first -/
  sentHC : List HcCmd
  /-- cycles spent in RETRAIN so far (R564, R565) -/
  rtCycles : Nat
  /-- the retraining timeout has been raised for this RETRAIN -/
  rtRaised : Bool
  /-- HC_STATE has changed to this code while SCLK stood: it is seen when SCLK runs (R547) -/
  hcLate : Option Nat
  /-- operations with a number below it were held when the channel was last resumed, and go first (R562) -/
  resumed : Nat
  deriving DecidableEq, Repr

/-! ### Groups -/

/-- Who is told when a group-control command is answered: its request, or NS_GRPOPEN when `staged`. -/
structure GrpAsker where
  staged : Bool
  req : Req
  born : Nat
  /-- its number in the order of acceptance (R278) -/
  ord : Nat := 0
  deriving DecidableEq, Repr

/-- A group that is not FREE; its STATE, TKIND, CTX, FLAGS, CNTSAT and SHORTU stand in NS_GRPSTAT (R317). -/
structure Grp where
  num : Nat
  /-- the sixteen words of the OPEN's descriptor (R266) -/
  desc : List Word
  /-- the OPEN: its context, generation, class, requester and privilege are the group's (R265) -/
  req : Req
  born : Nat
  /-- the OPEN, until it is answered -/
  opener : Option GrpAsker
  /-- ABORTs that wait for FREE (R269) -/
  aborts : List GrpAsker
  /-- lines a memory-target group holds (R295) -/
  lines : List LineAddr
  /-- the sum of the counts of lines that have left it (R653) -/
  leftCount : Nat
  /-- the sum over accepted arrivals of k times the units covered (R653) -/
  booked : Nat
  /-- the index of each ARGMAX or ARGMIN element (R218, R226). R210 gives an element the four bytes of its value: the index stands beside the
  group's storage, and reads and writes of that neither show nor change it (DESIGN CHOICE, assumption 136) -/
  idx : List (Nat × BitVec 32)
  /-- the values, by element, on which arithmetic continues in poisoned sectors (R232), whose storage holds the poison (R579); chunk
  values count on from 2^24 -/
  hid : List (Nat × Option Nat) := []
  arrivals : Nat
  rejects : Nat
  fwdRej : Nat
  /-- units below EXPECT at the close -/
  shortU : Nat
  poisonLn : Nat
  /-- forward arrivals issued, and answered -/
  fwdSent : Nat
  fwdDone : Nat
  /-- closed by a CLOSE command (R311) -/
  byClose : Bool
  /-- the next tracker's number when a CLOSE or ABORT was accepted or the count completed: an arrival from this one on was accepted after
  it (R278, R279) -/
  cutoff : Option Nat := none
  /-- the number of its OPEN in the order of acceptance: an arrival below it was accepted before the group was open (R278) -/
  openedAt : Nat := 0
  /-- the epilogue has written its output -/
  epiDone : Bool
  deriving DecidableEq, Repr

/-! ### The bulk engine -/

/-- One occupied command slot (R151 to R155). -/
structure Cmd where
  id : Nat
  /-- the cycle in which its command write was accepted -/
  born : Nat
  desc : List Word
  ctx : BitVec 12
  gen : BitVec 8
  priv : BitVec 2
  reqid : BitVec 8
  srcdie : BitVec 3
  /-- bytes issued so far, counted from the start of the command: the engine goes on from here (R154, R166) -/
  progress : Nat
  /-- it passed the checks of R159 -/
  checked : Bool
  /-- it issues nothing more and completes with this status once nothing of it is outstanding -/
  status : Option Nat
  faultVa : Word
  poisonLn : Nat
  rejLn : Nat
  /-- line requests on MO that are unanswered, by their byte offset in the command -/
  lines : List Nat
  /-- a translation fault has stopped issue at this byte offset (R164) -/
  stopAt : Option Nat
  /-- pages translated: virtual page to physical page -/
  xlate : List (Nat × Nat)
  /-- the tiles whose acknowledgement is awaited, for each page sent (R179) -/
  tiles : List (Nat × BitVec 144)
  deriving DecidableEq, Repr

/-- A completion record that is due (R171, R310). -/
structure Cpl where
  id : Nat
  /-- the command it belongs to; a group's record has none -/
  cmd : Option Nat
  group : Option Nat
  /-- lines whose loan invalidations must be confirmed before it is written (R449) -/
  waits : List LineAddr
  /-- its write has been issued -/
  sent : Bool
  tag : Nat
  status : Nat
  irq : Bool
  cpladdr : Word
  words : List Word
  ctx : BitVec 12
  gen : BitVec 8
  cls : Nat
  reqid : BitVec 8
  srcdie : BitVec 3
  priv : BitVec 2
  deriving DecidableEq, Repr

/-- The bulk engine. -/
structure Bulk where
  /-- occupied slots, oldest first -/
  cmds : List Cmd
  nextCmd : Nat
  /-- the active command's id -/
  active : Option Nat
  /-- the last active command's id (R191) -/
  shown : Option Nat
  /-- records that are due, oldest first -/
  cpls : List Cpl
  nextCpl : Nat
  /-- lines that a purged save has written, whose loan invalidations await confirmations (R190) -/
  left : List LineAddr := []
  deriving DecidableEq, Repr

/-! ### Accession counters -/

/-- A held sealed write, or one whose release runs (R457, R458). -/
structure Hold where
  k : Nat
  /-- tells it from a release of the same counter that is still in flight after a write of 0 to EN in ERROR (R469) -/
  n : Nat
  req : Req
  born : Nat
  /-- issued to its home -/
  issued : Bool
  /-- a write of 0 to EN takes effect at the end of the release (R469) -/
  disable : Bool
  deriving DecidableEq, Repr

/-! ### Coherence -/

/-- Who began a directory transaction. -/
inductive TxnWho where
  | cluster (c : Nat)
  | tracker (id : Nat)
  /-- a directory victim taken for a request of line `l` (R380), a quarantine (R592), PREP (R574) -/
  | victim
  /-- the recovery of R641 -/
  | recovery
  deriving DecidableEq, Repr

/-- What the transaction does (R382). -/
inductive TxnKind where
  | rdS | rdX | upg | far | near | ncRead | ncWrite | wb | victim | recovery
  deriving DecidableEq, Repr

/-- A transaction of a host-class line (R379). -/
structure Txn where
  line : LineAddr
  who : TxnWho
  kind : TxnKind
  /-- snoops unanswered: cluster and the cycle it was sent -/
  snoops : List (Nat × Nat)
  /-- clusters snooped -/
  snooped : BitVec 32
  /-- SNP_DATA due less SNP_DATA received (either may come first) -/
  dataDue : Int
  /-- the home copy is being read from memory -/
  memDue : Bool
  /-- the owner answers the requester with its data (R391) -/
  fromOwner : Bool
  /-- the grant has been sent -/
  granted : Bool
  /-- COMP_ACK or WB_DATA still due -/
  compDue : Bool
  /-- some cluster answered HAD X -/
  hadX : Bool
  /-- clusters whose snoop timeout has been reported (R405) -/
  timedOut : BitVec 32
  /-- clusters whose SNP_ACK reported WBP (R394) -/
  wbp : BitVec 32
  /-- it waits for a directory entry: the victim's line (R380) -/
  waitVictim : Option LineAddr
  /-- the cycle in which its request was accepted (R474) -/
  born : Nat
  deriving DecidableEq, Repr

/-- A message of a cluster as it comes over the LCL (R387): RD_S, RD_X, UPG and WB by their kind, EVC, ATOM, and the RSP and DAT
messages. -/
inductive BridgeMsg where
  | req (m : ClMsg) (kind : TxnKind)
  | evc (m : ClMsg)
  | atom (m : ClMsg) (a : ClAtom)
  | snpAck (m : ClMsg) (had : Had) (d wbp : Bool)
  | compAck (m : ClMsg)
  | snpData (m : ClMsg) (data : LineData) (pois : BitVec 4)
  | wbData (m : ClMsg) (data : LineData) (pois : BitVec 4)
  deriving DecidableEq, Repr

/-- A message on its way to the slice. -/
structure BridgeEnt where
  msg : BridgeMsg
  slot : BridgeSlot
  deriving DecidableEq, Repr

/-- A credit reserved at the LCL port (R37, R403); a granted one holds the bridge entry `slot`. -/
structure PortCred where
  cluster : Nat
  /-- the message by number (`BridgeMsg.num`), with the opcode and the address a resend must have (R400) -/
  msg : Nat
  op : Op
  pa : BitVec 52
  line : LineAddr
  granted : Bool
  slot : BridgeSlot
  since : Nat
  deriving DecidableEq, Repr

/-- A cluster's request that was accepted with its credit while its line or its directory set was busy: it is ordered once that ends. -/
structure Waiter where
  msg : BridgeMsg
  /-- its own number in the order of acceptance, which a near ATOM's tracker takes -/
  since : Nat
  born : Nat
  /-- the resource its credit had reserved, which stays its own until it is ordered (R399, R400) -/
  res : Option CRes
  deriving DecidableEq, Repr

/-- Coherence state beside the directory. -/
structure Coh where
  txns : List Txn
  /-- lines whose entry was busy at the last reset and is to be recovered (R641), with the X flag of the entry -/
  recover : List (LineAddr × Bool)
  /-- the cycle in which they were found busy -/
  recoverAt : Nat
  /-- the cycle in which LW was released, from which the recovery counts its snoop timeout (R641) -/
  recoverFrom : Option Nat
  /-- messages that wait for this slice to wake: wing-bridge entries and places of the LW crossing (R35, R543, R550) -/
  bridge : List BridgeEnt
  /-- the credits reserved at the LCL port, in the order of its retries (R403) -/
  portCred : List PortCred
  /-- retries of the LCL port with and without a credit while SCLK stood: counted when it runs again (R398, R403, R547) -/
  portCr : Nat
  portNc : Nat
  /-- requests accepted with their credit that wait to be ordered (R400) -/
  waiters : List Waiter
  /-- the cluster the running reclaim walk is for (R406) -/
  reclaim : Option Nat
  /-- sharer bits cleared and lines poisoned by the running reclaim (R420) -/
  reclCleared : Nat
  reclPoisoned : Nat
  deriving DecidableEq, Repr

/-! ### Walks, purge, measurements, clocks -/

/-- A raw access that waits for the accesses accepted before it (R596): NS_ECC_CBCTL, CBDATA and CBCHK as they were written, and the
number the next accepted request would have had. -/
structure RawAcc where
  write : Bool
  ctl : Word
  data : Word
  chk : BitVec 8
  since : Nat
  deriving DecidableEq, Repr

/-- The slice's walks and one-at-a-time commands. -/
structure Walk where
  /-- the next (way, set) of the way drain (R49) -/
  drain : Option (Nat × Nat)
  /-- lines that a QSET has taken as victims and that have not left yet, as (way, set) (R592) -/
  quar : List (Nat × Nat)
  /-- lines invalidated once their loan copies are confirmed invalid, as (way, set) (R40, R581) -/
  dying : List (Nat × Nat)
  /-- raw accesses that wait -/
  raw : List RawAcc
  /-- a diagnostic read runs: the number of the first request accepted after its GO (R746) -/
  diag : Option Nat
  /-- PREP runs: the number of reserve lines it has poisoned (R574) -/
  prep : Option Nat
  /-- SAVE runs (R575) -/
  save : Bool
  /-- the write-back command runs; true once its walk is over (R657) -/
  wb : Option Bool
  /-- the purge that runs: context and generation (R625) -/
  purge : Option (BitVec 12 × BitVec 8)
  deriving DecidableEq, Repr

/-- What is counted and measured beside the registers. -/
structure Meas where
  /-- event occurrences of this cycle for each programmable counter (R678) -/
  pmcPend : List Nat
  /-- counters written in this cycle; where the write cleared OVF, with the count before it (R682) -/
  pmcWritten : List (Nat × Option Nat)
  /-- progress counters, in the order of R622 -/
  prog : List Nat
  /-- kinds that retired in this cycle -/
  retired : BitVec 8
  /-- kinds whose stall has been raised (R624) -/
  hung : BitVec 8
  /-- latency sums and request counts per class in this window (R485) -/
  latSum : List Nat
  latCnt : List Nat
  /-- masters over budget at some time in this window (R483) -/
  overBud : BitVec 256
  /-- the cycle count at which the last window began -/
  window : Option Nat
  /-- divisors that have been in force, each with the cycle in which it ended, newest first (R486, R487) -/
  divs : List (Nat × Nat)
  /-- consecutive quiescent cycles (R654), and cycles in which R546 has held since a wake (R549) -/
  quiet : Nat
  drowsy : Nat
  /-- increments are booked in NS_BALANCE_INC; credits reserved less used, released and expired (R653) -/
  credBook : Int
  deriving DecidableEq, Repr

/-- Everything of a slice but its resets, clocks and pins. -/
structure Parts where
  regs : List (Nat × Word)
  mem : Mem
  port : Port
  out : Outs
  chan : Chan
  grps : List Grp
  grpHeld : List GrpAsker
  bulk : Bulk
  holds : List Hold
  coh : Coh
  walk : Walk
  meas : Meas
  deriving DecidableEq, Repr

/-- The level of a reset (R633). -/
inductive Level where
  | cmp | pkg | por
  deriving DecidableEq, Repr

/-- Resets, clocks and pins. -/
structure Sys where
  /-- the reset in effect, if any -/
  inReset : Option Level
  /-- the highest level since the last completed release (R636) -/
  applied : Level
  /-- release steps done: 0 none, 1 clock island, 2 sweep, 3 data tier, 4 memory port, 5 mesh port, 6 LCL port -/
  released : Nat
  /-- the sweep has to apply R599 -/
  bkLost : Bool
  /-- tag entries (way, set) whose loan copies are to be invalidated again after DD is released (R641) -/
  reinv : List Nat
  sclkRuns : Bool
  /-- WAKE has risen and SCLK does not run yet -/
  waking : Bool
  /-- woken with SLEEP = 1 -/
  woken : Bool
  sleepAck : Bool
  frz : Bool
  /-- SCLK edges until the capture that a rise of FRZ has asked for (R542) -/
  frzEdge : Option Nat
  /-- a capture has been made in this step: its FREEZE entry is made at the step's end (R686) -/
  captured : Bool
  irq : Bool
  /-- pulses of CT_MSG_DONE so far -/
  msgDone : Nat
  /-- a block reset waits to proceed, and since when (R639) -/
  blockSince : Option Nat
  /-- an uncorrectable bookkeeping error was met in this step: the block domain is reset at once (R598) -/
  bkFail : Bool
  /-- the slice as the error met it: what the rest of the step did is undone by the reset -/
  bkSnap : Option Parts := none
  deriving DecidableEq, Repr

/-- One entry of the provenance log (R696). -/
structure PvEntry where
  stamp : Word
  old : Word
  new : Word
  seq : BitVec 32
  kind : BitVec 3
  priv : BitVec 2
  origin : BitVec 8
  offset : BitVec 16
  deriving DecidableEq, Repr

/-- The provenance log (R698, R699, R702): the entries held, oldest first, the next sequence number and the losses. -/
structure Prov where
  held : List PvEntry
  seqNext : BitVec 32
  lost : BitVec 32
  /-- registers that have their SLICE entry of this cycle (R694) -/
  noted : List Nat := []
  deriving DecidableEq, Repr

/-- The slice without its generation table, its provenance log and its command queue. -/
structure Slice where
  /-- the register pages: offset in the 64 KiB space to word; an unlisted register holds its Reset-column value -/
  regs : List (Nat × Word)
  mem : Mem
  port : Port
  out : Outs
  chan : Chan
  grps : List Grp
  /-- accepted group-control commands that wait for the end of a purge (R627) or for an ABORT accepted before them (R278), in order -/
  grpHeld : List GrpAsker
  bulk : Bulk
  holds : List Hold
  coh : Coh
  walk : Walk
  meas : Meas
  sys : Sys
  deriving DecidableEq, Repr

/-- The whole state. -/
structure State where
  sl : Slice
  /-- GENTAB (R615): context to generation; an unlisted context has generation 0 -/
  gentab : List (Nat × BitVec 8)
  prov : Prov
  /-- the commands that wait, first in, first out -/
  pending : List Instr
  /-- how far the cycle has come in the order of R741: 0 at its start, then as `Turn` numbers them -/
  turn : Nat := 0
  deriving DecidableEq, Repr

/-- No step of this model stops with a fault: the spec gives every command an effect or an answer. -/
inductive Fault where
  /-- raised by no meaning; kept so that the type is inhabited (safe) -/
  | none
  deriving DecidableEq, Repr

/-- Why a command is refused. -/
inductive Refusal where
  /-- raised only by an arm of Machine/Dispatch.lean whose command has no meaning yet (safe: nothing is claimed) -/
  | notModelled (mnemonic : String)
  deriving DecidableEq, Repr

/-! ### Reset -/

/-- The arrays with nothing in them. -/
def Mem.empty : Mem :=
  { tier := [], chk := [], tags := [], glw := [], loan := [], dir := [], bkchk := [], pred := [], deacf := [] }

/-- The ports with nothing in flight. -/
def Port.empty : Port :=
  { trks := [], nextId := 0, beats := [], granted := [], slotE := none, slotO := none, rcrE := false, rcrO := false, dataTaken := false,
    credits := [], sweeps := [], invs := [], fwdWr := [], late := [], grants := List.replicate 6 0 }

/-- Nothing issued; every transmit credit is zero at the release of a port's domain (R553). -/
def Outs.empty : Outs :=
  { issue := [], epochs := [], outq := [], lwCred := List.replicate 5 0, lwRx := List.replicate 5 0, ddRx := List.replicate 24 0,
    ddCred := List.replicate 24 0, sentMR := [], sentReq := [], sentLW := [], sentDD := [], sentRep := [], sentPort := [], sentCT := [] }

def Chan.empty : Chan :=
  { ops := [], nextOp := 0, evicts := [], sentHC := [], rtCycles := 0, rtRaised := false, hcLate := none, resumed := 0 }

def Bulk.empty : Bulk := { cmds := [], nextCmd := 0, active := none, shown := none, cpls := [], nextCpl := 0 }

def Coh.empty : Coh :=
  { txns := [], recover := [], recoverAt := 0, recoverFrom := none, bridge := [], portCred := [], portCr := 0, portNc := 0, waiters := [],
    reclaim := none, reclCleared := 0, reclPoisoned := 0 }

def Walk.empty : Walk :=
  { drain := none, quar := [], dying := [], raw := [], diag := none, prep := none, save := false, wb := none, purge := none }

def Meas.empty : Meas :=
  { pmcPend := List.replicate 8 0, pmcWritten := [], prog := List.replicate 8 0, retired := 0, hung := 0,
    latSum := List.replicate 8 0, latCnt := List.replicate 8 0, overBud := 0, window := none, divs := [], quiet :=
      0, drowsy := 0,
    credBook := 0 }

/-- Pins and clocks after the standby supply has come up and every reset input has been taken away: no release step has run
(R634, R642). -/
def Sys.start : Sys :=
  { inReset := none, applied := .por, released := 0, bkLost := true, reinv := [], sclkRuns := true, waking := false,
    woken := false, sleepAck := false, frz := false, frzEdge := none, captured := false, irq := false, msgDone := 0, blockSince :=
      none, bkFail := false }

def Slice.start : Slice :=
  { regs := [], mem := Mem.empty, port := Port.empty, out := Outs.empty, chan := Chan.empty, grps := [], grpHeld := [],
    bulk := Bulk.empty, holds := [], coh := Coh.empty, walk := Walk.empty, meas := Meas.empty, sys := Sys.start }

def Prov.empty : Prov := { held := [], seqNext := 0, lost := 0 }

/-- The machine right after power-on reset: every register at its Reset column but the record of this reset (R637: POR of NS_RST_CNT0
counts 1, and SEEN of NS_RST_CAUSE names it), every array, table and queue empty, GENTAB all zero, no release step run, no
command waiting. -/
def State.reset : State :=
  { sl := { Slice.start with regs := [(Reg.NS_RST_CAUSE, 1), (Reg.NS_RST_CNT0, 1)] }, gentab := [], prov := Prov.empty, pending := [] }

end Sys2Proof.Machine
end

