-- ==== Sys2Proof/Machine/Ops.lean ====
section
/-! DEFINITION. The named operations every meaning is made of: registers and their fields, the error record, interrupts, the
programmable counters' events, credits, messages that leave, and the provenance log. -/

namespace Sys2Proof.Machine

/-! ### Registers -/

/-- The word a register holds. -/
def Slice.rd (s : Slice) (off : Nat) : Word := Sparse.get resetWord s.regs off

/-- Put a word into a register. -/
def Slice.wr (s : Slice) (off : Nat) (w : Word) : Slice := { s with regs := Sparse.set resetWord s.regs off w }

/-- A field, as a number. -/
def Slice.fld (s : Slice) (f : Fld) : Nat := getBits (s.rd f.off) f.lo f.w

/-- A one-bit field, or whether a field is not zero. -/
def Slice.flag (s : Slice) (f : Fld) : Bool := s.fld f != 0

/-- Set a field, keeping the register's other bits. -/
def Slice.setFld (s : Slice) (f : Fld) (n : Nat) : Slice := s.wr f.off (setBits (s.rd f.off) f.lo f.w n)

/-- Add to a count that stops at its field's greatest value. -/
def Slice.bump (s : Slice) (f : Fld) (n : Nat) : Slice := s.setFld f (satAdd (2 ^ f.w - 1) (s.fld f) n)

/-- This slice's die and number (R732). -/
def Slice.die (s : Slice) : Nat := s.fld NS_ID.DIE
def Slice.num (s : Slice) : Nat := s.fld NS_ID.SLICE

/-- The cycle counter (R676), the model's clock. -/
def Slice.now (s : Slice) : Nat := (s.rd Reg.NS_CNT_CYCLE).toNat

/-- The use code of a way (R46, R58). -/
def Slice.wayCode (s : Slice) (w : Nat) : Nat := getBits (s.rd Reg.NS_WAYMAP) (4 * w) 4

/-! ### Interrupts and the error record -/

/-- Raise an interrupt of page 0 (R737). -/
def Slice.irqSet (s : Slice) (f : Fld) : Slice := s.setFld f 1

/-- An event of the error record (R739, R742, R743). -/
structure ErrEv where
  code : Nat
  /-- 0 request, 1 register access, 2 the slice, 3 control message -/
  src : Nat
  priv : Nat
  opc : Nat
  who : Nat
  srcdie : Nat
  ctx : Nat
  gen : Nat
  detail : Nat
  deriving DecidableEq, Repr

/-- The word of NS_ERR_REC0 for an event (R742). -/
def ErrEv.word0 (e : ErrEv) : Word :=
  setBits (setBits (setBits (setBits (setBits (setBits (setBits (setBits 0 56 8 e.code) 54 2 e.src) 52 2 e.priv) 46 6 e.opc)
    38 8 e.who) 35 3 e.srcdie) 23 12 e.ctx) 15 8 e.gen

/-- Enter an event in the error record (R740). -/
def Slice.err (s : Slice) (e : ErrEv) : Slice :=
  let cap := !s.flag NS_ERR_CNT.VALID || s.flag NS_CTL.ERRLATEST
  let s := (s.bump NS_ERR_CNT.COUNT 1).setFld NS_ERR_CNT.LASTCODE e.code
  let s := s.irqSet NS_IRQ_STAT.ERROR
  if cap then
    (((s.wr Reg.NS_ERR_REC0 e.word0).setFld NS_ERR_REC1.DETAIL e.detail).wr Reg.NS_ERR_REC2 (BitVec.ofNat 64 s.now)).setFld
      NS_ERR_CNT.VALID 1
  else s

/-- An event of the slice itself. -/
def Slice.errSlice (s : Slice) (code detail : Nat) : Slice :=
  s.err { code := code, src := 2, priv := 0, opc := 0, who := 0, srcdie := 0, ctx := 0, gen := 0, detail := detail }

/-- An event of a register access: its PRIV, origin and offset. -/
def Slice.errReg (s : Slice) (code off : Nat) (a : CtAcc) : Slice :=
  s.err { code := code, src := 1, priv := a.priv.toNat, opc := 0, who := a.origin.toNat, srcdie := 0, ctx := 0, gen := 0,
          detail := off }

/-- The error codes of R739. -/
abbrev ErrCode.ACCESS : Nat := 0x01
abbrev ErrCode.LOCKED : Nat := 0x02
abbrev ErrCode.PRIV : Nat := 0x03
abbrev ErrCode.REGVAL : Nat := 0x04
abbrev ErrCode.RAWOFF : Nat := 0x05
abbrev ErrCode.ALIASWR : Nat := 0x06
abbrev ErrCode.NOT_HOME : Nat := 0x10
abbrev ErrCode.VT_RANGE : Nat := 0x11
abbrev ErrCode.BAD_CMD : Nat := 0x12
abbrev ErrCode.BAD_FMT : Nat := 0x13
abbrev ErrCode.BAD_OPC : Nat := 0x14
abbrev ErrCode.BAD_ATOM : Nat := 0x15
abbrev ErrCode.QUARWR : Nat := 0x16
abbrev ErrCode.CTMSG : Nat := 0x17
abbrev ErrCode.RECLAIM : Nat := 0x20
abbrev ErrCode.BKUE : Nat := 0x21
abbrev ErrCode.BALANCE : Nat := 0x22

end Sys2Proof.Machine

namespace Sys2Proof

/-! ### The opcodes -/

/-- The number of an atomic in the order of R357. -/
def AOp.num : AOp → Nat
  | .swap => 0 | .cas => 1 | .add => 2 | .smax => 3 | .smin => 4 | .umax => 5 | .umin => 6 | .band => 7 | .bor => 8
  | .bxor => 9 | .fadd => 10 | .lswap => 11 | .lcstore => 12 | .ladd => 13 | .land => 14 | .lor => 15 | .lxor => 16

/-- The code of an opcode (R512). The posted forms run ADD.P to FADD.P, then LADD.P to LXOR.P; SWAP, CAS, LSWAP and LCSTORE
have none. -/
def Op.code : Op → Nat
  | .rd => 0x00 | .rdc => 0x01 | .rdacq => 0x02 | .wr => 0x03 | .wrrel => 0x04 | .fence => 0x05 | .flush => 0x06
  | .crd => 0x07 | .cwr => 0x08 | .vrd => 0x09 | .vwr => 0x0A | .vcrd => 0x0B | .vcwr => 0x0C | .cmdwr => 0x0D
  | .grpctl => 0x0E | .redc => 0x0F | .redn => 0x10 | .cntwr => 0x11 | .sealwr => 0x12 | .accinc => 0x13 | .pxrd => 0x14
  | .pxwr => 0x15 | .tinv => 0x16
  | .atom a false => 0x20 + a.num
  | .atom a true => if a.num < 11 then 0x31 + (a.num - 2) else 0x3A + (a.num - 13)
  | .other c => c.toNat

/-- "Data" in R512: the opcode carries a data line. -/
def Op.hasData : Op → Bool
  | .wr | .wrrel | .cwr | .vwr | .vcwr | .cmdwr | .grpctl | .redc | .redn | .cntwr | .sealwr | .pxwr | .atom _ _ => true
  | _ => false

/-- The vitrine opcodes. -/
def Op.isVt : Op → Bool
  | .vrd | .vwr | .vcrd | .vcwr => true
  | _ => false

/-- The opcodes on which VSP is read (R508). -/
def Op.readsVsp : Op → Bool
  | .atom _ _ | .redc | .redn => true
  | _ => false

/-- The line PA[51:7] of a request. -/
def Req.line (r : Req) : LineAddr := r.pa.extractLsb' 7 45

/-- PA[6:0], the byte offset in the line. -/
def Req.off (r : Req) : Nat := r.pa.toNat % 128

/-- A request addresses the vitrine: a vitrine opcode, or an atomic or arrival with VSP = 1 (R508, R514). -/
def Req.vt (op : Op) (r : Req) : Bool := op.isVt || (op.readsVsp && r.vsp)

/-- The number of a service point. -/
def Point.num : Point → Nat
  | .reply => 0 | .arrayWrite => 1 | .accum => 2 | .update => 3 | .channel => 4 | .outbound => 5

/-- The numbers of the message classes (R534, R538). -/
def LwCls.num : LwCls → Nat
  | .req => 0 | .snp => 1 | .rsp => 2 | .dat => 3 | .mem => 4
def DdCls.num : DdCls → Nat
  | .dreq => 0 | .dinv => 1 | .drsp => 2

/-- The die a request came from over DD. -/
def Via.dd? : Via → Option (BitVec 3)
  | .mq => none
  | .dd d => some d

/-- A request whose latency R485 leaves out by its opcode: sealed writes, release writes and fence sweeps (R493), and flushes. -/
def Op.unmeasured : Op → Bool
  | .sealwr | .wrrel | .fence | .flush => true
  | _ => false

/-- A request of a processor cluster or an Ethernet port, by its identity (R504): an exit slice passes it through (R431). -/
def Req.outside (r : Req) : Bool := 144 ≤ r.reqid.toNat && r.reqid.toNat < 192

/-- The acknowledgement level of an applied write (R434, R525): both levels to a requester of this die and to one from outside, whose two
moments are one, the package level alone to an exit slice, which has given the die level itself. -/
def Req.ackLevel (r : Req) : Nat :=
  match r.via with
  | .mq => 3
  | .dd _ => if r.outside then 3 else 2

/-- A request with every field zero. -/
def Req.zero : Req :=
  { via := .mq, odd := false, peer := none, mask := 0, aux := 0, priv := 0, pcause := 0, pois := 0, cred := false,
    vsp := false, tag := 0, srcdie := 0, reqid := 0, pa := 0, group := 0, fmt := 0, slack := 0xFFF, cls := 0, hint := 1,
    scope := 0, gen := 0, ctx := 0, data := 0 }

end Sys2Proof

namespace Sys2Proof.Machine

/-- The line an access addresses: none for FENCE, SEALWR's and ACCINC's own service, commands and group control. -/
def reqKey (op : Op) (r : Req) : LineKey :=
  if Req.vt op r then .vit (r.pa.extractLsb' 7 17)
  else match op with
    | .fence | .sealwr | .accinc | .cmdwr | .grpctl | .tinv | .other _ => .none
    | _ => .pa r.line

/-- The error-record event of a request (R742, R743). -/
def Slice.errReq (s : Slice) (code : Nat) (op : Op) (r : Req) : Slice :=
  s.err { code := code, src := 0, priv := r.priv.toNat, opc := op.code, who := r.reqid.toNat, srcdie := r.srcdie.toNat,
          ctx := r.ctx.toNat, gen := r.gen.toNat, detail := r.pa.toNat }

/-! ### Programmable counters -/

/-- Counting is frozen (R688). -/
def Slice.frozen (s : Slice) : Bool := s.sys.frz && s.flag NS_CNT_CTL.FRZSTOP

/-- The selector of counter `i` passes an occurrence of event `code` on a pipe and of a class (R678, R679). -/
def Slice.selPasses (s : Slice) (i code : Nat) (pipe : Option Bool) (cls : Option Nat) : Bool :=
  let sel := s.rd (Reg.NS_CNT_SEL i)
  bitAt sel 63 && getBits sel 0 8 == code
    && (match pipe with | none => true | some odd => bitAt sel (16 + b2n odd))
    && (match cls with | none => true | some c => bitAt sel (8 + c))

/-- `n` occurrences of event `code` of R680 in this cycle; `pipe` and `cls` are given for the events marked P and C. They are
added to the counters when the cycle ends. The selectors and the freeze are those of `b`, which hold in this cycle (R727). -/
def Slice.evBy (s b : Slice) (code n : Nat) (pipe : Option Bool) (cls : Option Nat) : Slice :=
  if b.frozen then s
  else { s with meas := { s.meas with
    pmcPend := (List.range 8).zipWith (fun i k => if b.selPasses i code pipe cls then k + n else k) s.meas.pmcPend } }

/-- The same, under the slice's own registers. -/
def Slice.ev (s : Slice) (code n : Nat) (pipe : Option Bool := none) (cls : Option Nat := none) : Slice :=
  s.evBy s code n pipe cls

/-- The events of R680. -/
abbrev Ev.CYCLES : Nat := 0x01
abbrev Ev.SLOT_SERVED : Nat := 0x02
abbrev Ev.SLOT_IDLE : Nat := 0x03
abbrev Ev.SLOT_REPLAY : Nat := 0x04
abbrev Ev.SLOT_STALL : Nat := 0x05
abbrev Ev.RTY_TRACKER : Nat := 0x06
abbrev Ev.RTY_CREDIT : Nat := 0x07
abbrev Ev.RTY_HOLD : Nat := 0x08
abbrev Ev.RTY_DATAPORT : Nat := 0x09
abbrev Ev.RD_HIT : Nat := 0x0A
abbrev Ev.RD_MISS : Nat := 0x0B
abbrev Ev.RD_SECTMISS : Nat := 0x0C
abbrev Ev.COMBINED : Nat := 0x0D
abbrev Ev.NOALLOC : Nat := 0x0E
abbrev Ev.WR_ACCEPT : Nat := 0x0F
abbrev Ev.WRITEBACK : Nat := 0x10
abbrev Ev.CH_RD : Nat := 0x11
abbrev Ev.CH_WR : Nat := 0x12
abbrev Ev.CH_HELD_OCC : Nat := 0x13
abbrev Ev.READ_OCC : Nat := 0x14
abbrev Ev.WRITE_OCC : Nat := 0x15
abbrev Ev.RED_ACK : Nat := 0x16
abbrev Ev.RED_REJ : Nat := 0x17
abbrev Ev.EPI_LINE : Nat := 0x18
abbrev Ev.ATOM_APPLIED : Nat := 0x19
abbrev Ev.ATOM_FAR : Nat := 0x1A
abbrev Ev.DIR_VICTIM : Nat := 0x1B
abbrev Ev.KEEP_DEMOTE : Nat := 0x1C
abbrev Ev.DEAC_DISCARD : Nat := 0x1D
abbrev Ev.DEAC_REVIVE : Nat := 0x1E
abbrev Ev.DEAC_STALE : Nat := 0x1F
abbrev Ev.LOAN_HIT : Nat := 0x20
abbrev Ev.FWD_DD : Nat := 0x21
abbrev Ev.CVT_PART : Nat := 0x22
abbrev Ev.SCALEUP : Nat := 0x23
abbrev Ev.STALE : Nat := 0x24
abbrev Ev.ECC_CE : Nat := 0x25
abbrev Ev.SCRUB_VISIT : Nat := 0x26
abbrev Ev.REPLY_STALL : Nat := 0x27
abbrev Ev.BULK_LINE : Nat := 0x28

/-! ### Provenance -/

/-- Give an entry the next sequence number and keep it, lose it, or let it displace the oldest (R698, R699, R702). -/
def Prov.enter (p : Prov) (mode : Bool) (e : PvEntry) : Prov :=
  let e := { e with seq := p.seqNext }
  let p := { p with seqNext := p.seqNext + 1 }
  if p.held.length < 256 then { p with held := p.held ++ [e] }
  else
    let lost := if p.lost = 0xFFFFFFFF then p.lost else p.lost + 1
    if mode then { p with held := p.held.tail ++ [e], lost := lost } else { p with lost := lost }

/-- The bits of a register whose change by the slice is a register change (R693): those of RW, RWL and W1C fields, and the RO
fields the rule lists. W1S bits are left out: the slice only clears them once taken. -/
def provMask (off : Nat) : Word :=
  let listed : Word :=
    if off = Reg.NS_WAYMAP then BitVec.allOnes 64
    else if off = Reg.NS_PL_STACKLIM then 0x3F
    else if off = Reg.NS_VT_CTL then 0xFFFF
    else if off = Reg.NS_READY then 0xBF
    else if off = Reg.NS_FWIF then 0xFF000300
    else if off = Reg.NS_FWIF_FEAT then 0xFFFF
    else if off = Reg.NS_CH_STAT then 0x7
    else if off = Reg.NS_PORTSTAT then 0x30000000001
    else 0
  match regFields off with
  | some fs => fs.foldl (fun w f => match f.acc with
      | .rw | .rwl | .w1c => setBits w f.lo f.w (2 ^ f.w - 1)
      | _ => w) listed
  | none => 0

/-- The offsets two register files may differ at: those listed in either, rising, none twice. -/
def regKeys (a b : List (Nat × Word)) : List Nat := (b.foldl (fun m p => Sparse.insert m p.1 p.2) a).map (·.1)

/-- The current generation of a context (R615). -/
def genOf (g : List (Nat × BitVec 8)) (ctx : BitVec 12) : BitVec 8 := Sparse.get (fun _ => 0) g ctx.toNat

/-! ### Parts of the state that most meanings change -/

def Slice.modMem (s : Slice) (f : Mem → Mem) : Slice := { s with mem := f s.mem }
def Slice.modPort (s : Slice) (f : Port → Port) : Slice := { s with port := f s.port }
def Slice.modOut (s : Slice) (f : Outs → Outs) : Slice := { s with out := f s.out }
def Slice.modChan (s : Slice) (f : Chan → Chan) : Slice := { s with chan := f s.chan }
def Slice.modBulk (s : Slice) (f : Bulk → Bulk) : Slice := { s with bulk := f s.bulk }
def Slice.modCoh (s : Slice) (f : Coh → Coh) : Slice := { s with coh := f s.coh }
def Slice.modWalk (s : Slice) (f : Walk → Walk) : Slice := { s with walk := f s.walk }
def Slice.modMeas (s : Slice) (f : Meas → Meas) : Slice := { s with meas := f s.meas }
def Slice.modSys (s : Slice) (f : Sys → Sys) : Slice := { s with sys := f s.sys }

/-- A message or a credit has passed a port: the crossings were not empty, so the quiet counts start afresh (R546, R549, R638, R654, R655). -/
def Slice.stir (s : Slice) : Slice := s.modMeas fun q => { q with quiet := 0, drowsy := 0 }

/-- Add to the count at a place of a list, up to a maximum. -/
def addAt (l : List Nat) (i n max : Nat) : List Nat := l.modify i (fun x => min max (x + n))

/-- Take one from the count at a place of a list. -/
def subAt (l : List Nat) (i : Nat) : List Nat := l.modify i (· - 1)

/-- Replace the first element that matches. -/
def replaceFirst {α : Type} (p : α → Bool) (f : α → α) : List α → List α
  | [] => []
  | x :: xs => if p x then f x :: xs else x :: replaceFirst p f xs

/-- Take the first element that matches out. -/
def takeFirst {α : Type} (p : α → Bool) : List α → Option (α × List α)
  | [] => none
  | x :: xs => if p x then some (x, xs) else (takeFirst p xs).map (fun q => (q.1, x :: q.2))

end Sys2Proof.Machine
end

