-- ==== Sys2Proof/Machine/Placement.lean ====
section
/-! DEFINITION. Where a line lives: the HBM window, the host windows, the channel hash, the wing rule, set indices and pipes,
the withdrawn range and the reserve lines of a mapped-out stack (chapter "Where a Line Lives", R566 to R571). -/

namespace Sys2Proof.Machine

/-- The physical address of a line's first byte. -/
def linePA (l : LineAddr) : Nat := l.toNat * 128

/-- The line lies in the HBM window (R20). -/
def Slice.inHbm (s : Slice) (l : LineAddr) : Bool := linePA l / 2 ^ 40 == s.fld NS_PL_HBMBASE.BASE

/-- The line lies in an enabled host window (R60). -/
def Slice.inHostWin (s : Slice) (l : LineAddr) : Bool :=
  (List.range 8).any fun n =>
    let w := s.rd (Reg.NS_HOSTWIN n)
    let g := linePA l / 2 ^ 21
    bitAt w 63 && getBits w 0 31 ≤ g && g ≤ getBits w 32 31

/-- The line is host class: outside the HBM window, or inside a host window (R19, R21, R22). -/
def Slice.isHost (s : Slice) (l : LineAddr) : Bool := !s.inHbm l || s.inHostWin l

/-- XOR of the `k` five-bit groups of `n`, the lowest group first. -/
def xorGroups5 (k n : Nat) : Nat :=
  match k with
  | 0 => 0
  | k + 1 => Nat.xor (n % 32) (xorGroups5 k (n / 32))

/-- The stack-local channel of a stack offset A[35:0] (R23). -/
def chanHash (a : Nat) : Nat := xorGroups5 6 (a / 128 % 2 ^ 29)

/-- The stack number 2 × die + side of an HBM line (R20). -/
def stackOf (l : LineAddr) : Nat := linePA l / 2 ^ 36 % 16

/-- The offset A[35:0] in the stack range. -/
def stackOff (l : LineAddr) : Nat := linePA l % 2 ^ 36

/-- The bay A[35:12] (R24). -/
def bayOf (l : LineAddr) : Nat := stackOff l / 4096

/-- The die and slice whose channel holds an HBM line (R23). -/
def chanSlice (l : LineAddr) : Nat × Nat := (stackOf l / 2, 32 * (stackOf l % 2) + chanHash (stackOff l))

/-- The fold G[8:0] of R31. -/
def wingFold (l : LineAddr) : Nat :=
  let n := l.toNat
  Nat.xor (n % 512) (Nat.xor (n / 2 ^ 9 % 512) (Nat.xor (n / 2 ^ 18 % 512) (Nat.xor (n / 2 ^ 27 % 512) (n / 2 ^ 36 % 512))))

/-- The home of a host-class line (R31). -/
def wingHome (l : LineAddr) : Nat × Nat := (wingFold l / 64, wingFold l % 64)

/-- The die and slice that home a line. -/
def Slice.homeOf (s : Slice) (l : LineAddr) : Nat × Nat := if s.isHost l then wingHome l else chanSlice l

/-- This slice homes the line. -/
def Slice.homes (s : Slice) (l : LineAddr) : Bool := s.homeOf l == (s.die, s.num)

/-- The set index of a line (R25). -/
def setOf (l : LineAddr) : Nat :=
  let pa := linePA l
  pa / 2 ^ 23 % 4 * 2048 + Nat.xor (pa / 2 ^ 12 % 2048) (pa / 2 ^ 25 % 2048)

/-- The way and set of a vitrine line, by offset bits [23:7] (R127). -/
def vtWay (v : BitVec 17) : Nat := v.toNat / 8192
def vtSet (v : BitVec 17) : Nat := v.toNat % 8192

/-- The stack this slice belongs to. -/
def Slice.ownStack (s : Slice) : Nat := 2 * s.die + s.num / 32

/-- This slice's channel number in its stack. -/
def Slice.ownChan (s : Slice) : Nat := s.num % 32

/-- The map-out list, in order of rank (R566). -/
def Slice.mapList (s : Slice) : List Nat :=
  let w := s.rd Reg.NS_CH_MAPLIST
  ((List.range 4).map (fun i => getBits w (8 * i) 5)).take (getBits w 32 3)

/-- This slice's channel is in the map-out list. -/
def Slice.chanListed (s : Slice) : Bool := s.mapList.contains s.ownChan

/-- The line of this slice's stack range is withdrawn (R567). -/
def Slice.withdrawn (s : Slice) (l : LineAddr) : Bool :=
  s.inHbm l && stackOf l == s.ownStack && 32 - s.mapList.length ≤ bayOf l / 2 ^ 19

/-- The HBM line of stack `st` at bay `b` on channel `c`: its A[11:7] is chosen as in R181 so that R23 maps it to `c`. -/
def Slice.bayLine (s : Slice) (st b c : Nat) : LineAddr :=
  let a117 := Nat.xor c (xorGroups5 5 b)
  BitVec.ofNat 45 ((s.fld NS_PL_HBMBASE.BASE * 2 ^ 40 + st * 2 ^ 36 + b * 4096 + a117 * 128) / 128)

/-- The reserve line of bay `b` of this slice's failed channel (R568): its channel and its line. -/
def Slice.reserveLine (s : Slice) (b : Nat) : Nat × LineAddr :=
  let fails := s.mapList
  let rank := (fails.findIdx? (· == s.ownChan)).getD 0
  let live := (List.range 32).filter (fun c => !fails.contains c)
  let ch := live.getD (b / 2 ^ 19) 0
  (ch, s.bayLine s.ownStack ((31 - rank) * 2 ^ 19 + b % 2 ^ 19) ch)

/-- CSTATE codes (R602). -/
abbrev CState.INIT : Nat := 0
abbrev CState.NORMAL : Nat := 1
abbrev CState.RETRAIN : Nat := 2
abbrev CState.LOST : Nat := 3
abbrev CState.MAPPING : Nat := 4
abbrev CState.MAPPED : Nat := 5

def Slice.cstate (s : Slice) : Nat := s.fld NS_CH_STAT.CSTATE

/-- Where memory operations for a line go: host memory for a line outside the HBM window (R385), this slice's own channel, its
reserve line when this slice's channel is mapped out (R569), or a proxy to the slice of the line's channel (R22). -/
def Slice.memTgt (s : Slice) (l : LineAddr) : MemTgt :=
  if !s.inHbm l then .host l
  else if chanSlice l == (s.die, s.num) then
    if s.cstate = CState.MAPPED then
      let (ch, rl) := s.reserveLine (bayOf l)
      .proxy s.die (32 * (s.num / 32) + ch) rl
    else .chan (bayOf l)
  else .proxy (chanSlice l).1 (chanSlice l).2 l

/-- The pipe a request belongs to: true is the odd pipe (R26, R128). -/
def pipeOf (op : Op) (r : Req) : Bool :=
  if Req.vt op r || op == .cmdwr || op == .grpctl then bitAt r.pa 7 else setOf r.line % 2 == 1

/-- The pipe a request of DD enters: R26 and R128 give it by the set or the line. One that names no line enters at the pipe its operand `odd`
names (DESIGN CHOICE, assumption 16). -/
def pipeIn (op : Op) (r : Req) : Bool :=
  match op with
  | .fence | .sealwr | .accinc | .tinv | .other _ => r.odd
  | _ => pipeOf op r

end Sys2Proof.Machine
end

