-- ==== Sys2Proof/Machine/Sched.lean ====
section
/-! DEFINITION. Regulation and the service points (chapter "Bandwidth and Latency Regulation"): remaining slack, the priority
of a grant unit, the choice of a service point, and the credits of every port. -/

namespace Sys2Proof.Machine

/-- The SCLK divisor in force: 1, 2 or 4 (R545). -/
def Slice.sclkDiv (s : Slice) : Nat := 2 ^ s.fld NS_PORTSTAT.DIVNOW

/-- The time from cycle `born` to cycle `hi` in cycles of the undivided clock: `d` is the divisor at `hi`, and the list names those before
it, each with the cycle in which it ended. -/
def spanTime (born hi d : Nat) : List (Nat × Nat) → Nat
  | [] => (hi - born) * d
  | (e, d') :: rest => if e ≤ born then (hi - born) * d else (hi - e) * d + spanTime born e d' rest

/-- Remaining slack (R486, R487): a slack unit is the time of 16 undivided cycles, at every divisor, and whole or begun units of the dwell
are spent. -/
def Slice.slackLeft (s : Slice) (slack born : Nat) : Nat :=
  if slack = 0xFFF then 0xFFF else slack - cdiv (spanTime born s.now s.sclkDiv s.meas.divs) 16

/-- Master `m` is over budget (R481, R482). -/
def Slice.overBudget (s : Slice) (m : Nat) : Bool :=
  s.fld (NS_REG_BUDGET.BUDGET m) != 0xFFFF && s.fld (NS_REG_BUDGET.BUDGET m) ≤ s.fld (NS_REG_BUDGET.USED m)

/-- BASEPRI + BOOST of a class. -/
def Slice.clsPri (s : Slice) (n : Nat) : Nat := s.fld (NS_REG_CLASS.BASEPRI n) + s.fld (NS_REG_CLASS.BOOST n)

/-- The service estimate in force, in SCLK cycles (R488). -/
def Slice.estimate (s : Slice) : EstKind → Nat
  | .hit => s.fld NS_REG_EST.EST_HIT
  | .miss => s.fld NS_REG_EST.EST_MISS
  | .wr => s.fld NS_REG_EST.EST_WR
  | .fwd => s.fld NS_REG_EST.EST_FWD

/-- The service estimate in slack units. -/
def Slice.estUnits (s : Slice) (e : EstKind) : Nat := cdiv (s.estimate e * s.sclkDiv) 16

/-- The requests a unit serves: its own, and the other readers of a combined read. -/
def Job.claims (j : Job) : List Claim := ⟨j.cls, j.master, j.born, j.slack⟩ :: j.others

/-- The margin of R490 is at or below 0. -/
def Slice.claimGone (s : Slice) (e : EstKind) (c : Claim) : Bool :=
  c.slack != 0xFFF && s.slackLeft c.slack c.born ≤ s.estUnits e

/-- The procedure of R490 for one request. -/
def Slice.claimPrio (s : Slice) (e : EstKind) (c : Claim) : Nat :=
  if s.overBudget c.master then 0
  else if c.slack = 0xFFF then s.clsPri c.cls
  else if s.claimGone e c then 15
  else if s.slackLeft c.slack c.born - s.estUnits e ≤ s.fld NS_REG_CTL.URGWIN then max (s.clsPri c.cls) 13
  else s.clsPri c.cls

/-- The priority of a grant unit (R477, R490): the highest of the requests it serves. -/
def Slice.prio (s : Slice) (j : Job) : Nat :=
  match j.kind with
  | .background => s.fld NS_REG_CTL.BGPRI
  | .group => s.clsPri j.cls
  | .request => j.claims.foldl (fun p c => max p (s.claimPrio j.est c)) 0

/-- A message of class `a` may wait for an earlier one of class `b` of its line: a request for every one, an invalidation or snoop for none
that is a request, a response for its own class only; host memory traffic is apart from all (R388, R536, R538). -/
def Lane.waitsFor : Lane → Lane → Bool
  | .req, b => b != .mem
  | .inv, b => b != .mem && b != .req
  | a, b => a == b

/-- A unit keeps its place behind an earlier one: both access one line, and the classes of messages permit it (R476). -/
def Job.waitsFor (later earlier : Job) : Bool :=
  later.key != .none && later.key == earlier.key && later.lane.waitsFor earlier.lane

/-- The priority of each unit with what it inherits from later accesses to its line (R476). -/
def Slice.prios (s : Slice) : List Job → List Nat
  | [] => []
  | j :: js => ((js.filter (·.waitsFor j)).foldl (fun p k => max p (s.prio k)) (s.prio j)) :: s.prios js

/-- Whether each unit is eligible: no earlier access to its line waits at the same point (R476). -/
def eligibles (seen : List Job) : List Job → List Bool
  | [] => []
  | j :: js => (!seen.any j.waitsFor) :: eligibles (j :: seen) js

/-- Of the candidates (index, priority, age), the one of highest priority, the oldest on a tie; or the oldest of all when
`floor`. -/
def pickUnit (floor : Bool) : List (Nat × Nat × Nat) → Option (Nat × Nat × Nat)
  | [] => none
  | c :: cs =>
    match pickUnit floor cs with
    | none => some c
    | some d =>
      if floor then (if d.2.2 < c.2.2 then some d else some c)
      else if c.2.1 < d.2.1 ∨ (c.2.1 = d.2.1 ∧ d.2.2 < c.2.2) then some d else some c

/-- This grant of the point goes to the oldest eligible unit (R475; a FLOORGAP below 2 acts as 2). -/
def Slice.floorTurn (s : Slice) (p : Nat) : Bool :=
  (s.port.grants.getD p 0 + 1) % max 2 (s.fld NS_REG_CTL.FLOORGAP) == 0

/-- The index of the unit a point grants next, of units given as (job, can be granted now). -/
def Slice.choose (s : Slice) (p : Nat) (us : List (Job × Bool)) : Option Nat :=
  let jobs := us.map (·.1)
  let cands := ((List.range us.length).zip ((s.prios jobs).zip ((eligibles [] jobs).zip us))).filterMap
    fun (i, pr, el, u) => if el && u.2 then some (i, pr, u.1.born) else none
  (pickUnit (s.floorTurn p) cands).map (·.1)

/-- Count a grant of a point. -/
def Slice.granted (s : Slice) (p : Nat) : Slice := s.modPort fun q => { q with grants := addAt q.grants p 1 (2 ^ 64) }

/-- A claim whose margin is gone makes its unit urgent. -/
def Slice.urgentBy (s : Slice) (j : Job) : Option Claim :=
  if j.kind != .request || j.urgent then none
  else j.claims.find? fun c => !s.overBudget c.master && s.claimGone j.est c

/-- A unit is looked at: URGENT counts it once, when its priority has become 15 for its margin (R490). The priority is evaluated in `b`, with
the register values that hold in this cycle (R727). -/
def Slice.lookBy (s b : Slice) (j : Job) : Slice × Job :=
  match b.urgentBy j with
  | some c => (s.bump (NS_REG_SLKEVT.URGENT c.cls) 1, { j with urgent := true })
  | none => (s, j)

/-- The look at a unit that is granted. -/
def Slice.urgentCount (s : Slice) (j : Job) : Slice := (s.lookBy s j).1

/-- Look at every unit of a list. -/
def Slice.lookJobs {α : Type} (s b : Slice) (get : α → Job) (put : α → Job → α) (l : List α) : Slice × List α :=
  l.foldr (fun a p => let (s, j) := p.1.lookBy b (get a); (s, put a j :: p.2)) (s, [])

/-- The point at which a request that is to be served here waits (R472): writes at the array write port, atomics at the update unit. -/
def Trk.point (t : Trk) : Option Point :=
  if t.stage != .queued && t.stage != .ready then none
  else match t.op with
    | .wr | .wrrel | .cntwr | .cwr | .vwr | .vcwr => some .arrayWrite
    | .atom _ _ => some .update
    | _ => none

/-- The kind of estimate of a request (R488); `vt`: it is a vitrine access. -/
def estOf (op : Op) (vt miss fwd : Bool) : EstKind :=
  if fwd then .fwd
  else match op with
    | .vrd | .vwr | .vcrd | .vcwr => .hit
    | .rd | .rdc | .rdacq | .crd | .pxrd | .atom _ _ => if miss && !vt then .miss else .hit
    | _ => .wr

/-- The grant unit of a request. -/
def Slice.reqJob (_s : Slice) (op : Op) (r : Req) (born : Nat) (miss fwd : Bool) : Job :=
  { kind := .request, cls := r.cls.toNat, master := r.reqid.toNat, born := born, slack := r.slack.toNat,
    est := estOf op (Req.vt op r) miss fwd, key := reqKey op r }

/-- The line of a tracker comes or goes over LCL (R385, R488). -/
def Slice.overLcl (s : Slice) (t : Trk) : Bool :=
  (t.miss || t.stage == .drain) && (match t.key with
    | .pa l => s.memTgt l == .host l
    | _ => false)

/-- A grant unit of a tracker's work; each is counted in URGENT by itself (R490). -/
def Slice.trkJob (s : Slice) (t : Trk) : Job :=
  { s.reqJob t.op t.req t.born t.miss (t.stage == .fwd || t.stage == .fwdWait || s.overLcl t) with
    key := t.key
    others := t.joined.map fun q => ⟨q.1.cls.toNat, q.1.reqid.toNat, q.2, q.1.slack.toNat⟩ }

/-- The unit of a tracker at the point it waits at, with its mark of R490. -/
def Slice.pointJob (s : Slice) (t : Trk) : Job := { s.trkJob t with urgent := t.urgent }

/-- A background unit (R477). -/
def Slice.bgJob (s : Slice) (key : LineKey) : Job :=
  { kind := .background, cls := 0, master := 0, born := s.now, slack := 0xFFF, est := .wr, key := key }

/-- A unit of a group's internal work (R477). -/
def Slice.grpJob (s : Slice) (cls : Nat) (key : LineKey) : Job :=
  { kind := .group, cls := cls, master := 0, born := s.now, slack := 0xFFF, est := .wr, key := key }

end Sys2Proof.Machine
end

