-- ==== Sys2Proof/Machine/Storage.lean ====
section
/-! DEFINITION. Tag entries, the data tier and its error correction (R63 to R66, R578 to R600): what a slice keeps about each
line, and how a line's bytes are read, checked, poisoned and written. -/

namespace Sys2Proof.Machine

/-- The canonical form of the arrays: in each, keys strictly rise and no entry equals what an unlisted key reads as, which is 0. -/
def Mem.wf (m : Mem) : Bool :=
  Sparse.wf (fun _ => 0) m.tier && Sparse.wf (fun _ => 0) m.chk && Sparse.wf (fun _ => 0) m.tags && Sparse.wf (fun _ => 0) m.glw &&
  Sparse.wf (fun _ => 0) m.loan && Sparse.wf (fun _ => 0) m.dir && Sparse.wf (fun _ => 0) m.bkchk && Sparse.wf (fun _ => 0) m.pred

/-! ### Tag entries (R63) -/

def tagTAG (t : Word) : LineAddr := BitVec.ofNat 45 (getBits t 0 45)
def tagSV (t : Word) : Nat := getBits t 45 4
def tagSD (t : Word) : Nat := getBits t 49 4
def tagRET (t : Word) : Nat := getBits t 53 2
def tagAGE (t : Word) : Nat := getBits t 55 2
def tagQUAR (t : Word) : Bool := bitAt t 57
def tagGRP (t : Word) : Bool := bitAt t 58
def tagBUSY (t : Word) : Bool := bitAt t 59

def setSV (t : Word) (v : Nat) : Word := setBits t 45 4 v
def setSD (t : Word) (v : Nat) : Word := setBits t 49 4 v
def setRET (t : Word) (v : Nat) : Word := setBits t 53 2 v
def setAGE (t : Word) (v : Nat) : Word := setBits t 55 2 v
def setQUAR (t : Word) (b : Bool) : Word := setBits t 57 1 (b2n b)
def setGRP (t : Word) (b : Bool) : Word := setBits t 58 1 (b2n b)
def setBUSY (t : Word) (b : Bool) : Word := setBits t 59 1 (b2n b)

/-- Retention classes (R63). -/
abbrev Ret.KEEP : Nat := 0
abbrev Ret.NORMAL : Nat := 1
abbrev Ret.EVFIRST : Nat := 2
abbrev Ret.DEAD : Nat := 3

/-- Use codes of a way. -/
abbrev Use.L : Nat := 0
abbrev Use.O : Nat := 1
abbrev Use.H : Nat := 2
abbrev Use.V : Nat := 3
abbrev Use.X : Nat := 4

/-- The index of a way of a set in the tag, group-line and loan arrays. -/
def wsIx (way set : Nat) : Nat := way * 8192 + set

def Mem.tag (m : Mem) (way set : Nat) : Word := Sparse.get (fun _ => 0) m.tags (wsIx way set)
def Mem.setTag (m : Mem) (way set : Nat) (t : Word) : Mem :=
  { m with tags := Sparse.set (fun _ => 0) m.tags (wsIx way set) t }
def Mem.glwAt (m : Mem) (way set : Nat) : BitVec 24 := Sparse.get (fun _ => 0) m.glw (wsIx way set)
def Mem.setGlw (m : Mem) (way set : Nat) (v : BitVec 24) : Mem :=
  { m with glw := Sparse.set (fun _ => 0) m.glw (wsIx way set) v }
def Mem.loanAt (m : Mem) (way set : Nat) : BitVec 8 := Sparse.get (fun _ => 0) m.loan (wsIx way set)
def Mem.setLoan (m : Mem) (way set : Nat) (v : BitVec 8) : Mem :=
  { m with loan := Sparse.set (fun _ => 0) m.loan (wsIx way set) v }

/-- The index of a directory word (R375, R376). -/
def dirIx (set entry word : Nat) : Nat := (set * 8 + entry) * 2 + word
def Mem.dirWord (m : Mem) (set entry word : Nat) : Word := Sparse.get (fun _ => 0) m.dir (dirIx set entry word)
def Mem.setDirWord (m : Mem) (set entry word : Nat) (v : Word) : Mem :=
  { m with dir := Sparse.set (fun _ => 0) m.dir (dirIx set entry word) v }

def Slice.tag (s : Slice) (way set : Nat) : Word := s.mem.tag way set
def Slice.setTag (s : Slice) (way set : Nat) (t : Word) : Slice := s.modMem (·.setTag way set t)

/-- Make an entry invalid, keeping QUAR (R66). -/
def Slice.clearEntry (s : Slice) (way set : Nat) : Slice :=
  s.modMem fun m => ((m.setTag way set (setQUAR 0 (tagQUAR (m.tag way set)))).setLoan way set 0).setGlw way set 0

/-- The line of the entry is being written back and leaves then (R83). -/
def Slice.evicting (s : Slice) (way set : Nat) : Bool := s.chan.evicts.contains (way, set)

/-- The line of the entry is being invalidated and waits for its loan copies (R40, R581). -/
def Slice.dying (s : Slice) (way set : Nat) : Bool := s.walk.dying.contains (way, set)

/-- The way is draining (R49). -/
def Slice.draining (s : Slice) (w : Nat) : Bool := bitAt (s.rd Reg.NS_WAYCHG) (16 + w)

/-- The ways of a use, lowest first. -/
def Slice.waysOf (s : Slice) (use : Nat) : List Nat := (List.range 16).filter (fun w => s.wayCode w == use)

/-- Safe mode (R651). -/
def Slice.safe (s : Slice) : Bool := s.flag NS_READY.SAFE

/-- The slice has a way of the use that is not draining (R45, R46, R52); in safe mode it has L ways only (R47). -/
def Slice.hasUse (s : Slice) (use : Nat) : Bool := (use == Use.L || !s.safe) && (s.waysOf use).any (fun w => !s.draining w)

/-- A way that lies in V ways for a check (R756). -/
def Slice.isV (s : Slice) (w : Nat) : Bool := s.wayCode w == Use.V && !s.draining w
def Slice.isX (s : Slice) (w : Nat) : Bool := s.wayCode w == Use.X && !s.draining w

/-- The way that holds a line in a use, if it is resident (R67, R81; draining ways still hit: R49) and not on its way out. In safe
mode only L ways are looked up (R47). -/
def Slice.lookup (s : Slice) (use : Nat) (l : LineAddr) : Option Nat :=
  if s.safe && use != Use.L then none
  else (s.waysOf use).find? (fun w => tagSV (s.tag w (setOf l)) != 0 && tagTAG (s.tag w (setOf l)) == l && !s.evicting w (setOf l) &&
    !s.dying w (setOf l))

/-- A request works on a resident line without its entry's BUSY bit: loan copies are being invalidated, a flush or a write-through waits
for the channel, or an atomic is in progress, its snoops included (R63, R116). -/
def Slice.heldLine (s : Slice) (l : LineAddr) : Bool :=
  s.port.invs.any (fun p => p.1 == l && p.2 != 0) ||
    s.port.trks.any fun t => t.key == .pa l &&
      (t.stage == .drain || (t.kind == .atom && t.stage != .queued))

/-- BUSY of an entry as R63 defines it: the stored word has the bit for fills and for lines that leave. -/
def Slice.busyAt (s : Slice) (way set : Nat) : Bool :=
  let t := s.tag way set
  tagBUSY t || (tagSV t != 0 && s.wayCode way ≤ Use.H && s.heldLine (tagTAG t))

/-- The tag word of an entry, BUSY included. -/
def Slice.tagWord (s : Slice) (way set : Nat) : Word := setBUSY (s.tag way set) (s.busyAt way set)

/-- The use that may hold a line at this slice: H for a host-class line, L at the home, O at an exit slice (R44). -/
def Slice.useOf (s : Slice) (l : LineAddr) : Nat :=
  if s.isHost l then Use.H else if s.homes l then Use.L else Use.O

/-! ### The data tier -/

/-- The tier address of a byte (R127, R578). -/
def tierIx (way set b : Nat) : Nat := way * 2 ^ 20 + set * 128 + b

def Mem.byte (m : Mem) (a : Nat) : Byte := Sparse.get (fun _ => 0) m.tier a
def Mem.setByte (m : Mem) (a : Nat) (v : Byte) : Mem := { m with tier := Sparse.set (fun _ => 0) m.tier a v }
def Mem.chkAt (m : Mem) (wi : Nat) : BitVec 7 := Sparse.get (fun _ => 0) m.chk wi
def Mem.setChk (m : Mem) (wi : Nat) (v : BitVec 7) : Mem := { m with chk := Sparse.set (fun _ => 0) m.chk wi v }

/-- Byte `b` of a line. -/
def lineByte (d : LineData) (b : Nat) : Byte := d.extractLsb' (8 * b) 8

/-- A line from its bytes. -/
def lineOf (f : Nat → Byte) (n : Nat) : LineData :=
  (List.range n).foldl (fun acc b => acc ||| (((f b).setWidth 1024) <<< (8 * b))) 0

/-- The 128 bytes of a way of a set. -/
def Mem.readLine (m : Mem) (way set : Nat) : LineData := lineOf (fun b => m.byte (tierIx way set b)) 128

/-- Store the bytes of `d` that `mask` selects. Their words' check bits become the correct ones. -/
def Mem.writeLine (m : Mem) (way set : Nat) (d : LineData) (mask : BitVec 128) : Mem :=
  (List.range 128).foldl (fun m b =>
    if bitAt mask b then (m.setByte (tierIx way set b) (lineByte d b)).setChk (tierIx way set b / 4) 0 else m) m

/-- The mask of the four bytes of word `w`, of the 32 bytes of sector `s`, of the sectors in `ss`. -/
def sectorMask (sec : Nat) : BitVec 128 := (0xFFFFFFFF : BitVec 128) <<< (32 * sec)
def sectorsMask (ss : Nat) : BitVec 128 :=
  (List.range 4).foldl (fun m i => if ss.testBit i then m ||| sectorMask i else m) 0
def fullMask : BitVec 128 := BitVec.allOnes 128

/-- The sectors a mask touches, and those it covers whole. -/
def touched (mask : BitVec 128) : Nat :=
  (List.range 4).foldl (fun n i => if mask &&& sectorMask i = 0 then n else n + 2 ^ i) 0
def covered (mask : BitVec 128) : Nat :=
  (List.range 4).foldl (fun n i => if mask &&& sectorMask i = sectorMask i then n + 2 ^ i else n) 0

/-- `new` where `mask` selects, else `old`. -/
def mergeLine (old new : LineData) (mask : BitVec 128) : LineData :=
  lineOf (fun b => if bitAt mask b then lineByte new b else lineByte old b) 128

/-- The poison cause of sector `sec` in a 12-bit cause field; 0 for none (R523). -/
def causeAt (pz : BitVec 12) (sec : Nat) : Nat := getBits pz (3 * sec) 3
def setCause (pz : BitVec 12) (sec c : Nat) : BitVec 12 := setBits pz (3 * sec) 3 c

/-- Poison causes (R523). -/
abbrev Cause.ECC : Nat := 1
abbrev Cause.UNINIT : Nat := 2
abbrev Cause.QUAR : Nat := 3
abbrev Cause.DEADAGENT : Nat := 4
abbrev Cause.NOWIN : Nat := 5
abbrev Cause.MAPOUT : Nat := 6
abbrev Cause.EXTERN : Nat := 7

/-- The same cause in every sector. -/
def allCause (c : Nat) : BitVec 12 := BitVec.ofNat 12 (c * 0x249)

/-- The causes a request's data carries: EXTERN where POIS is 1 with cause None (R524). -/
def reqCauses (pois : BitVec 4) (pcause : BitVec 12) : BitVec 12 :=
  (List.range 4).foldl (fun z i =>
    if bitAt pois i then setCause z i (if causeAt pcause i = 0 then Cause.EXTERN else causeAt pcause i) else z) 0

/-- The POIS bits of causes. -/
def poisBits (pz : BitVec 12) : BitVec 4 :=
  BitVec.ofNat 4 ((List.range 4).foldl (fun n i => if causeAt pz i = 0 then n else n + 2 ^ i) 0)

/-- `a` with every cause of `b` instead of its own (R600). -/
def addCauses (a b : BitVec 12) : BitVec 12 :=
  (List.range 4).foldl (fun z i => if causeAt b i = 0 then z else setCause z i (causeAt b i)) a

/-- The causes with which the sectors `ss`, fetched from memory, are delivered while BKLOSS is 1 (R600). -/
def Slice.lossOf (s : Slice) (ss : Nat) : BitVec 12 :=
  if s.flag NS_ECC_STAT.BKLOSS then
    (List.range 4).foldl (fun z i => if ss.testBit i then setCause z i Cause.ECC else z) 0
  else 0

/-! ### Error correction (R578 to R583, R589, R590, R597, R598) -/

/-- What a stored word decodes to (R578). -/
inductive WordDec where
  | good
  | single (bit : Nat)
  | poison
  | bad
  deriving DecidableEq, Repr

/-- `n` of the columns `cs`, none twice, as `pick` chooses them. -/
def takeColumns (pick : Nat → Nat) : Nat → List Nat → List Nat
  | 0, _ => []
  | n + 1, cs =>
    let c := cs.getD (pick n % cs.length) 0
    c :: takeColumns pick n (cs.erase c)

/-- How many of the lowest `n` bits of a number are 1. -/
def bitCount (n k : Nat) : Nat := ((List.range n).filter k.testBit).length

/-- The columns that a check matrix of `n` rows may give a data bit: of odd weight, none of a check bit, and in the code of the data tier
not 0x7F (R578). -/
def columnsOf (n : Nat) : List Nat :=
  (List.range (2 ^ n)).filter fun k => bitCount n k % 2 == 1 && bitCount n k != 1 && !(n == 7 && k == 0x7F)

/-- The columns of the data bits of the SECDED (39,32) code; the choice among those permitted is free (assumption 1). -/
def dataCols : List Nat := takeColumns Config.dataPick 32 (columnsOf 7)

/-- The columns of the data bits of the SECDED (72,64) code of bookkeeping words (R597; assumption 1). -/
def bkCols : List Nat := takeColumns Config.bkPick 64 (columnsOf 8)

def dataCol (i : Nat) : BitVec 7 := BitVec.ofNat 7 (dataCols.getD i 0)
def bkCol (i : Nat) : BitVec 8 := BitVec.ofNat 8 (bkCols.getD i 0)

/-- The column of bit `i` of a stored data word: a data bit's column, or a check bit's unit column (DEDUCED: the check bits are
stored as given, so an error in check bit `j` shows as syndrome 2^j). -/
def dataColumn (i : Nat) : BitVec 7 := if i < 32 then dataCol i else (1 : BitVec 7) <<< (i - 32)

/-- The SECDED (39,32) decoding of a word from its syndrome. -/
def decData (syn : BitVec 7) : WordDec :=
  if syn = 0 then .good
  else if syn = 0x7F then .poison
  else match (List.range 39).find? (fun i => dataColumn i == syn) with
    | some i => .single i
    | none => .bad

/-- The SECDED (72,64) decoding of a bookkeeping word. -/
def bkColumn (i : Nat) : BitVec 8 := if i < 64 then bkCol i else (1 : BitVec 8) <<< (i - 64)
def decBk (syn : BitVec 8) : WordDec :=
  if syn = 0 then .good
  else match (List.range 72).find? (fun i => bkColumn i == syn) with
    | some i => .single i
    | none => .bad

/-- The correct check bits of a data word and of a bookkeeping word. -/
def chkData (d : BitVec 32) : BitVec 7 :=
  (List.range 32).foldl (fun c i => if bitAt d i then c ^^^ dataCol i else c) 0
def chkBk (d : Word) : BitVec 8 :=
  (List.range 64).foldl (fun c i => if bitAt d i then c ^^^ bkCol i else c) 0

/-- The tier word index of word `w` of a line, and the word. -/
def wordIx (way set w : Nat) : Nat := tierIx way set 0 / 4 + w
def Mem.word (m : Mem) (wi : Nat) : BitVec 32 :=
  (List.range 4).foldl (fun acc b => acc ||| (((m.byte (4 * wi + b)).setWidth 32) <<< (8 * b))) 0
def Mem.setWord (m : Mem) (wi : Nat) (v : BitVec 32) : Mem :=
  (List.range 4).foldl (fun m b => m.setByte (4 * wi + b) (v.extractLsb' (8 * b) 8)) m

/-- Store poison in a sector (R579): the cause in word 0, zero elsewhere, every word's check bits XORed with 0x7F. -/
def Mem.poisonSector (m : Mem) (way set sec cause : Nat) : Mem :=
  (List.range 8).foldl (fun m i =>
    let wi := wordIx way set (8 * sec + i)
    (m.setWord wi (if i = 0 then BitVec.ofNat 32 (cause % 8) else 0)).setChk wi 0x7F) m

/-- A sector holds stored poison; its cause (a stored cause of 0 is delivered as EXTERN: R524). -/
def Mem.storedPoison (m : Mem) (way set sec : Nat) : Nat :=
  if (List.range 8).any (fun i => m.chkAt (wordIx way set (8 * sec + i)) == 0x7F) then
    let c := (m.word (wordIx way set (8 * sec))).toNat % 8
    if c = 0 then Cause.EXTERN else c
  else 0

/-- The stored poison causes of the sectors in `ss`. -/
def Mem.poisonOf (m : Mem) (way set ss : Nat) : BitVec 12 :=
  (List.range 4).foldl (fun z i => if ss.testBit i then setCause z i (m.storedPoison way set i) else z) 0

/-- Count a correction in the log (R590). KIND 0 data, 1 tag, 2 directory. -/
def Slice.logCorrection (s : Slice) (kind way set word bit : Nat) : Slice :=
  let same := fun (w : Word) => bitAt w 63 && getBits w 61 2 == kind && getBits w 18 4 == way && getBits w 5 13 == set
    && getBits w 0 5 == word
  let entry := fun i => s.rd (Reg.NS_ECC_CLOG i)
  let ix := List.range 16
  match ix.find? (fun i => same (entry i)) with
  | some i =>
    let rep := satAdd 0xFF (getBits (entry i) 48 8) 1
    let s := s.wr (Reg.NS_ECC_CLOG i) (setBits (setBits (entry i) 48 8 rep) 35 7 bit)
    if rep = s.fld NS_ECC_CTL.REPTH then (s.setFld NS_ECC_STAT.REPINT 1).irqSet NS_IRQ_STAT.ECC else s
  | none =>
    let low := ix.foldl (fun best i => if getBits (entry i) 48 8 < getBits (entry best) 48 8 then i else best) 0
    let i := (ix.find? (fun i => !bitAt (entry i) 63)).getD low
    let w : Word := setBits (setBits (setBits (setBits (setBits (setBits 0 63 1 1) 61 2 kind) 35 7 bit) 18 4 way) 5 13 set)
      0 5 word
    let s := s.wr (Reg.NS_ECC_CLOG i) w
    if s.fld NS_ECC_CTL.REPTH = 0 then (s.setFld NS_ECC_STAT.REPINT 1).irqSet NS_IRQ_STAT.ECC else s

/-- The correction counter of a 64 KiB region (R589). -/
def regionFld (way set : Nat) : Fld :=
  let r := 16 * way + set / 512
  ⟨Reg.NS_ECC_REG (r / 8), 8 * (r % 8), 8⟩

/-- Correct a single-bit error of a data word in the access that met it (R580). -/
def Slice.fixWord (s : Slice) (way set w bit : Nat) : Slice :=
  let wi := wordIx way set w
  let s := s.modMem fun m =>
    let m := if bit < 32 then m.setWord wi (m.word wi ^^^ ((1 : BitVec 32) <<< bit)) else m
    m.setChk wi 0
  let s := ((s.bump NS_ECC_EVT.DATACE 1).setFld NS_ECC_STAT.DATACE 1).bump (regionFld way set) 1
  (s.logCorrection 0 way set w bit).ev Ev.ECC_CE 1

/-- Check one word of a line, correcting it (R580); the second part counts an uncorrectable word. -/
def Slice.checkWord (s : Slice) (way set w : Nat) : Slice × Nat :=
  match decData (s.mem.chkAt (wordIx way set w)) with
  | .good | .poison => (s, 0)
  | .single b => (s.fixWord way set w b, 0)
  | .bad => (s, 1)

/-- Check the words of a sector: the slice with corrections made, and how many words are uncorrectable. -/
def Slice.checkSector (s : Slice) (way set sec : Nat) : Slice × Nat :=
  (List.range 8).foldl (fun (p : Slice × Nat) i =>
    let (s, k) := p.1.checkWord way set (8 * sec + i)
    (s, p.2 + k)) (s, 0)

/-- The access of R580 to R582 to the sectors `ss` of a way of a set: corrects, poisons an uncorrectable dirty sector or a sector
of a V or X way, and answers false when a clean sector of an L, O or H line was uncorrectable, in which case the caller
invalidates the line and serves the access as a miss. -/
def Slice.checkLine (s : Slice) (way set ss : Nat) (vx : Bool) : Slice × Bool :=
  if s.mem.chk.isEmpty then (s, true)
  else (List.range 4).foldl (fun (p : Slice × Bool) sec =>
    if !ss.testBit sec then p
    else
      let (s, bad) := p.1.checkSector way set sec
      if bad = 0 then (s, p.2)
      else
        let s := (s.bump NS_ECC_EVT.DATAUE bad).setFld NS_ECC_STAT.DATAUE 1
        if vx || (tagSD (s.tag way set)).testBit sec then (s.modMem (·.poisonSector way set sec Cause.ECC), p.2)
        else (s, false)) (s, true)

/-- The bookkeeping deviation of a word; kinds 0 tag, 1 group-line word, 2 loan vector, 3 directory. -/
def bkIx (kind ix : Nat) : Nat := kind * 2 ^ 20 + ix
def Mem.bkAt (m : Mem) (kind ix : Nat) : BitVec 8 := Sparse.get (fun _ => 0) m.bkchk (bkIx kind ix)
def Mem.setBk (m : Mem) (kind ix : Nat) (v : BitVec 8) : Mem :=
  { m with bkchk := Sparse.set (fun _ => 0) m.bkchk (bkIx kind ix) v }

/-- Flip bit `b` of a bookkeeping word. -/
def Mem.flipBk (m : Mem) (kind ix b : Nat) : Mem :=
  match kind with
  | 0 => { m with tags := Sparse.set (fun _ => 0) m.tags ix (Sparse.get (fun _ => 0) m.tags ix ^^^ ((1 : Word) <<< b)) }
  | 1 => { m with glw := Sparse.set (fun _ => 0) m.glw ix (Sparse.get (fun _ => 0) m.glw ix ^^^ ((1 : BitVec 24) <<< b)) }
  | 2 => { m with loan := Sparse.set (fun _ => 0) m.loan ix (Sparse.get (fun _ => 0) m.loan ix ^^^ ((1 : BitVec 8) <<< b)) }
  | _ => { m with dir := Sparse.set (fun _ => 0) m.dir ix (Sparse.get (fun _ => 0) m.dir ix ^^^ ((1 : Word) <<< b)) }

/-- The parts of a slice. -/
def Slice.parts (s : Slice) : Parts :=
  { regs := s.regs, mem := s.mem, port := s.port, out := s.out, chan := s.chan, grps := s.grps, grpHeld := s.grpHeld, bulk := s.bulk,
    holds := s.holds, coh := s.coh, walk := s.walk, meas := s.meas }

/-- An uncorrectable bookkeeping error (R598): flags, event and interrupt now, and then at once the reset of the block domain, which starts
from the slice as it is here. The event's detail is the way and set of the failing entry (R743). -/
def Slice.bkFailed (s : Slice) (way set : Nat) : Slice :=
  if s.sys.bkFail then s
  else
    let s := (s.setFld NS_ECC_STAT.BKUE 1).setFld NS_ECC_STAT.BKLOSS 1
    let s := (s.errSlice ErrCode.BKUE (way * 2 ^ 13 + set)).irqSet NS_IRQ_STAT.ECC
    s.modSys fun y => { y with bkFail := true, bkSnap := some s.parts }

/-- Read a bookkeeping word through its check bits (R597, R598). -/
def Slice.checkBkWord (s : Slice) (kind ix way set word : Nat) : Slice :=
  match decBk (s.mem.bkAt kind ix) with
  | .good => s
  | .single b =>
    let s := s.modMem fun m => (if b < 64 then m.flipBk kind ix b else m).setBk kind ix 0
    let s := (s.bump NS_ECC_EVT.BKCE 1).setFld NS_ECC_STAT.BKCE 1
    (s.logCorrection (if kind = 3 then 2 else 1) way set word b).ev Ev.ECC_CE 1
  | _ => s.bkFailed way set

/-- Read the tag entries, group-line words and loan vectors of a set. -/
def Slice.checkSetTags (s : Slice) (set : Nat) : Slice :=
  if s.mem.bkchk.isEmpty then s
  else (List.range 16).foldl (fun s w =>
    ((s.checkBkWord 0 (wsIx w set) w set 0).checkBkWord 1 (wsIx w set) w set 0).checkBkWord 2 (wsIx w set) w set 0) s

/-- A directory entry breaks R377 or has a reserved STATE (R378). -/
def dirBroken (w0 w1 : Word) : Bool :=
  let st := getBits w0 61 3
  let ow := getBits w0 56 5
  let sh := getBits w1 0 32
  match st with
  | 0 => sh != 0 || ow != 0
  | 1 => sh == 0 || ow != 0
  | 2 => sh != 2 ^ ow
  | 3 => sh != 0 || ow != 0
  | _ => true

/-- Read the eight directory entries of a set (R378, R597). -/
def Slice.checkSetDir (s : Slice) (set : Nat) : Slice :=
  if s.mem.bkchk.isEmpty && s.mem.dir.isEmpty then s
  else (List.range 8).foldl (fun s e =>
    let s := (s.checkBkWord 3 (dirIx set e 0) e set 0).checkBkWord 3 (dirIx set e 1) e set 1
    if dirBroken (s.mem.dirWord set e 0) (s.mem.dirWord set e 1) then s.bkFailed e set else s) s

/-! ### Writing a line's bytes -/

/-- Store a request's bytes in a resident way (R72, R524, R583): `pz` are the causes of the data's sectors. A poisoned data sector
the mask touches makes the stored sector stored poison; a write that covers part of a poisoned sector leaves it poisoned and
is counted once in POISWR. A converting write (`cv`) stores its own cause there too (R340 governs it). -/
def Slice.storeBytes (s : Slice) (way set : Nat) (d : LineData) (mask : BitVec 128) (pz : BitVec 12) (cv : Bool := false) : Slice :=
  let hit := touched mask
  let full := covered mask
  let (m, lost) := (List.range 4).foldl (fun (p : Mem × Bool) sec =>
    if !hit.testBit sec then p
    else
      let (m, lost) := p
      if m.storedPoison way set sec != 0 && !full.testBit sec then
        (if cv && causeAt pz sec != 0 then m.poisonSector way set sec (causeAt pz sec) else m, true)
      else if causeAt pz sec != 0 then (m.poisonSector way set sec (causeAt pz sec), lost)
      else (m.writeLine way set d (mask &&& sectorMask sec), lost)) (s.mem, false)
  let s := ({ s with mem := m } : Slice).granted Point.arrayWrite.num
  if lost then s.bump NS_ECC_EVT2.POISWR 1 else s

/-- Put fetched data into the sectors `ss` of a way (R68, R584). -/
def Slice.fillSectors (s : Slice) (way set : Nat) (d : LineData) (pz : BitVec 12) (ss : Nat) : Slice :=
  (s.modMem fun m => (List.range 4).foldl (fun m sec =>
    if !ss.testBit sec then m
    else if causeAt pz sec != 0 then m.poisonSector way set sec (causeAt pz sec)
    else m.writeLine way set d (sectorMask sec)) m).granted Point.arrayWrite.num

end Sys2Proof.Machine
end

