-- ==== Sys2Proof/Machine/Emit.lean ====
section
/-! DEFINITION. What leaves the slice: issue entries, requests on MO and DD, messages on LW and DD, reply beats, and memory
operations on the channel side (chapters "The Slice Boundary" and "Channel Side"). -/

namespace Sys2Proof.Machine

/-! ### Issue entries (R620, R621) -/

def Outs.epochOf (o : Outs) (e : Nat) : BitVec 3 := Sparse.get (fun _ => 0) o.epochs e
def Outs.entryOpen (o : Outs) (e : Nat) : Bool := o.issue.any (fun i => i.entry == e)
/-- The lowest free issue entry. -/
def Outs.freeEntry (o : Outs) : Option Nat := (List.range 512).find? (fun e => !o.entryOpen e)
/-- Advance an entry's epoch. -/
def Outs.advance (o : Outs) (e : Nat) : Outs :=
  { o with epochs := Sparse.set (fun _ => 0) o.epochs e (o.epochOf e + 1) }

/-- The open, not orphaned entry a reply's tag names (R620). -/
def Outs.answering (o : Outs) (tag : BitVec 12) : Option Issue :=
  o.issue.find? (fun i => i.entry == tag.toNat % 512 && i.epoch == tag.extractLsb' 9 3)

/-! ### Message classes and credits -/

/-- The LW class of a message (R387, R536), in the order of `LwCls`. -/
def LwName.cls : LwName → Nat
  | .snpS | .snpX | .snpInv | .snpHome => 1
  | .goS | .goX | .retry | .credit | .wbGo | .wbStale | .evcGo | .atomAck | .nackDead => 2
  | .dataS | .dataX | .atomRes => 3
  | .memRd | .memWr => 4

/-- The credit a message spends: a place in one of three groups of counters. -/
inductive Pool where
  | mo
  | dd (i : Nat)
  | lw (i : Nat)
  deriving DecidableEq, Repr

/-- What a message may wait for (R388, R536, R538). -/
def OutMsg.lane : OutMsg → Lane
  | .req _ => .req
  | .dd (.inv _ _) => .inv
  | .dd (.confirm _ _) | .rep _ => .rsp
  | .lw m => match m.name.cls with
    | 1 => .inv
    | 2 => .lrsp
    | 3 => .dat
    | _ => .mem

def OutMsg.pool : OutMsg → Pool
  | .req q => if q.dd then .dd (q.die * 3) else .mo
  | .lw m => .lw m.name.cls
  | .dd (.inv d _) => .dd (d * 3 + 1)
  | .dd (.confirm d _) => .dd (d * 3 + 2)
  | .rep b => .dd ((b.dd.getD 0).toNat * 3 + 2)

/-- Credits held in a pool (R527, R528, R535, R539). -/
def Slice.creditsOf (s : Slice) : Pool → Nat
  | .mo => s.fld NS_PORTSTAT.MOCRED
  | .dd i => s.out.ddCred.getD i 0
  | .lw i => s.out.lwCred.getD i 0

def Slice.spend (s : Slice) (p : Pool) : Slice :=
  let s := s.stir
  match p with
  | .mo => s.setFld NS_PORTSTAT.MOCRED (s.fld NS_PORTSTAT.MOCRED - 1)
  | .dd i => s.modOut fun o => { o with ddCred := subAt o.ddCred i }
  | .lw i => s.modOut fun o => { o with lwCred := subAt o.lwCred i }

/-- A message of the cluster crosses the wing bridge to reach this slice, and one to it to leave: clusters 0 to 15 are at the west LCL port,
as the slices 0 to 31 are in the west wing (R33, R534). -/
def Slice.crosses (s : Slice) (c : Nat) : Bool := decide (16 ≤ c) != decide (32 ≤ s.num)

/-- A coherence message bound for the LCL port of the other wing; memory requests use no bridge (R33, R386). -/
def Slice.crossesOut (s : Slice) (w : LwMsg) : Bool := w.name.cls != 4 && s.crosses w.cluster

/-- The bridge entry a message of a class to the other wing takes (R35): a reserved one of its class while one is free, else a shared one. -/
def Slice.outSlot (s : Slice) (cls : Nat) : Option BridgeSlot :=
  if (s.out.bridgeOut.filter (fun e => e.slot == .own && e.msg.name.cls == cls)).length < 8 then some .own
  else if (s.out.bridgeOut.filter (fun e => e.slot == .shared)).length < 32 then some .shared else none

def OutMsg.isReq : OutMsg → Bool
  | .req _ => true
  | _ => false

/-- The message can leave now: a credit and, for a request, a free issue entry, for a message to the other wing a free entry of the wing
bridge (R37, R389, R528, R539, R620). -/
def Slice.canSend (s : Slice) (m : OutMsg) : Bool :=
  s.sys.sclkRuns && 0 < s.creditsOf m.pool && (!m.isReq || s.out.freeEntry.isSome) && (match m with
    | .lw w => !s.crossesOut w || (s.outSlot w.name.cls).isSome
    | _ => true)

/-! ### Sending -/

/-- Work of kind `k` retires in this cycle (R622). -/
def Slice.retire (s : Slice) (k : Nat) : Slice := s.modMeas fun q => { q with retired := q.retired ||| ((1 : BitVec 8) <<< k) }

/-- Remove a tracker; for a write/evict or atomic tracker that is a retirement (R622). -/
def Slice.freeTrk (s : Slice) (id : Nat) : Slice :=
  match s.port.trks.find? (fun t => t.id == id) with
  | none => s
  | some t =>
    let s := s.modPort fun p => { p with trks := p.trks.filter (fun u => u.id != id) }
    match t.kind with
    | .write => s.retire 1
    | .atom => s.retire 3
    | .read | .red | .none => s

/-- Change a tracker. -/
def Slice.modTrk (s : Slice) (id : Nat) (f : Trk → Trk) : Slice :=
  s.modPort fun p => { p with trks := replaceFirst (fun t => t.id == id) f p.trks }

def Slice.trk? (s : Slice) (id : Nat) : Option Trk := s.port.trks.find? (fun t => t.id == id)

/-- The destinations of a beat whose generation is still current (R617, R618). -/
def Beat.live (g : List (Nat × BitVec 8)) (b : Beat) : List Dest :=
  b.dests.filter (fun d => d.exempt || genOf g d.ctx == d.gen)

/-- The latency of each destination's request enters its class's sums with its first beat (R485). -/
def Slice.measure (s : Slice) (b : Beat) : Slice :=
  if !b.measured || b.part != 0 then s
  else b.dests.foldl (fun s d => s.modMeas fun q =>
    { q with latSum := addAt q.latSum d.cls (s.now - d.born) (2 ^ 64), latCnt := addAt q.latCnt d.cls 1 (2 ^ 64) }) s

/-- 128 bytes for each line delivered to a request, unless counting is frozen (R491, R492, R688). -/
def Slice.countDelivered (s : Slice) (cls : Nat) : Slice :=
  if s.frozen then s
  else
    let c := NS_REG_RDBYTES.COUNT cls
    let n := s.fld c + 128
    let s := s.setFld c n
    if 2 ^ 48 ≤ n then s.setFld (NS_REG_RDBYTES.OVF cls) 1 else s

/-- Beats of a tracker wait to leave, at either port. -/
def Slice.beatsLeft (s : Slice) (id : Nat) : Bool :=
  (s.port.beats ++ s.port.granted).any (fun b => b.trk == some id) || s.out.outq.any fun i => match i.msg with
    | .rep b => b.trk == some id
    | _ => false

/-- A beat that is about to leave: stale destinations are removed and counted (R617); RDBYTES counts a delivered line (R491); with
its last beat the tracker is freed (R116), and a read retires when that beat is sent (R622). Answers the beat to send, if a destination is
left. -/
def Slice.leave (s : Slice) (g : List (Nat × BitVec 8)) (b : Beat) : Slice × Option Beat :=
  let live := b.live g
  let read := b.last && (match b.trk with
    | some id => !s.beatsLeft id && s.port.trks.any (fun t => t.id == id && t.kind == .read)
    | none => false)
  let gone := b.dests.length - live.length
  let s := if gone = 0 then s else (s.bump NS_RC_STALE.RPL gone).ev Ev.STALE gone
  let s := match b.trk with
    | none => s
    | some id => if b.last && !s.beatsLeft id then s.freeTrk id else s.modTrk id (fun t => { t with closed := true })
  if live.isEmpty then (s, none)
  else
    let s := if read then s.retire 0 else s
    let b := { b with dests := live }
    let s := s.measure b
    (if b.isData then live.foldl (fun s d => s.countDelivered d.cls) s else s, some b)

/-- A write to host memory has left: its operation is done (R116, R559). -/
def Slice.hostWritten (s : Slice) (l : LineAddr) : Slice :=
  match s.chan.ops.find? (fun o => o.write && o.sent == some (.host l)) with
  | some o => s.modChan fun c => { c with ops := c.ops.filter (fun p => p.id != o.id) }
  | none => s

/-- The answer of a cluster's request that holds a read tracker (R622). -/
def LwName.answersRead : LwName → Bool
  | .goS | .goX | .dataS | .dataX => true
  | _ => false

/-- Send a message whose credit is held. -/
def Slice.sendOut (s : Slice) (g : List (Nat × BitVec 8)) (m : OutMsg) (j : Job) : Slice :=
  match m with
  | .req q =>
    match s.out.freeEntry with
    | none => s
    | some e =>
      let ep := s.out.epochOf e
      let tag : BitVec 12 := BitVec.ofNat 12 (ep.toNat * 512 + e)
      -- a poisoned sector without a cause is one of cause EXTERN (R524)
      let r := { q.req with tag := tag, slack := BitVec.ofNat 12 (s.slackLeft q.req.slack.toNat j.born),
                            pcause := reqCauses q.req.pois q.req.pcause }
      let i : Issue := { entry := e, epoch := ep, op := q.op, ctx := r.ctx, gen := r.gen, die := q.die, line := r.line,
                         why := q.why, orphan := false, since := s.now, acks := q.tiles }
      let s := s.spend m.pool
      let s := match q.why with
        | .incr => s.setFld NS_BALANCE_INC.INCSENT (s.fld NS_BALANCE_INC.INCSENT + 1)
        | _ => s
      let s := if q.dd then (match q.why with
          | .fwd _ => s.ev Ev.FWD_DD 1 none (some r.cls.toNat)
          | _ => s) else s
      s.modOut fun o => { o with issue := o.issue ++ [i], sentReq := o.sentReq ++ [{ q with req := r }] }
  | .lw w =>
    -- a home forwarding over LCL sends the remaining slack with its request (R487)
    let w := if w.name.cls = 4 then { w with slack := BitVec.ofNat 12 (s.slackLeft j.slack j.born) } else w
    let cross := if s.crossesOut w then
        [({ msg := w, slot := (s.outSlot w.name.cls).getD .shared, flits := if w.name.cls = 3 then 2 else 1 } : BridgeOut)] else []
    let s := (s.spend m.pool).modOut fun o => { o with sentLW := o.sentLW ++ [w], bridgeOut := o.bridgeOut ++ cross }
    if w.name == .memWr then s.hostWritten w.line else if w.name.answersRead then s.retire 0 else s
  | .dd w => (s.spend m.pool).modOut fun o => { o with sentDD := o.sentDD ++ [w] }
  | .rep b =>
    match s.leave g b with
    | (s, none) => s
    | (s, some b) => (s.spend m.pool).modOut fun o => { o with sentRep := o.sentRep ++ [b] }

/-- The message the outbound queue would grant now (R475, R476). -/
def Slice.nextOut (s : Slice) : Option Nat :=
  s.choose Point.outbound.num (s.out.outq.map fun i => (i.job, s.canSend i.msg))

/-- A message for the outbound queue: it leaves at once when it can be sent and the queue holds no message that could be granted and none
of its line, and waits otherwise (R472, R475, R476, R528, R620). -/
def Slice.emit (s : Slice) (g : List (Nat × BitVec 8)) (m : OutMsg) (j : Job) : Slice :=
  let (s, j) := s.lookBy s { j with lane := m.lane }
  if s.canSend m && s.nextOut.isNone && !s.out.outq.any (fun i => j.waitsFor i.job) then
    (s.sendOut g m j).granted Point.outbound.num
  else s.modOut fun o => { o with outq := o.outq ++ [{ msg := m, job := j }] }

/-- The outbound queue grants one message (R475). -/
def Slice.grantOutbound (s : Slice) (g : List (Nat × BitVec 8)) : Slice :=
  match s.nextOut with
  | none => s
  | some i =>
    match s.out.outq[i]? with
    | none => s
    | some it =>
      let s := s.modOut fun o => { o with outq := o.outq.eraseIdx i }
      ((s.urgentCount it.job).sendOut g it.msg it.job).granted Point.outbound.num

/-! ### Requests the slice issues -/

/-- A request the slice issues for `slice` of `die`: it leaves on MO, and one for another die enters its exit slice on this die, this
slice itself where the numbers are equal (R28, R528; R538 keeps DD for what exit slices forward). -/
def Slice.route (_s : Slice) (die slice : Nat) (op : Op) (r : Req) (why : Why) (tiles : Nat := 0) : OutMsg :=
  .req { dd := false, die := die, slice := slice, op := op, req := { r with odd := pipeOf op r }, why := why, tiles := tiles }

/-- The physical address of a line as a request's PA field. -/
def paOfLine (l : LineAddr) : BitVec 52 := BitVec.ofNat 52 (linePA l)

/-- A message of the LCL with the fields a response needs. -/
def lwMsg (n : LwName) (c : Nat) (l : LineAddr) : LwMsg :=
  { name := n, cluster := c, line := l, reqr := 0, flag := false, data := 0, pois := 0, mask := 0, slack := 0xFFF }

/-- A unit of work for a cluster: messages of the LCL carry no class and no slack, so class 0 and none are taken. -/
def Slice.clJob (s : Slice) (c : Nat) (l : LineAddr) : Job :=
  { kind := .request, cls := 0, master := 144 + c, born := s.now, slack := 0xFFF, est := .hit,
    key := .pa l }

/-- Send a message to a cluster, as work of the cluster's own request unless `job` says otherwise. -/
def Slice.sendLW (s : Slice) (g : List (Nat × BitVec 8)) (m : LwMsg) (job : Job := s.clJob m.cluster m.line) : Slice :=
  s.emit g (.lw m) job

/-! ### Replies -/

def reqDest (op : Op) (r : Req) (born : Nat) : Dest :=
  { tag := r.tag, reqid := r.reqid, srcdie := r.srcdie, ctx := r.ctx, gen := r.gen, cls := r.cls.toNat, born := born,
    exempt := op == .pxrd || op == .pxwr || op == .tinv }

/-- Queue a beat at the reply port, or send it to the exit slice it answers (R29, R526, R527). -/
def Slice.reply (s : Slice) (g : List (Nat × BitVec 8)) (b : Beat) : Slice :=
  match b.dd with
  | none => s.modPort fun p => { p with beats := p.beats ++ [b] }
  | some _ => s.emit g (.rep b) b.job

/-- Status codes (R522). -/
abbrev Stat.ACK : Nat := 0x00
abbrev Stat.NOT_HOME : Nat := 0x01
abbrev Stat.VT_RANGE : Nat := 0x02
abbrev Stat.DENIED : Nat := 0x03
abbrev Stat.BAD_CMD : Nat := 0x04
abbrev Stat.BAD_FMT : Nat := 0x05
abbrev Stat.BAD_ARITH : Nat := 0x06
abbrev Stat.BAD_ATOM : Nat := 0x07
abbrev Stat.BAD_TARGET : Nat := 0x08
abbrev Stat.NOT_READY : Nat := 0x09
abbrev Stat.BAD_OPC : Nat := 0x0A
abbrev Stat.REJ_CLOSED : Nat := 0x0B
abbrev Stat.REJ_CTX : Nat := 0x0C
abbrev Stat.REJ_RANGE : Nat := 0x0D
abbrev Stat.REJ_OWNER : Nat := 0x0E
abbrev Stat.REJ_FMT : Nat := 0x0F
abbrev Stat.REJ_COMBINED : Nat := 0x10
abbrev Stat.REJ_OVERCOUNT : Nat := 0x11
abbrev Stat.PARTIAL : Nat := 0x12
abbrev Stat.HELD : Nat := 0x13
abbrev Stat.SEAL_DONE : Nat := 0x14
abbrev Stat.SEAL_ERR : Nat := 0x15
abbrev Stat.BAD_ACCN : Nat := 0x16
abbrev Stat.ACCN_OFF : Nat := 0x17
abbrev Stat.ACCN_CTX : Nat := 0x18
abbrev Stat.ACCN_BUSY : Nat := 0x19
abbrev Stat.ACCN_ERR : Nat := 0x1A
abbrev Stat.GRPCTL : Nat := 0x1B
abbrev Stat.CREDIT : Nat := 0x1C

/-- The command code of a group-control request (R266). -/
def grpCmdOf (r : Req) : Nat := (r.data.extractLsb' 0 4).toNat

/-- A request whose latency is not measured (R485, R493): a barrier-type message, a flush. A CLOSE is the group-control request with command
code 2. -/
def unmeasured (op : Op) (r : Req) : Bool := op.unmeasured || (op == .grpctl && grpCmdOf r = 2)

/-- The line a request's status reply orders itself by (R428, R476): at an exit slice a vitrine line is another slice's. -/
def replyKey (op : Op) (r : Req) (fwd : Bool) : LineKey :=
  match reqKey op r with
  | .vit v => if fwd then .far (r.pa.extractLsb' 7 26) else .vit v
  | k => k

/-- A status reply to a request; `trk` is the tracker it frees. -/
def Slice.statusBeat (s : Slice) (op : Op) (r : Req) (trk : Option Nat) (born status acklvl : Nat) (miss fwd : Bool := false) : Beat :=
  { dests := [reqDest op r born], dd := r.via.dd?, status := status, detail := 0, acklvl := acklvl, auxr := 0, part := 0, npart := 1,
    pz := 0, data := 0, trk := trk, last := true, isData := false,
    job := { s.reqJob op r born miss fwd with key := replyKey op r fwd }, measured := !unmeasured op r }

/-! ### Memory operations (R531, R559 to R562, R569) -/

/-- The channel side holds work: INIT after the memory port's release, RETRAIN, LOST or MAPPING (R559, R646). -/
def Slice.chanHolds (s : Slice) : Bool :=
  let c := s.cstate
  (c == CState.INIT && s.flag NS_PORTSTAT.MEMRDY) || c == CState.RETRAIN || c == CState.LOST || c == CState.MAPPING

/-- Where an operation goes now. -/
def Slice.opTgt (s : Slice) (o : MemOp) : MemTgt :=
  match o.why with
  | .save =>
    let (ch, rl) := s.reserveLine (bayOf o.line)
    .proxy s.die (32 * (s.num / 32) + ch) rl
  | _ => s.memTgt o.line

/-- The operation needs this slice's channel. -/
def MemTgt.isChan : MemTgt → Bool
  | .chan _ => true
  | _ => false

/-- Requests held for the channel (R559); the slice's own streams are not counted (R561). -/
def Slice.heldOps (s : Slice) : List MemOp :=
  if s.chanHolds then s.chan.ops.filter (fun o => o.sent.isNone && !o.stream && (s.opTgt o).isChan) else []

/-- Two operations are one request's: they are waited for by the same request, or one brings a line home and the other makes room for it. An
operation no request waits for is one of its own. -/
def MemOp.sameReq (o p : MemOp) : Bool :=
  match o.why, p.why with
  | .none, _ | _, .none => false
  | .evict _ n, .home l | .home l, .evict _ n => setOf l == n && o.job == { p.job with key := o.job.key }
  | a, b => a == b

/-- Requests held for the channel: operations of one request count once, and never more than 96 are held (R559, R560); what waited for the
channel already when it was lost is held with them (R602; assumption 139). -/
def Slice.heldReqs (s : Slice) : Nat :=
  min 96 (s.heldOps.foldl (fun (os : List MemOp) o => if os.any o.sameReq then os else o :: os) []).length

/-- The lowest operation tag that no unanswered read uses. -/
def Chan.freeOtag (c : Chan) : Option Nat := (List.range 96).find? (fun t => !c.ops.any (fun o => o.otag == some t))

/-- The operation can be issued now: the channel in NORMAL with a credit and a tag (R531, R533), or no other proxy outstanding for
its line (R569). -/
def Slice.canIssue (s : Slice) (o : MemOp) : Bool :=
  o.sent.isNone &&
  match s.opTgt o with
  | .chan _ => s.cstate == CState.NORMAL && 0 < s.fld NS_PORTSTAT.HCCRED && s.chan.freeOtag.isSome && s.sys.sclkRuns
  | .proxy _ _ l => !s.chan.ops.any (fun p => match p.sent with
      | some (.proxy _ _ l') => l' == l
      | _ => false)
  | .host _ => true

def Slice.modOp (s : Slice) (id : Nat) (f : MemOp → MemOp) : Slice :=
  s.modChan fun c => { c with ops := replaceFirst (fun o => o.id == id) f c.ops }
/-- An operation ends. -/
def Slice.dropOp (s : Slice) (id : Nat) : Slice :=
  s.modChan fun c => { c with ops := c.ops.filter (fun o => o.id != id) }

/-- The sector mask of a 4-bit number as bytes. -/
def secBytes (ss : BitVec 4) : BitVec 128 := sectorsMask ss.toNat

/-- The message of an operation for host memory. -/
def MemOp.hostMsg (o : MemOp) (l : LineAddr) : LwMsg :=
  { lwMsg (if o.write then .memWr else .memRd) 0 l with data := o.data, pois := poisBits o.pz, mask := secBytes o.sectors &&& o.mask }

/-- A message that waits to leave is this operation's. -/
def MemOp.waitsIn (o : MemOp) (i : OutItem) : Bool :=
  match i.msg, o.sent with
  | .req q, some (.proxy _ _ _) => q.why == .proxy o.id
  | .lw w, some (.host l) => w == o.hostMsg l
  | _, _ => false

/-- An operation has left: it has been issued, and its message does not wait. -/
def Slice.opLeft (s : Slice) (o : MemOp) : Bool := o.sent.isSome && !s.out.outq.any o.waitsIn

/-- Issue an operation: on HC, as PXRD or PXWR to the slice of another channel, or to host memory over LW. A write on HC is done when it is
accepted, one to host memory when its message has left. -/
def Slice.issueOp (s : Slice) (g : List (Nat × BitVec 8)) (o : MemOp) : Slice :=
  match s.opTgt o with
  | .chan bay =>
    let s := (s.urgentCount o.job).granted Point.channel.num
    let tag := s.chan.freeOtag.getD 0
    let s := s.stir.setFld NS_PORTSTAT.HCCRED (s.fld NS_PORTSTAT.HCCRED - 1)
    let cmd : HcCmd := { otag := tag, bay := bay, sectors := o.sectors, line := o.sectors == 0xF, write := o.write,
                         data := o.data, wpois := o.pz }
    let s := s.modChan fun c => { c with sentHC := c.sentHC ++ [cmd] }
    if o.write then (s.dropOp o.id).ev Ev.CH_WR 1
    else (s.modOp o.id fun p => { p with sent := some (.chan bay), otag := some tag }).ev Ev.CH_RD 1
  | .proxy die sl l =>
    let r : Req := { Req.zero with
      mask := secBytes o.sectors &&& o.mask, pa := paOfLine l, data := o.data, pois := poisBits o.pz, pcause := o.pz,
      slack := BitVec.ofNat 12 o.job.slack, cls := BitVec.ofNat 3 o.job.cls, ctx := o.ctx, gen := o.gen,
      hint := o.hint, reqid := BitVec.ofNat 8 (192 + s.num), srcdie := BitVec.ofNat 3 s.die }
    let s := s.modOp o.id fun p => { p with sent := some (.proxy die sl l) }
    s.emit g (s.route die sl (if o.write then .pxwr else .pxrd) r (.proxy o.id)) o.job
  | .host l =>
    let s := s.modOp o.id fun p => { p with sent := some (.host l) }
    s.emit g (.lw (o.hostMsg l)) { o.job with est := .fwd }

/-- The operations that wait at the channel scheduler. -/
def Slice.chanWaiting (s : Slice) : List MemOp := s.chan.ops.filter fun o => o.sent.isNone && (s.opTgt o).isChan

/-- The operation the channel scheduler would grant now: one that was held when the channel resumed goes first, oldest first (R562), and then
the choice is that of R475. -/
def Slice.nextChan (s : Slice) : Option MemOp :=
  let waiting := s.chanWaiting
  match waiting.find? (fun o => o.id < s.chan.resumed) with
  | some o => if s.canIssue o then some o else none
  | none => (s.choose Point.channel.num (waiting.map fun o => (o.job, s.canIssue o))).bind (waiting[·]?)

/-- An operation for another slice's channel or for host memory that may leave, oldest first: none of its line waits before it. -/
def Slice.nextAway (s : Slice) : Option MemOp :=
  let waiting := s.chan.ops.filter fun o => o.sent.isNone && !(s.opTgt o).isChan
  waiting.find? fun o => s.canIssue o && !waiting.any (fun p => p.id < o.id && p.line == o.line)

/-- A new memory operation. At the channel scheduler it is issued at once when it can be and nothing that could be granted, and no operation
of its line, waits there; elsewhere when none of its line waits. It is queued otherwise (R472, R475, R476). -/
def Slice.memOp (s : Slice) (g : List (Nat × BitVec 8)) (o : MemOp) : Slice :=
  let (s, j) := s.lookBy s o.job
  let o := { o with id := s.chan.nextOp, job := j }
  let chan := (s.opTgt o).isChan
  let waits := (chan && s.nextChan.isSome) ||
    s.chan.ops.any fun p => p.sent.isNone && (s.opTgt p).isChan == chan && (p.line == o.line || (chan && p.id < s.chan.resumed))
  let s := s.modChan fun c => { c with ops := c.ops ++ [o], nextOp := c.nextOp + 1 }
  if s.canIssue o && !waits then s.issueOp g o else s

/-- The channel scheduler grants one operation (R475), and an operation that goes elsewhere leaves. -/
def Slice.grantChannel (s : Slice) (g : List (Nat × BitVec 8)) : Slice :=
  match s.nextChan with
  | some o => s.issueOp g o
  | none => match s.nextAway with
    | some o => s.issueOp g o
    | none => s

/-- A read of a whole line. -/
def readOp (l : LineAddr) (why : MemWhy) (job : Job) (stream : Bool) (ctx : BitVec 12) (gen : BitVec 8) : MemOp :=
  { id := 0, write := false, sectors := 0xF, mask := fullMask, data := 0, pz := 0, why := why, line := l,
    stream := stream, sent := none, otag := none, job := { job with key := .pa l }, ctx := ctx, gen := gen }

/-- A write of the sectors `ss` (as one line operation or one sector). -/
def writeOp (l : LineAddr) (ss : BitVec 4) (d : LineData) (pz : BitVec 12) (why : MemWhy) (job : Job) (stream : Bool) : MemOp :=
  { id := 0, write := true, sectors := ss, mask := fullMask, data := d, pz := pz, why := why, line := l,
    stream := stream, sent := none, otag := none, job := { job with key := .pa l }, ctx := 0, gen := 0 }

/-- Write sectors back: all four as one operation, else one operation a sector (R73). -/
def Slice.writeSectors (s : Slice) (g : List (Nat × BitVec 8)) (l : LineAddr) (valid dirty : Nat) (d : LineData)
    (pz : BitVec 12) (why : MemWhy) (job : Job) (stream : Bool) : Slice :=
  if valid % 16 = 15 then s.memOp g (writeOp l 0xF d pz why job stream)
  else (List.range 4).foldl (fun s i =>
    if dirty.testBit i then s.memOp g (writeOp l (BitVec.ofNat 4 (2 ^ i)) d pz why job stream) else s) s

/-! ### Loan invalidations (R40 to R43) -/

/-- The dies whose confirmation for a line is still due. -/
def Slice.invDue (s : Slice) (l : LineAddr) : BitVec 8 := ((s.port.invs.find? (fun p => p.1 == l)).map (·.2)).getD 0

/-- Invalidate the loan copies of a line on the dies of `v`. -/
def Slice.invStart (s : Slice) (g : List (Nat × BitVec 8)) (l : LineAddr) (v : BitVec 8) (job : Job) : Slice :=
  let due := s.invDue l
  let new := v &&& ~~~due
  if new = 0 then s
  else
    let s := s.modPort fun p => { p with invs := (p.invs.filter (fun q => q.1 != l)) ++ [(l, due ||| new)] }
    (List.range 8).foldl (fun s d => if bitAt new d then s.emit g (.dd (.inv d l)) { job with key := .pa l } else s) s

/-! ### Refusals of messages -/

/-- DD receive credits given back: one for each message taken, to its source die (R539). -/
def Slice.ddRxBack (s : Slice) (die cls : Nat) : Slice := s.stir.modOut fun o => { o with ddRx := addAt o.ddRx (die * 3 + cls) 1 (2 ^ 64) }

/-- LW receive credits given back (R537). -/
def Slice.lwRxBack (s : Slice) (c : Nat) : Slice := s.stir.modOut fun o => { o with lwRx := addAt o.lwRx c 1 (2 ^ 64) }

end Sys2Proof.Machine
end

