-- ==== Sys2Proof/Machine/Cache.lean ====
section
/-! DEFINITION. Addressed lines in L, O and H ways (chapter "Line Storage, Retention Hints and Read Combining"): hints, victim
choice, the deaccession filter, eviction, fills, and bringing a line into its ways for a request. -/

namespace Sys2Proof.Machine

/-! ### Retention (R75 to R82) -/

/-- The hint a line of a use gets: deaccession acts as evict-first in an O or H way (R77). -/
def useHint (use hint : Nat) : Nat := if hint = 3 && use != Use.L then 2 else hint

/-- Lines and free ways of a use in a set whose RET is other than KEEP, `except` left out (R79). A way claimed for a fill that is still in
flight is a line already, with the RET it was given, and no free way (DESIGN CHOICE, assumption 132). -/
def Slice.nonKeep (s : Slice) (use set except : Nat) : Nat :=
  ((s.waysOf use).filter fun w =>
    let t := s.tag w set
    w != except && !tagQUAR t && ((tagSV t == 0 && !tagBUSY t) || tagRET t != Ret.KEEP)).length

/-- Set RET and AGE of a way from a request's hint (R76, R77, R79, R80); `alloc` on allocation. -/
def Slice.applyHint (s : Slice) (use way set hint : Nat) (alloc : Bool) : Slice :=
  let h := useHint use hint
  let demote := h == 0 && s.nonKeep use set way < s.fld NS_RET_CTL.KEEPFREE
  let s := if demote then (s.bump NS_RET_EVT.KEEPDEM 1).ev Ev.KEEP_DEMOTE 1 else s
  let h := if demote then 1 else h
  let age := if h ≥ 2 then 3 else if alloc then 2 else 0
  s.setTag way set (setAGE (setRET (s.tag way set) h) age)

/-- A hit on a dead line by a request without the deaccession hint revives it (R92). -/
def Slice.noteRevive (s : Slice) (use way set hint : Nat) : Slice :=
  if tagRET (s.tag way set) == Ret.DEAD && useHint use hint != 3 then
    (s.bump NS_RET_EVT.REVIVE 1).ev Ev.DEAC_REVIVE 1
  else s

/-! ### Victims (R81 to R87) -/

/-- The candidate ways of R81; in safe mode only L ways are allocated into (R47). -/
def Slice.candidates (s : Slice) (use set : Nat) : List Nat :=
  if s.safe && use != Use.L then [] else (s.waysOf use).filter fun w =>
    let t := s.tag w set
    !s.draining w && !s.busyAt w set && !tagGRP t && !tagQUAR t

/-- The class the victim is taken from, the greatest age in it and its ways. -/
def Slice.victimClass (s : Slice) (set : Nat) (cand : List Nat) : Option (Nat × List Nat) :=
  [Ret.DEAD, Ret.EVFIRST, Ret.NORMAL, Ret.KEEP].findSome? fun c =>
    let ws := cand.filter (fun w => tagRET (s.tag w set) == c)
    if ws.isEmpty then none else some (ws.foldl (fun m w => max m (tagAGE (s.tag w set))) 0, ws)

/-- choose_victim of R81, without its ageing: the way it returns. -/
def Slice.victimWay (s : Slice) (use set : Nat) : Option Nat :=
  let cand := s.candidates use set
  match cand.find? (fun w => tagSV (s.tag w set) == 0) with
  | some w => some w
  | none =>
    match s.victimClass set cand with
    | none => none
    | some (m, ws) => ws.find? (fun w => tagAGE (s.tag w set) + (3 - m) == 3)

/-- The ageing of R81: only the class the victim is taken from ages (R82). -/
def Slice.ageFor (s : Slice) (use set : Nat) : Slice :=
  let cand := s.candidates use set
  if cand.any (fun w => tagSV (s.tag w set) == 0) then s
  else match s.victimClass set cand with
    | none => s
    | some (m, ws) => ws.foldl (fun s w => s.setTag w set (setAGE (s.tag w set) (tagAGE (s.tag w set) + (3 - m)))) s

/-- The messages of a cluster by number: 0 RD_S, 1 RD_X, 2 UPG, 3 WB, 4 EVC, 5 ATOM; an ATOM may turn out far or near. -/
def msgTrks (m : Nat) : List TrkKind :=
  if m < 3 then [.read] else if m = 3 then [.write] else if m = 5 then [.read, .atom] else []

/-- The number of a cluster's message. -/
def BridgeMsg.num : BridgeMsg → Nat
  | .req _ .rdS => 0 | .req _ .rdX => 1 | .req _ .upg => 2 | .req _ _ => 3 | .evc _ => 4 | .atom _ _ => 5
  | .snpAck _ _ _ _ => 6 | .compAck _ => 7 | .snpData _ _ _ => 8 | .wbData _ _ _ => 9

/-- The opcode and the byte address by which a resend of a message matches its credit (R400): an ATOM has its own, the other messages their
number and their line. -/
def BridgeMsg.op : BridgeMsg → Op
  | .atom _ a => .atom a.op a.posted
  | _ => .rd

/-- The cluster and the line of a message. -/
def BridgeMsg.cl : BridgeMsg → ClMsg
  | .req m _ | .evc m | .atom m _ | .snpAck m _ _ _ | .compAck m | .snpData m _ _ | .wbData m _ _ => m

/-- The byte address of a message. -/
def BridgeMsg.pa (b : BridgeMsg) : BitVec 52 :=
  match b with
  | .atom m a => BitVec.ofNat 52 (linePA m.line + a.offset.toNat)
  | _ => paOfLine b.cl.line

/-- An accepted request has used its credit for a resource and has not taken the resource yet: it stays the request's own (R399, R404). A
directory entry is taken, and busy, once the request's transaction begins. -/
def Trk.waitsRes (t : Trk) (res : CRes) : Bool :=
  let dir := match res with
    | .dirset _ => true
    | _ => false
  t.res == some res && t.way.isNone && (t.stage == .queued || (!dir && (t.stage == .ready || t.stage == .coh || t.stage == .combine)))

/-- A requester's accepted request holds a resource that its credit had reserved. -/
def Slice.ownsRes (s : Slice) (res : CRes) (reqid : Nat) : Bool :=
  s.port.trks.any fun t => t.waitsRes res && t.req.reqid.toNat == reqid

/-- The same resource is reserved for another requester: credits granted for it and not used, accepted requests that have used theirs and
have not taken it yet, or, with `owed`, also credits that still wait for it (R399, R404). -/
def Slice.reservedFor (s : Slice) (owed : Bool) (res : CRes) (reqid : Nat) : Nat :=
  (s.port.credits.filter (fun c => (owed || c.granted) && c.res == res && c.reqid.toNat != reqid)).length +
    (s.port.trks.filter (fun t => t.waitsRes res && t.req.reqid.toNat != reqid)).length +
    (s.coh.waiters.filter (fun w => w.res == some res && 144 + w.msg.cl.cluster.toNat != reqid)).length

/-- The ways of a set that replacement could take for a use, less those reserved for others. -/
def Slice.waysLeft (s : Slice) (owed : Bool) (use set reqid : Nat) : Nat :=
  (s.candidates use set).length - s.reservedFor owed (.set set use) reqid

/-- choose_victim for a request of `reqid`: NONE when every candidate way is reserved for earlier requesters (R399). A request that has
used its credit for the set takes the way that was reserved for it, whoever waits behind it. -/
def Slice.victimFor (s : Slice) (use set reqid : Nat) : Option Nat :=
  if s.waysLeft (!s.ownsRes (.set set use) reqid) use set reqid = 0 then none else s.victimWay use set

/-- The victim must be written back before its way is reused (R83, R90, R91). -/
def Slice.needsWriteback (s : Slice) (use way set : Nat) : Bool :=
  let t := s.tag way set
  tagSV t != 0 && tagSD t != 0 && !(tagRET t == Ret.DEAD && use == Use.L && !s.flag NS_RET_CTL.DEACMODE)

/-! ### Trackers in use (R116, R117) -/

def trkCap : TrkKind → Nat
  | .read => 256 | .write => 128 | .red => 64 | .atom => 32 | .none => 2 ^ 20

/-- Write/evict trackers that hold a writeback until the channel accepts it. -/
def Slice.evictOps (s : Slice) : Nat := s.chan.evicts.length

/-- The kind of tracker a request takes (R116). -/
def opTrk : Op → TrkKind
  | .rd | .rdc | .rdacq | .crd | .vrd | .vcrd | .pxrd => .read
  | .wr | .wrrel | .cwr | .vwr | .vcwr | .cntwr | .pxwr | .flush => .write
  | .redc | .redn => .red
  | .atom _ _ => .atom
  | _ => .none

/-- Trackers of a kind reserved with a granted credit (R399). -/
def Slice.creditTrks (s : Slice) (k : TrkKind) : Nat :=
  (s.port.credits.filter (fun c => c.granted && (match c.msg with
    | none => opTrk c.op == k
    | some m => (msgTrks m).contains k))).length

/-- The tracker a cluster's transaction holds: a read tracker, or a write/evict tracker for a writeback. A near ATOM has a tracker of
its own. -/
def txnTrk (t : Txn) : TrkKind :=
  match t.who, t.kind with
  | .cluster _, .rdS | .cluster _, .rdX | .cluster _, .upg | .cluster _, .far => .read
  | .cluster _, .wb => .write
  | _, _ => .none

/-- An entry holds a tracker of the kind. A write that is applied and only waits for confirmations holds none (R116; DEDUCED). -/
def Trk.holds (t : Trk) (k : TrkKind) : Bool := t.kind == k && (k == .atom || k == .read || t.stage != .loanAck)

/-- Trackers of a kind held. -/
def Slice.trkUsed (s : Slice) (k : TrkKind) : Nat :=
  (s.port.trks.filter (·.holds k)).length
    + (s.coh.txns.filter (fun t => txnTrk t == k)).length + (s.coh.waiters.filter (fun w => (msgTrks w.msg.num).contains k)).length
    + (if k == .write then s.evictOps else 0)

/-- A tracker of the kind is free. -/
def Slice.trkFree (s : Slice) (k : TrkKind) : Bool := s.trkUsed k + s.creditTrks k < trkCap k

/-! ### The deaccession filter (R94 to R96) -/

def deacIn (f : List LineAddr) (l : LineAddr) : List LineAddr :=
  let f := f.filter (· != l)
  let f := if 64 ≤ f.length then f.tail else f
  f ++ [l]

/-! ### Eviction -/

/-- A tracker that waits for the line of an entry to leave (R84). -/
def Trk.victimAt (t : Trk) (way set : Nat) : Bool :=
  t.stage == .victim && t.way == some way && t.key == .pa t.req.line && setOf t.req.line == set

/-- The line's entry is BUSY with no request of its own: it is a victim that has not left yet, or a fill that goes on after its
request was discarded. -/
def Slice.lineMoves (s : Slice) (l : LineAddr) : Bool :=
  let inWay := fun (w : Nat) => tagSV (s.tag w (setOf l)) != 0 && tagTAG (s.tag w (setOf l)) == l
  s.chan.evicts.any (fun p => p.2 == setOf l && inWay p.1) ||
    s.walk.dying.any (fun p => p.2 == setOf l && inWay p.1) ||
    s.chan.ops.any (fun o => o.line == l && o.why.isFill) ||
    s.port.trks.any fun t => match t.way with
      | some w => t.victimAt w (setOf l) && inWay w
      | none => false

/-- A line that was leaving is gone once the channel has accepted all of it: its tracker is free (R116, R622), and its entry is
invalid or passes to the tracker that waits for it. -/
def Slice.evictEnd (s : Slice) (way set : Nat) : Slice :=
  if !s.evicting way set || s.chan.ops.any (fun o => o.why == .evict way set) then s
  else
    let s := s.modChan fun c => { c with evicts := c.evicts.filter (· != (way, set)) }
    let s := s.modMeas fun q => { q with retired := q.retired ||| 2 }
    if s.port.trks.any (·.victimAt way set) then s.setTag way set (setSD (s.tag way set) 0) else s.clearEntry way set

/-- Every line that has gone meanwhile. -/
def Slice.evictEnds (s : Slice) : Slice := s.chan.evicts.foldl (fun s p => s.evictEnd p.1 p.2) s

/-- The valid sectors `ss` of a line are read for a message that takes them out of the slice, each through its check bits (R578). An
uncorrectable dirty one is poisoned (R582). An uncorrectable clean one is not sent (DESIGN CHOICE, assumption 138): the second part names such
sectors, and the event counts once in REFETCH (R581). -/
def Slice.checkOut (s : Slice) (way set ss : Nat) : Slice × Nat :=
  if s.mem.chk.isEmpty then (s, 0)
  else
    let (s, lost) := (List.range 4).foldl (fun (q : Slice × Nat) i =>
      if !(ss &&& tagSV (q.1.tag way set)).testBit i then q
      else
        let (s, ok) := q.1.checkLine way set (2 ^ i) false
        (s, if ok then q.2 else q.2 + 2 ^ i)) (s, 0)
    (if lost = 0 then s else s.bump NS_ECC_EVT2.REFETCH 1, lost)

/-- The sectors of an entry that are sent when those of `lost` cannot be. -/
def sentSectors (t : Word) (lost : Nat) : Nat := tagSV t &&& (15 - lost)

/-- The sectors a writeback of an entry sends (R73): all of a whole line, else the dirty ones. -/
def outSectors (t : Word) : Nat := if tagSV t = 15 then 15 else tagSD t

/-- Write a dirty line back so that its entry can be reused (R73, R83): the entry is BUSY until the channel has accepted it. -/
def Slice.startEvict (s : Slice) (g : List (Nat × BitVec 8)) (way set : Nat) (job : Job) (stream : Bool) : Slice :=
  let (s, lost) := s.checkOut way set (outSectors (s.tag way set))
  let t := s.tag way set
  let d := s.mem.readLine way set
  let pz := s.mem.poisonOf way set (tagSV t)
  let s := (s.setTag way set (setBUSY t true)).modChan fun c => { c with evicts := c.evicts ++ [(way, set)] }
  ((s.writeSectors g (tagTAG t) (sentSectors t lost) (tagSD t) d pz (.evict way set) job stream).ev Ev.WRITEBACK 1).evictEnd way set

/-- Free a way whose line needs neither a loan invalidation nor a writeback: a dead dirty line is discarded (R90), and the entry is
left invalid. -/
def Slice.freeWay (s : Slice) (way set : Nat) : Slice :=
  let t := s.tag way set
  let s :=
    if tagSV t = 0 || tagSD t = 0 then s
    else ((s.bump NS_RET_EVT.DISCARD 1).ev Ev.DEAC_DISCARD 1).modMem fun m => { m with deacf := deacIn m.deacf (tagTAG t) }
  s.clearEntry way set

/-- A line whose entry becomes invalid leaves its memory-target group: it is resident no more (R259, R317), its count goes to the group's sum
(R653), and an arrival that waits to be combined into it joins it anew (R305; DESIGN CHOICE, assumption 131). -/
def Slice.ungroup (s : Slice) (way set : Nat) : Slice :=
  let l := tagTAG (s.tag way set)
  match (if tagGRP (s.tag way set) && s.wayCode way == Use.L then s.grps.find? (·.lines.contains l) else none) with
  | none => s
  | some p =>
    let cnt := (s.mem.glwAt way set).toNat % 65536
    let s := if cnt < getBits (p.desc.getD 1 0) 0 16 then s.setFld (NS_GRPSTAT.SHORTU p.num) (s.fld (NS_GRPSTAT.SHORTU p.num) - 1) else s
    let out := fun (q : Grp) => { q with lines := q.lines.filter (· != l), leftCount := q.leftCount + cnt }
    let s := { s with grps := replaceFirst (fun q => q.num == p.num) out s.grps }
    s.modPort fun q => { q with trks := q.trks.map fun t =>
      if t.kind == .red && t.stage == .combine && t.key == .pa l then { t with way := none, miss := false } else t }

/-- Invalidate an entry: at once, or, for an L line with loan copies, once they are invalidated and confirmed (R40, R581). Its sectors are
no longer dirty. -/
def Slice.killEntry (s : Slice) (g : List (Nat × BitVec 8)) (way set : Nat) (job : Job) : Slice :=
  let s := s.ungroup way set
  let t := s.tag way set
  let v := s.mem.loanAt way set
  if s.wayCode way != Use.L || v = 0 then s.clearEntry way set
  else
    let s := (s.setTag way set (setBUSY (setGRP (setSD t 0) false) true)).modWalk fun q => { q with
      dying := if q.dying.contains (way, set) then q.dying else q.dying ++ [(way, set)] }
    s.invStart g (tagTAG t) v job

/-- A line of which clean sectors could not be sent leaves the slice (R581); one that is being filled keeps the others. -/
def Slice.dropLost (s : Slice) (g : List (Nat × BitVec 8)) (way set lost : Nat) (job : Job) : Slice :=
  let t := s.tag way set
  if lost = 0 then s else if tagBUSY t then s.setTag way set (setSV t (sentSectors t lost)) else s.killEntry g way set job

/-- Entries whose loan copies are gone meanwhile are invalid. -/
def Slice.killsEnd (s : Slice) : Slice :=
  s.walk.dying.foldl (fun s p =>
    if s.mem.loanAt p.1 p.2 != 0 then s
    else (s.clearEntry p.1 p.2).modWalk fun q => { q with dying := q.dying.filter (· != p) }) s

/-- Put a line's entry into a free way: no sector valid yet. An allocation takes the line out of the deaccession filter (R96). -/
def Slice.claim (s : Slice) (way : Nat) (l : LineAddr) (busy : Bool) : Slice :=
  let set := setOf l
  let s := s.setTag way set (setBUSY (setBits 0 0 45 l.toNat) busy)
  s.modMem fun m => { m with deacf := m.deacf.filter (· != l) }

/-! ### Bringing a line in -/

/-- What a request finds when it asks for its line. -/
inductive Got where
  /-- resident in this way with every sector it needs -/
  | way (w : Nat)
  /-- on its way: the tracker waits -/
  | waits
  /-- no way can take it now: the request stays where it is -/
  | blocked
  deriving DecidableEq, Repr

/-- Start the fetch of a tracker's line. -/
def Slice.startFill (s : Slice) (g : List (Nat × BitVec 8)) (t : Trk) (l : LineAddr) (way : Option Nat) : Slice :=
  let s := s.modTrk t.id fun u => { u with stage := .fill, way := way, miss := true }
  s.memOp g (readOp l (.trk t.id) { s.trkJob t with est := .miss } false t.req.ctx t.req.gen)

/-- Allocate a way for a tracker's line (R81 to R84). `fill` asks for a fetch; without it the way is claimed with no sector valid
(R69). A victim with loan copies is kept busy until they are invalidated, and one that is written back until the channel has accepted
it; the tracker waits. -/
def Slice.allocate (s : Slice) (g : List (Nat × BitVec 8)) (t : Trk) (l : LineAddr) (use : Nat) (fill : Bool) : Slice × Got :=
  let set := setOf l
  match s.victimFor use set t.req.reqid.toNat with
  | none => (s, .blocked)
  | some w =>
    if s.needsWriteback use w set && !s.trkFree .write then (s, .blocked)
    else
      let s := s.ageFor use set
      let v := s.mem.loanAt w set
      let old := s.tag w set
      if use == Use.L && tagSV old != 0 && v != 0 then
        let s := s.setTag w set (setBUSY old true)
        let s := s.modTrk t.id fun u => { u with stage := .victim, way := some w }
        (s.invStart g (tagTAG old) v (s.trkJob t), .waits)
      else
      let s := if s.needsWriteback use w set then s.startEvict g w set (s.trkJob t) false else s.freeWay w set
      if s.evicting w set then (s.modTrk t.id fun u => { u with stage := .victim, way := some w }, .waits)
      else
        let s := s.claim w l fill
        let s := s.applyHint use w set t.req.hint.toNat true
        if fill then (s.startFill g t l (some w), .waits) else (s, .way w)

/-- The access to the sectors `need` of a line: its set's bookkeeping and its words are checked, and an uncorrectable word of a clean
sector makes the line invalid, so that the access is a miss (R580 to R582). -/
def Slice.access (s : Slice) (g : List (Nat × BitVec 8)) (l : LineAddr) (use need : Nat) (job : Job) : Slice :=
  let set := setOf l
  let s := s.checkSetTags set
  match s.lookup use l with
  | none => s
  | some w =>
    let (s, ok) := s.checkLine w set (need &&& tagSV (s.tag w set)) false
    if ok then s else (s.bump NS_ECC_EVT2.REFETCH 1).killEntry g w set job

/-- The line of a tracker with the sectors `need` valid (R67 to R71). `mayBypass` lets a request whose set has no way be served
from memory without allocation (R52, R85); `bypass` lets one that misses always be (R88). It then waits for the data with no way. A line
that an uncorrectable error makes invalid is waited for, then missed (R581). -/
def Slice.getLine (s : Slice) (g : List (Nat × BitVec 8)) (t : Trk) (l : LineAddr) (use need : Nat) (mayBypass bypass : Bool)
    : Slice × Got :=
  let set := setOf l
  let s := s.access g l use need (s.trkJob t)
  match s.lookup use l with
  | some w =>
    if need &&& tagSV (s.tag w set) = need then (s, .way w)
    else
      let s := s.setTag w set (setBUSY (s.tag w set) true)
      (s.startFill g t l (some w), .waits)
  | none =>
    if s.lineMoves l then (s, .blocked)
    else if bypass || (mayBypass && !s.hasUse use) then (s.startFill g t l none, .waits)
    else
      match s.allocate g t l use true with
      | (s, .blocked) =>
        if mayBypass && (s.victimFor use set t.req.reqid.toNat).isNone then (s.startFill g t l none, .waits) else (s, .blocked)
      | r => r

/-- A tracker's victim has gone: fetch or claim for the tracker that waited. The entry stays BUSY until the data or the write is in it. -/
def Slice.victimReady (s : Slice) (g : List (Nat × BitVec 8)) (t : Trk) (l : LineAddr) (use : Nat) (fill : Bool) : Slice :=
  match t.way with
  | none => s
  | some w =>
    let set := setOf l
    let s := (s.freeWay w set).claim w l true
    let s := s.applyHint use w set t.req.hint.toNat true
    if fill then s.startFill g t l (some w) else s.modTrk t.id fun u => { u with stage := .ready, way := some w }

/-- The way a tracker has been given, as long as its entry still has the tracker's line: one that is filled can be lost again while its request
waits, one that is claimed with no sector valid is BUSY until the request uses it (R63, R69). -/
def Slice.ownWay (s : Slice) (t : Trk) : Option Nat :=
  match t.way with
  | some w =>
    let e := s.tag w (setOf t.req.line)
    if tagTAG e == t.req.line && (tagSV e != 0 || tagBUSY e) then some w else none
  | none => none

/-- A request that will not use the way claimed for it leaves it free again. -/
def Slice.unclaim (s : Slice) (t : Trk) : Slice :=
  match (if t.key == .pa t.req.line && (t.stage == .ready || t.stage == .combine) then s.ownWay t else none) with
  | some w => if tagSV (s.tag w (setOf t.req.line)) = 0 then s.clearEntry w (setOf t.req.line) else s
  | none => s

/-- Fetched data reaches a way: it fills the invalid sectors only, and the entry is no longer busy (R68). -/
def Slice.fillWay (s : Slice) (way set : Nat) (d : LineData) (pz : BitVec 12) : Slice :=
  let sv := tagSV (s.tag way set)
  let s := s.fillSectors way set d pz (15 - sv)
  s.setTag way set (setBUSY (setSV (s.tag way set) 15) false)

/-- Mark the sectors a write touched as valid and dirty (R69, R70). -/
def Slice.dirty (s : Slice) (way set ss : Nat) : Slice :=
  let t := s.tag way set
  s.setTag way set (setSD (setSV t (tagSV t ||| ss)) (tagSD t ||| ss))

/-- A write hit a line in a draining way: write it through and leave the line clean (R50, R97). What waits for the write is `why`. -/
def Slice.writeThrough (s : Slice) (g : List (Nat × BitVec 8)) (way : Nat) (l : LineAddr) (why : MemWhy) (job : Job) : Slice :=
  let set := setOf l
  if tagSD (s.tag way set) = 0 then s
  else
    let (s, lost) := s.checkOut way set (outSectors (s.tag way set))
    let t := s.tag way set
    let d := s.mem.readLine way set
    let pz := s.mem.poisonOf way set (tagSV t)
    let s := s.writeSectors g l (sentSectors t lost) (tagSD t) d pz why job false
    (s.setTag way set (setSD (s.tag way set) 0)).dropLost g way set lost job

/-- Write a line's dirty sectors back as work of one of the slice's own streams and leave it clean and resident (R97, R561). -/
def Slice.cleanLine (s : Slice) (g : List (Nat × BitVec 8)) (way set : Nat) (why : MemWhy) : Slice :=
  let t := s.tag way set
  if tagSV t = 0 || tagSD t = 0 then s
  else
    let (s, lost) := s.checkOut way set (outSectors t)
    let t := s.tag way set
    let job := s.bgJob (.pa (tagTAG t))
    let d := s.mem.readLine way set
    let pz := s.mem.poisonOf way set (tagSV t)
    let s := (s.writeSectors g (tagTAG t) (sentSectors t lost) (tagSD t) d pz why job true).ev Ev.WRITEBACK 1
    (s.setTag way set (setSD (s.tag way set) 0)).dropLost g way set lost job

/-- A read that misses, `stale` when its line was in the deaccession filter before the miss allocated anything (R95, R96). -/
def Slice.noteStale (s : Slice) (stale : Bool) (l : LineAddr) : Slice :=
  if stale then
    ((s.bump NS_RET_EVT.STALE 1).ev Ev.DEAC_STALE 1).modMem fun m => { m with deacf := m.deacf.filter (· != l) }
  else s


end Sys2Proof.Machine
end

