-- ==== Sys2Proof/Machine/Directory.lean ====
section
/-! DEFINITION. The directory and the transactions of host-class lines (R375 to R396), the contention predictor (R370 to R372) and
dead agents (R405 to R411). -/

namespace Sys2Proof.Machine

/-! ### Entries (R376, R377) -/

/-- The STATE codes. -/
abbrev Dir.I : Nat := 0
abbrev Dir.S : Nat := 1
abbrev Dir.X : Nat := 2
abbrev Dir.U : Nat := 3

/-- A directory entry (R376). -/
structure DirEnt where
  state : Nat
  owner : Nat
  lastupd : Nat
  tag : LineAddr
  busy : Bool
  sharers : BitVec 32
  deriving DecidableEq, Repr

/-- The entry's two words. -/
def DirEnt.word0 (d : DirEnt) : Word :=
  setBits (setBits (setBits (setBits 0 61 3 d.state) 56 5 d.owner) 50 6 d.lastupd) 0 45 d.tag.toNat
def DirEnt.word1 (d : DirEnt) : Word := setBits (setBits 0 32 1 (b2n d.busy)) 0 32 d.sharers.toNat

/-- The entry two words hold. -/
def DirEnt.ofWords (w0 w1 : Word) : DirEnt :=
  { state := getBits w0 61 3, owner := getBits w0 56 5, lastupd := getBits w0 50 6, tag := BitVec.ofNat 45 (getBits w0 0 45),
    busy := bitAt w1 32, sharers := BitVec.ofNat 32 (getBits w1 0 32) }

def Mem.ent (m : Mem) (set e : Nat) : DirEnt := DirEnt.ofWords (m.dirWord set e 0) (m.dirWord set e 1)

/-- Write an entry; a free entry is all zero. -/
def Slice.putEnt (s : Slice) (set e : Nat) (d : DirEnt) : Slice :=
  let free := d.state = 0 && !d.busy
  s.modMem fun m =>
    (m.setDirWord set e 0 (if free then 0 else d.word0)).setDirWord set e 1 (if free then 0 else d.word1)

/-- The entry of a line, with its number. -/
def Slice.findEnt (s : Slice) (l : LineAddr) : Option (Nat × DirEnt) :=
  ((List.range 8).map (fun e => (e, s.mem.ent (setOf l) e))).find? fun p =>
    (p.2.state != 0 || p.2.busy) && p.2.tag == l

def Slice.freeEnt (s : Slice) (set : Nat) : Option Nat :=
  (List.range 8).find? fun e => (s.mem.ent set e).state == 0 && !(s.mem.ent set e).busy

def Slice.txn? (s : Slice) (l : LineAddr) : Option Txn := s.coh.txns.find? (fun t => t.line == l)
def Slice.modTxn (s : Slice) (l : LineAddr) (f : Txn → Txn) : Slice :=
  s.modCoh fun c => { c with txns := replaceFirst (fun t => t.line == l) f c.txns }

/-- Cluster `c` is marked dead. -/
def Slice.dead (s : Slice) (c : Nat) : Bool := bitAt (s.rd Reg.NS_DIR_DEADMASK) c
def Slice.deadMask (s : Slice) : BitVec 32 := BitVec.ofNat 32 (s.fld NS_DIR_DEADMASK.DEAD)

/-- The clusters of a mask. -/
def clusters (m : BitVec 32) : List Nat := (List.range 32).filter (fun c => bitAt m c)
def oneCluster (c : Nat) : BitVec 32 := (1 : BitVec 32) <<< c

/-- The clusters that may hold the line (R371, R382). -/
def Slice.holders (s : Slice) (l : LineAddr) : BitVec 32 :=
  match s.findEnt l with
  | some (_, d) => d.sharers
  | none => 0

/-! ### The home copy (R385, R386, R407) -/

/-- Dirty data reaches the home: it is written into the line's H way, or through to memory when no H way can take it (R386). `why` says what
waits for the write to memory. -/
def Slice.writeHome (s : Slice) (g : List (Nat × BitVec 8)) (l : LineAddr) (d : LineData) (pz : BitVec 12) (job : Job)
    (why : MemWhy := .home l) : Slice :=
  let set := setOf l
  let s := s.checkSetTags set
  let put := fun (s : Slice) (w : Nat) =>
    let s := s.fillSectors w set d pz 15
    s.setTag w set (setSD (setSV (s.tag w set) 15) 15)
  match s.lookup Use.H l with
  | some w =>
    let s := put s w
    if s.draining w then s.writeThrough g w l why job else s
  | none =>
    match (if s.safe then none else s.victimWay Use.H set) with
    | some w =>
      if s.needsWriteback Use.H w set && !s.trkFree .write then s.memOp g (writeOp l 0xF d pz why job false)
      else
        let s := s.ageFor Use.H set
        let s := if s.needsWriteback Use.H w set then s.startEvict g w set job false else s.freeWay w set
        if s.evicting w set then s.memOp g (writeOp l 0xF d pz why job false)
        else put ((s.claim w l false).applyHint Use.H w set 1 true) w
    | none => s.memOp g (writeOp l 0xF d pz why job false)

/-- Poison the home copy with cause DEADAGENT (R407), as work of the reclaim walk (R477). -/
def Slice.poisonHome (s : Slice) (g : List (Nat × BitVec 8)) (l : LineAddr) : Slice :=
  let job := s.bgJob (.pa l)
  match s.lookup Use.H l with
  | some _ => s.writeHome g l 0 (allCause Cause.DEADAGENT) job .none
  | none => s.memOp g (writeOp l 0xF 0 (allCause Cause.DEADAGENT) .none job false)

/-- R407 for an entry that no transaction holds: dead clusters leave SHARERS, a line a dead cluster owned is poisoned. The counts go
to the running reclaim (R409). -/
def Slice.reapEntry (s : Slice) (g : List (Nat × BitVec 8)) (set e : Nat) : Slice :=
  let d := s.mem.ent set e
  let dm := s.deadMask
  if d.busy || d.sharers &&& dm = 0 then s
  else
    let s := s.modCoh fun c => { c with reclCleared := c.reclCleared + (clusters (d.sharers &&& dm)).length }
    if d.state = Dir.X then
      let s := (s.poisonHome g d.tag).modCoh fun c => { c with reclPoisoned := c.reclPoisoned + 1 }
      s.putEnt set e { d with state := 0, busy := false }
    else
      let sh := d.sharers &&& ~~~dm
      s.putEnt set e (if sh = 0 then { d with state := 0, busy := false } else { d with sharers := sh })

/-- A request takes a directory victim from the set: what dead clusters hold in it is gone first (R407, R408). -/
def Slice.reapSet (s : Slice) (g : List (Nat × BitVec 8)) (set : Nat) : Slice :=
  (List.range 8).foldl (fun s e => s.reapEntry g set e) s

/-- A request reads the directory set of a line: bookkeeping errors are met (R378, R597, R598), and a dead cluster's copy is treated
as gone (R407, R408). -/
def Slice.readDir (s : Slice) (g : List (Nat × BitVec 8)) (l : LineAddr) : Slice :=
  let s := s.checkSetDir (setOf l)
  match s.findEnt l with
  | some (e, _) => s.reapEntry g (setOf l) e
  | none => s

/-! ### When a line or a set is busy (R379, R380, R397) -/

/-- The reset interrupted a transaction of the line, which is to be recovered: it is busy until then (R641). -/
def Slice.recovering (s : Slice) (l : LineAddr) : Bool := s.coh.recover.any (fun p => p.1 == l)

/-- The line's entry is busy: a transaction runs, or it was interrupted by a reset and is to be recovered (R641). -/
def Slice.lineBusy (s : Slice) (l : LineAddr) : Bool :=
  (s.txn? l).isSome || s.recovering l ||
    (match s.findEnt l with
     | some (_, d) => d.busy
     | none => false)

/-- An accepted request to the line is not applied yet; a cluster's request meets the line as busy then, because the home orders
accesses as it accepted them (R119, R379). -/
def Slice.lineInUse (s : Slice) (l : LineAddr) : Bool :=
  s.lineMoves l || s.port.trks.any fun t => t.key == .pa l && t.stage != .done && t.stage != .loanAck

/-- The entry is busy, or its line is to be recovered. -/
def Slice.entBusy (s : Slice) (set e : Nat) : Bool :=
  let d := s.mem.ent set e
  d.busy || (d.state != 0 && s.recovering d.tag)

/-- A request for line `l` finds no entry it could use: all eight are busy (R397). -/
def Slice.dirSetBusy (s : Slice) (l : LineAddr) : Bool :=
  (s.findEnt l).isNone && (List.range 8).all (s.entBusy (setOf l))

/-- A cluster's request to the line, accepted before request `id`, waits to be ordered. -/
def Slice.awaited (s : Slice) (l : LineAddr) (id : Nat) : Bool :=
  s.coh.waiters.any fun w => w.msg.cl.line == l && w.since ≤ id

/-- The victim of R380: the lowest U entry, else the S entry with the fewest sharers, else the lowest X entry. -/
def Slice.dirVictim (s : Slice) (set : Nat) : Option Nat :=
  let es := (List.range 8).filter fun e => !s.entBusy set e
  let st := fun k => es.filter fun e => (s.mem.ent set e).state == k
  match st Dir.U with
  | e :: _ => some e
  | [] =>
    let n := fun e => (clusters (s.mem.ent set e).sharers).length
    match st Dir.S with
    | e :: rest => some (rest.foldl (fun b e => if n e < n b then e else b) e)
    | [] => (st Dir.X).head?

/-! ### Transactions (R379, R382) -/

/-- The grant unit of what a transaction's request causes (R474, R477): the cluster's own request, or the request of a tracker. -/
def Slice.whoJob (s : Slice) (who : TxnWho) (l : LineAddr) (born : Nat) : Job :=
  match who with
  | .cluster c => { s.clJob c l with born := born }
  | .tracker id => match s.trk? id with
    | some t => { s.trkJob t with key := .pa l }
    | none => s.bgJob (.pa l)
  | .victim | .recovery => s.bgJob (.pa l)

/-- The grant unit of a transaction's messages: a directory victim is taken for the request that waits for its entry. -/
def Slice.txnJob (s : Slice) (t : Txn) : Job :=
  match t.who with
  | .victim => match s.coh.txns.find? (fun u => u.waitVictim == some t.line) with
    | some u => s.whoJob u.who t.line u.born
    | none => s.bgJob (.pa t.line)
  | w => s.whoJob w t.line t.born

/-- Requests that need an entry. -/
def TxnKind.needsEntry : TxnKind → Bool
  | .rdS | .rdX | .upg | .far | .near => true
  | _ => false

def TxnWho.cluster? : TxnWho → Option Nat
  | .cluster c => some c
  | _ => none

/-- The snoops of the state table: message and clusters (R382). -/
def snoopsFor (k : TxnKind) (d : DirEnt) (c : Nat) : LwName × List Nat :=
  match k with
  | .rdS => (.snpS, if d.state = Dir.X then [d.owner] else [])
  | .rdX | .upg | .far =>
    if d.state = Dir.X then (.snpX, [d.owner])
    else (.snpInv, (clusters d.sharers).filter (· != c))
  | .ncRead => (.snpHome, if d.state = Dir.X then [d.owner] else [])
  | .near | .ncWrite | .victim => (.snpInv, clusters d.sharers)
  | .wb => (.snpInv, [])
  | .recovery => (.snpInv, List.range 32)

/-- An entry that is about to be used: state I, its tag, busy. -/
def DirEnt.fresh (l : LineAddr) : DirEnt :=
  { state := 0, owner := 0, lastupd := 63, tag := l, busy := true, sharers := 0 }

/-- The home orders a request whose entry, if it needs one, is there: BUSY is set and the snoops are sent. -/
def Slice.beginTxn (s : Slice) (g : List (Nat × BitVec 8)) (l : LineAddr) (who : TxnWho) (kind : TxnKind)
    (born : Nat := s.now) : Slice :=
  let c := who.cluster?.getD 32
  let d := match s.findEnt l with
    | some (_, d) => d
    | none => DirEnt.fresh l
  let s := match s.findEnt l with
    | some (e, d) => s.putEnt (setOf l) e { d with busy := true }
    | none => s
  let (name, cs) := snoopsFor kind d c
  let cs := cs.filter (fun k => !s.dead k)
  -- a request of the present owner itself has no row in the table: the grant is sent
  let own := d.state = Dir.X && d.owner = c && (kind == .rdS || kind == .rdX || kind == .upg || kind == .far)
  let cs := if own then [] else cs
  let t : Txn := { line := l, who := who, kind := kind, snoops := cs.map (fun k => (k, s.now)),
                   snooped := cs.foldl (fun m k => m ||| oneCluster k) 0, dataDue := 0, memDue := false, fromOwner := own,
                   granted := false, compDue := kind == .wb, hadX := false, timedOut := 0, wbp := 0, waitVictim := none,
                   born := born }
  let s := s.modCoh fun q => { q with txns := q.txns ++ [t] }
  let job := s.txnJob t
  let s := cs.foldl (fun s k => s.sendLW g { lwMsg name k l with reqr := c } job) s
  if kind == .wb then s.sendLW g (lwMsg .wbGo c l) job else s

/-- The home orders a request (R380): with a directory victim first when its set has no free entry. -/
def Slice.order (s : Slice) (g : List (Nat × BitVec 8)) (l : LineAddr) (who : TxnWho) (kind : TxnKind)
    (born : Nat := s.now) : Slice :=
  let set := setOf l
  if (s.findEnt l).isSome || !kind.needsEntry then s.beginTxn g l who kind born
  else
    let s := s.reapSet g set
    match s.freeEnt set with
    | some e => (s.putEnt set e (DirEnt.fresh l)).beginTxn g l who kind born
    | none =>
      match s.dirVictim set with
      | none => s
      | some e =>
        let v := (s.mem.ent set e).tag
        let s := (s.bump NS_DIR_EVT2.DIRVICT 1).ev Ev.DIR_VICTIM 1
        let t : Txn := { line := l, who := who, kind := kind, snoops := [], snooped := 0, dataDue := 0, memDue := false,
                         fromOwner := false, granted := false, compDue := false, hadX := false, timedOut := 0, wbp := 0,
                         waitVictim := some v, born := born }
        (s.modCoh fun q => { q with txns := q.txns ++ [t] }).beginTxn g v .victim .victim

/-- End a line's transaction, and free a write tracker that it held (R622), and leave its entry in `d`'s state, with dead clusters' copies treated as gone (R407). -/
def Slice.endTxn (s : Slice) (g : List (Nat × BitVec 8)) (l : LineAddr) (state owner lastupd : Nat) (sharers : BitVec 32)
    : Slice :=
  let s := match (s.txn? l).map txnTrk with
    | some .write => s.retire 1
    | _ => s
  let s := (s.modCoh fun q => { q with txns := q.txns.filter (fun t => t.line != l) }).retire 6
  match s.findEnt l with
  | none => s
  | some (e, _) =>
    let s := s.putEnt (setOf l) e { state := state, owner := owner, lastupd := lastupd, tag := l, busy := false,
                                    sharers := sharers }
    s.reapEntry g (setOf l) e

/-- The state the table gives a transaction's entry when it ends. -/
def Slice.finishTxn (s : Slice) (g : List (Nat × BitVec 8)) (t : Txn) : Slice :=
  let recovered := fun (s : Slice) => s.modCoh fun q => { q with recover := q.recover.filter (fun p => p.1 != t.line) }
  match s.findEnt t.line with
  | none => (if t.kind == .recovery then recovered else id) (s.endTxn g t.line 0 0 63 0)
  | some (_, d) =>
    let c := t.who.cluster?.getD 0
    match t.kind with
    | .rdS =>
      if d.state = Dir.X && d.owner = c then s.endTxn g t.line Dir.X c d.lastupd d.sharers
      else s.endTxn g t.line Dir.S 0 d.lastupd (d.sharers ||| oneCluster c)
    | .rdX | .upg => s.endTxn g t.line Dir.X c d.lastupd (oneCluster c)
    | .far => s.endTxn g t.line Dir.X c c (oneCluster c)
    | .near => s
    | .ncRead => s.endTxn g t.line (if d.state = Dir.X then Dir.S else d.state) 0 d.lastupd d.sharers
    | .ncWrite =>
      if d.state = Dir.U then s.endTxn g t.line Dir.U 0 d.lastupd 0 else s.endTxn g t.line 0 0 63 0
    | .wb | .victim => s.endTxn g t.line 0 0 63 0
    | .recovery =>
      let lost := d.state = Dir.X && !t.hadX
      let s := if lost then (s.poisonHome g t.line).bump NS_RC_RSTREC.RSTPOIS 1 else s
      recovered (s.endTxn g t.line 0 0 63 0)

/-- End a near atomic's transaction once it has been applied: state U with LASTUPD of its requester (R374). -/
def Slice.endNear (s : Slice) (g : List (Nat × BitVec 8)) (l : LineAddr) (cl : Option (BitVec 5)) : Slice :=
  match s.txn? l with
  | none => s
  | some _ => s.endTxn g l Dir.U 0 (match cl with
      | some c => c.toNat
      | none => 32) 0

/-- The requester of a transaction is a dead cluster. -/
def Slice.txnOrphan (s : Slice) (t : Txn) : Bool :=
  match t.who with
  | .cluster c => s.dead c
  | _ => false

/-- The home sends its copy with the grant (R391). -/
def Slice.sendHome (s : Slice) (g : List (Nat × BitVec 8)) (t : Txn) (d : LineData) (pz : BitVec 12) : Slice :=
  let c := t.who.cluster?.getD 0
  let s := s.sendLW g { lwMsg (if t.kind == .rdS then .dataS else .dataX) c t.line with
    data := d, pois := poisBits pz, flag := t.kind == .far } (s.txnJob t)
  s.modTxn t.line fun u => { u with granted := true, memDue := false, compDue := true }

/-- The home copy for a cluster's request: from the H way, or from memory (R385). -/
def Slice.supplyHome (s : Slice) (g : List (Nat × BitVec 8)) (t : Txn) : Slice :=
  let set := setOf t.line
  let rd := fun (s : Slice) =>
    (s.modTxn t.line fun u => { u with memDue := true }).memOp g
      (readOp t.line (.txn t.line) (s.txnJob t) false 0 0)
  let s := s.checkSetTags set
  match s.lookup Use.H t.line with
  | none => rd s
  | some w =>
    let (s, ok) := s.checkLine w set (tagSV (s.tag w set)) false
    if !ok then
      let s := s.bump NS_ECC_EVT2.REFETCH 1
      rd (s.setTag w set (setBUSY (setSD (setSV (s.tag w set) 0) 0) true))
    else if tagSV (s.tag w set) = 15 then s.sendHome g t (s.mem.readLine w set) (s.mem.poisonOf w set 15)
    else rd (s.setTag w set (setBUSY (s.tag w set) true))

/-- The memory copy reaches a transaction that asked for it. -/
def Slice.txnData (s : Slice) (g : List (Nat × BitVec 8)) (l : LineAddr) (d : LineData) (pz : BitVec 12) : Slice :=
  match s.txn? l with
  | none => s
  | some t =>
    let set := setOf l
    let busy := (s.waysOf Use.H).find? (fun w => tagBUSY (s.tag w set) && tagTAG (s.tag w set) == l)
    match busy with
    | some w =>
      let loss := s.lossOf (15 - tagSV (s.tag w set))
      let s := s.fillWay w set d pz
      s.sendHome g t (s.mem.readLine w set) (addCauses (s.mem.poisonOf w set 15) loss)
    | none => s.sendHome g t d (addCauses pz (s.lossOf 15))

/-- A transaction waits for answers or data. A shared copy is granted with the owner's SNP_ACK, and the owner's data for the home may
come later (R391). -/
def Txn.stands (t : Txn) : Bool :=
  t.waitVictim.isSome || !t.snoops.isEmpty || t.memDue || (0 < t.dataDue && !(t.kind == .rdS && t.fromOwner && !t.granted))

/-- All that is left of a transaction is data of its own on the way to memory: it waits in its tracker (R559). -/
def Slice.homeWaits (s : Slice) (t : Txn) : Bool :=
  s.chan.ops.any (fun o => o.why == .home t.line) && (match t.kind with
    | .rdS | .rdX | .upg | .far => t.granted && !t.compDue
    | .wb => !t.compDue
    | _ => true)

/-- Carry a transaction on as far as it can go. -/
def Slice.advanceTxn (s : Slice) (g : List (Nat × BitVec 8)) (l : LineAddr) : Slice :=
  match s.txn? l with
  | none => s
  | some t =>
    if t.stands || s.homeWaits t then s
    else
      let c := t.who.cluster?.getD 0
      let ent := s.findEnt l
      match t.kind with
      | .rdS | .rdX | .upg | .far =>
        if t.granted then
          if !t.compDue || s.txnOrphan t then s.finishTxn g t else s
        else if s.txnOrphan t then
          -- its requester died before the grant: what its owner may have sent it is lost with it, and what it sends the home is still due (R411)
          if 0 < t.dataDue then s
          else if t.fromOwner && t.kind != .rdS then s.finishTxn g t
          else match ent with
            | some (_, d) =>
              if t.kind == .rdS then s.endTxn g l (if d.state = Dir.X then Dir.S else d.state) 0 d.lastupd d.sharers
              else s.endTxn g l 0 0 63 0
            | none => s.endTxn g l 0 0 63 0
        else if t.fromOwner then
          let s := s.sendLW g { lwMsg (if t.kind == .rdS then .goS else .goX) c l with flag := t.kind == .far } (s.txnJob t)
          s.modTxn l fun u => { u with granted := true, compDue := true }
        else
          let held := match ent with
            | some (_, d) => d.state = Dir.S && bitAt d.sharers c
            | none => false
          if t.kind == .upg && held then
            (s.sendLW g (lwMsg .goX c l) (s.txnJob t)).modTxn l fun u => { u with granted := true, compDue := true }
          else s.supplyHome g t
      | .near =>
        if t.granted then s
        else
          let s := s.modTxn l fun u => { u with granted := true }
          match t.who with
          | .tracker id => s.modTrk id fun u => { u with stage := .ready }
          | _ => s
      | .ncRead | .ncWrite =>
        let s := s.finishTxn g t
        match t.who with
        | .tracker id => s.modTrk id fun u => { u with stage := .ready }
        | _ => s
      | .wb =>
        if !t.compDue then s.finishTxn g t
        else if s.txnOrphan t then
          -- the dead cluster owned the line and its data will not come (R407)
          ((s.poisonHome g l).modCoh fun q => { q with reclPoisoned := q.reclPoisoned + 1, reclCleared := q.reclCleared + 1 }).finishTxn g t
        else s
      | .victim | .recovery => s.finishTxn g t

/-- A request that waited for a directory victim gets the entry (R380). -/
def Slice.wakeTxn (s : Slice) (g : List (Nat × BitVec 8)) (t : Txn) : Slice :=
  match t.waitVictim with
  | none => s
  | some v =>
    if (s.txn? v).isSome then s
    else if s.dirSetBusy t.line then s
    else (s.modCoh fun q => { q with txns := q.txns.filter (fun u => u.line != t.line) }).order g t.line t.who t.kind t.born

/-- Carry every transaction on. -/
def Slice.advanceAll (s : Slice) (g : List (Nat × BitVec 8)) : Slice :=
  let adv := fun (s : Slice) => s.coh.txns.foldl (fun s t => s.advanceTxn g t.line) s
  if s.coh.txns.isEmpty then s
  else
    let s := adv s
    adv (s.coh.txns.foldl (fun s t => s.wakeTxn g t) s)

/-! ### Dead agents (R407, R408) -/

/-- R407 for the transactions that wait on cluster `c`: its snoop completes as SNP_ACK with HAD none; where it owned the line, the home
copy is poisoned and the requester is given that. So it is where it has announced dirty data for the home that has not come, and where
it has answered the snoop and the requester, granted the line, has not confirmed its data. -/
def Slice.reapTxns (s : Slice) (g : List (Nat × BitVec 8)) (c : Nat) : Slice :=
  s.coh.txns.foldl (fun s t =>
    let owes := decide ((0 : Int) < t.dataDue) && bitAt t.snooped c && (match s.findEnt t.line with
      | some (_, d) => d.state == Dir.X && d.owner == c
      | none => false)
    let silent := t.fromOwner && t.granted && t.compDue && t.who != .cluster c && bitAt t.snooped c && (match s.findEnt t.line with
      | some (_, d) => d.state == Dir.X && d.owner == c
      | none => false)
    if t.snoops.any (fun p => p.1 == c) || owes || silent then
      let s := s.modTxn t.line fun u => { u with
        snoops := u.snoops.filter (fun p => p.1 != c), dataDue := if owes then 0 else u.dataDue }
      match s.findEnt t.line with
      | some (e, d) =>
        if d.state = Dir.X && d.owner = c then
          let s := (s.poisonHome g t.line).modCoh fun q => { q with
            reclPoisoned := q.reclPoisoned + 1, reclCleared := q.reclCleared + 1 }
          let s := s.putEnt (setOf t.line) e { d with state := 0, owner := 0, sharers := 0, busy := true }
          if silent then s.sendHome g t 0 (allCause Cause.DEADAGENT) else s
        else if bitAt d.sharers c then
          let sh := d.sharers &&& ~~~(oneCluster c)
          let s := s.modCoh fun q => { q with reclCleared := q.reclCleared + 1 }
          s.putEnt (setOf t.line) e { d with sharers := sh, state := if sh = 0 then 0 else d.state }
        else s
      | none => s
    else s) s

/-- Every entry once (R408): the walk's own part. Each set it reads is checked (R378, R597). -/
def Slice.reapAll (s : Slice) (g : List (Nat × BitVec 8)) : Slice :=
  let words := s.mem.dir.map (·.1) ++ (s.mem.bkchk.filter (fun p => p.1 / 2 ^ 20 = 3)).map (fun p => p.1 % 2 ^ 20)
  let s := ((words.map (· / 16)).dedup).foldl Slice.checkSetDir s
  ((s.mem.dir.map (fun p => p.1 / 2)).dedup).foldl (fun s i => s.reapEntry g (i / 8) (i % 8)) s

end Sys2Proof.Machine
end

