-- ==== Sys2Proof/Machine/Operands.lean ====
section
/-! DEFINITION. Element formats and exact numbers (R194 to R208): what the codes of a format mean, the packing of elements in a
line, conversion between formats, and the exact arithmetic every reduction, atomic and epilogue step is made of. -/

namespace Sys2Proof.Machine

/-! ### Formats (R194, R196) -/

/-- Bits of an element by format code. -/
def fmtWidth (c : Nat) : Nat :=
  match c with
  | 0x0 => 64 | 0x1 => 32 | 0x2 => 16 | 0x3 => 16 | 0x4 => 8 | 0x5 => 8 | 0x6 => 6 | 0x7 => 6 | 0x8 => 4 | 0x9 => 32
  | 0xA => 16 | 0xB => 8 | 0xC => 8 | 0xD => 4 | 0xE => 8 | _ => 8

/-- Elements of a line (R196). -/
def fmtPerLine (c : Nat) : Nat := if fmtWidth c = 6 then 160 else 1024 / fmtWidth c

/-- Element `i` of a line. -/
def getElt (d : LineData) (c i : Nat) : Nat := getBits d (fmtWidth c * i) (fmtWidth c)

/-- A line whose elements `i < n` are `f i` and whose other bits are zero. -/
def lineOfElts (c n : Nat) (f : Nat → Nat) : LineData :=
  (List.range n).foldl (fun d i => d ||| (BitVec.ofNat 1024 (f i % 2 ^ fmtWidth c) <<< (fmtWidth c * i))) 0

/-- A floating-point format: exponent and fraction widths, bias, and whether it has infinities and NaNs. `nan` 0: none, 1: only
with every bit after the sign 1, 2: IEEE. -/
structure FpFmt where
  eb : Nat
  mb : Nat
  bias : Nat
  inf : Bool
  nan : Nat
  deriving DecidableEq, Repr

/-- The floating-point formats of R194. -/
def fpFmt (c : Nat) : Option FpFmt :=
  match c with
  | 0x0 => some ⟨11, 52, 1023, true, 2⟩
  | 0x1 => some ⟨8, 23, 127, true, 2⟩
  | 0x2 => some ⟨8, 7, 127, true, 2⟩
  | 0x3 => some ⟨5, 10, 15, true, 2⟩
  | 0x4 => some ⟨4, 3, 7, false, 1⟩
  | 0x5 => some ⟨5, 2, 15, true, 2⟩
  | 0x6 => some ⟨3, 2, 3, false, 0⟩
  | 0x7 => some ⟨2, 3, 1, false, 0⟩
  | 0x8 => some ⟨2, 1, 1, false, 0⟩
  | _ => none

/-- Integer formats: width and whether signed. -/
def intFmt (c : Nat) : Option (Nat × Bool) :=
  match c with
  | 0x9 => some (32, true) | 0xA => some (16, true) | 0xB => some (8, true) | 0xC => some (8, false) | 0xD => some (4, true)
  | _ => none

/-! ### Exact values -/

/-- A value: NaN (signalling or quiet), an infinity, or ± m × 2^e with the sign of a zero kept. -/
inductive Num where
  | nan (signalling : Bool)
  | inf (neg : Bool)
  | fin (neg : Bool) (m : Nat) (e : Int)
  deriving DecidableEq, Repr

def Num.zero : Num := .fin false 0 0
def Num.isNan : Num → Bool
  | .nan _ => true
  | _ => false
def Num.isInf : Num → Bool
  | .inf _ => true
  | _ => false
def Num.neg : Num → Num
  | .nan s => .nan s
  | .inf n => .inf (!n)
  | .fin n m e => .fin (!n) m e

/-- The value of an integer. -/
def Num.ofInt (i : Int) : Num := .fin (decide (i < 0)) i.natAbs 0

/-- Decode a floating-point code (R194, R199, R201). -/
def decodeFp (f : FpFmt) (b : Nat) : Num :=
  let frac := b % 2 ^ f.mb
  let ex := b / 2 ^ f.mb % 2 ^ f.eb
  let sg := b / 2 ^ (f.mb + f.eb) % 2 == 1
  let top := ex == 2 ^ f.eb - 1
  if f.nan == 2 && top then
    if frac = 0 then .inf sg else .nan (frac < 2 ^ (f.mb - 1))
  else if f.nan == 1 && top && frac == 2 ^ f.mb - 1 then .nan false
  else if ex = 0 then .fin sg frac (1 - (f.bias : Int) - f.mb)
  else .fin sg (2 ^ f.mb + frac) ((ex : Int) - f.bias - f.mb)

/-- A two's-complement or unsigned code as an integer. -/
def decodeInt (w : Nat) (signed : Bool) (b : Nat) : Int :=
  let b := b % 2 ^ w
  if signed && 2 ^ (w - 1) ≤ b then (b : Int) - 2 ^ w else b

/-- The value of an element of format `c` (E8M0 is a scale: 2^(b − 127), NaN at 0xFF). -/
def decodeElt (c b : Nat) : Num :=
  match fpFmt c with
  | some f => decodeFp f b
  | none =>
    match intFmt c with
    | some (w, sg) => Num.ofInt (decodeInt w sg b)
    | none => if c = 0xE then (if b % 256 = 255 then .nan false else .fin false 1 ((b % 256 : Nat) - (127 : Int))) else .nan false

/-- The signed integer a finite value is, scaled to exponent `e` (which is at most its own). -/
def scaleTo (neg : Bool) (m : Nat) (e0 e : Int) : Int :=
  let k : Int := (m * 2 ^ (e0 - e).toNat : Nat)
  if neg then -k else k

/-- Exact sum (R219, R220, R230). -/
def Num.add (a b : Num) : Num :=
  match a, b with
  | .nan s, .nan t => .nan (s || t)
  | .nan s, _ => .nan s
  | _, .nan t => .nan t
  | .inf n, .inf k => if n == k then .inf n else .nan false
  | .inf n, _ => .inf n
  | _, .inf n => .inf n
  | .fin n m e, .fin k l d =>
    let q := min e d
    let r := scaleTo n m e q + scaleTo k l d q
    if r = 0 then .fin (n && k && m == 0 && l == 0) 0 q else .fin (decide (r < 0)) r.natAbs q

/-- Exact product, with the special values of IEEE 754. -/
def Num.mul (a b : Num) : Num :=
  match a, b with
  | .nan s, .nan t => .nan (s || t)
  | .nan s, _ => .nan s
  | _, .nan t => .nan t
  | .inf n, .inf k => .inf (n != k)
  | .inf n, .fin k l _ => if l = 0 then .nan false else .inf (n != k)
  | .fin n m _, .inf k => if m = 0 then .nan false else .inf (n != k)
  | .fin n m e, .fin k l d => .fin (n != k) (m * l) (e + d)

/-- The order −infinity < negative finites < −0 < +0 < positive finites < +infinity (R223), NaN aside: `a` below `b`. -/
def Num.below (a b : Num) : Bool :=
  match a, b with
  | .nan _, _ => false
  | _, .nan _ => false
  | .inf n, .inf k => n && !k
  | .inf n, .fin _ _ _ => n
  | .fin _ _ _, .inf k => !k
  | .fin n m e, .fin k l d =>
    let q := min e d
    let x := scaleTo n m e q
    let y := scaleTo k l d q
    decide (x < y) || (x == 0 && y == 0 && n && !k)

/-! ### Rounding and conversion (R204 to R208, R293) -/

/-- The rounding in force: to nearest even, or stochastic with this draw (R293). -/
inductive Rnd where
  | rne
  | sr (draw : Nat)
  deriving DecidableEq, Repr

/-- `m / 2^sh` rounded to an integer. -/
def roundShift (r : Rnd) (m sh : Nat) : Nat :=
  let q := m >>> sh
  let rem := m % 2 ^ sh
  match r with
  | .rne =>
    if sh = 0 then q
    else if 2 ^ (sh - 1) < rem then q + 1
    else if rem = 2 ^ (sh - 1) && q % 2 == 1 then q + 1
    else q
  | .sr draw =>
    let f := if 16 ≤ sh then (m >>> (sh - 16)) % 65536 else (m <<< (16 - sh)) % 65536
    if draw < f then q + 1 else q

/-- ± m × 2^e rounded to a multiple of 2^q: the multiple. -/
def roundAt (r : Rnd) (m : Nat) (e q : Int) : Nat :=
  if q ≤ e then m * 2 ^ (e - q).toNat else roundShift r m (q - e).toNat

/-- The exponent of the last place of a nonzero magnitude in a format with `mb` fraction bits and least exponent `emin`. -/
def ulpExp (mb : Nat) (emin : Int) (m : Nat) (e : Int) : Int := max ((Nat.log2 m : Int) + e - mb) emin

/-- The least last-place exponent of a format. -/
def FpFmt.emin (f : FpFmt) : Int := 1 - (f.bias : Int) - f.mb

/-- The largest finite magnitude, as a multiple of its last place and that place's exponent. -/
def FpFmt.maxFin (f : FpFmt) : Nat × Int :=
  let topEx : Nat := if f.nan = 2 then 2 ^ f.eb - 2 else 2 ^ f.eb - 1
  let frac : Nat := if f.nan = 1 then 2 ^ f.mb - 2 else 2 ^ f.mb - 1
  (2 ^ f.mb + frac, (topEx : Int) - f.bias - f.mb)

/-- k × 2^q exceeds n × 2^p. -/
def magAbove (k : Nat) (q : Int) (n : Nat) (p : Int) : Bool :=
  let z := min q p
  decide (n * 2 ^ (p - z).toNat < k * 2 ^ (q - z).toNat)

/-- The code of a magnitude k × 2^q that the format holds exactly, `q` the exponent of its last place. -/
def FpFmt.encMag (f : FpFmt) (k : Nat) (q : Int) : Nat :=
  let (k, q) := if k = 2 ^ (f.mb + 1) then (k / 2, q + 1) else (k, q)
  if k < 2 ^ f.mb then k else (q - f.emin + 1).toNat * 2 ^ f.mb + (k - 2 ^ f.mb)

def FpFmt.signBit (f : FpFmt) (neg : Bool) : Nat := if neg then 2 ^ (f.eb + f.mb) else 0
def FpFmt.infCode (f : FpFmt) : Nat := (2 ^ f.eb - 1) * 2 ^ f.mb
/-- The canonical quiet NaN (R200). -/
def FpFmt.nanCode (f : FpFmt) : Nat := if f.nan = 1 then 2 ^ (f.eb + f.mb) - 1 else f.infCode + 2 ^ (f.mb - 1)
def FpFmt.maxCode (f : FpFmt) : Nat := f.encMag f.maxFin.1 f.maxFin.2

/-- What a conversion or an addition delivers, with the flags it sets. -/
structure Conv where
  bits : Nat
  of : Bool
  nv : Bool
  iovf : Bool
  deriving DecidableEq, Repr

/-- A value the slice converts: a number, or the INT32 overflow code of a SUM group. -/
inductive Src where
  | num (n : Num)
  | ovf
  deriving DecidableEq, Repr

/-- The saturation code of an integer target (R205). -/
def satCode (c : Nat) : Nat :=
  match c with
  | 0x9 => 0x80000000 | 0xA => 0x8000 | 0xB => 0x80 | 0xC => 0xFF | _ => 0x8

/-- Conversion into a floating-point format (R204). -/
def convFp (f : FpFmt) (r : Rnd) (v : Num) : Conv :=
  match v with
  | .nan _ => if f.nan = 0 then ⟨0, false, true, false⟩ else ⟨f.nanCode, false, false, false⟩
  | .inf n => if f.inf then ⟨f.signBit n + f.infCode, false, false, false⟩ else ⟨f.signBit n + f.maxCode, true, false, false⟩
  | .fin n m e =>
    if m = 0 then ⟨f.signBit n, false, false, false⟩
    else
      let q := ulpExp f.mb f.emin m e
      let k := roundAt r m e q
      if magAbove k q f.maxFin.1 f.maxFin.2 then
        ⟨f.signBit n + (if f.inf then f.infCode else f.maxCode), true, false, false⟩
      else ⟨f.signBit n + f.encMag k q, false, false, false⟩

/-- Conversion into an integer format (R204, R205). -/
def convInt (w : Nat) (signed : Bool) (r : Rnd) (v : Num) : Conv :=
  let hi : Int := if signed then 2 ^ (w - 1) - 1 else 2 ^ w - 1
  let lo : Int := if signed then -(2 ^ (w - 1)) else 0
  let enc := fun (i : Int) => (i % 2 ^ w).toNat
  match v with
  | .nan _ => ⟨0, false, true, false⟩
  | .inf n => ⟨enc (if n then lo else hi), true, false, false⟩
  | .fin n m e =>
    let k : Int := roundAt r m e 0
    let i := if n then -k else k
    if hi < i then ⟨enc hi, true, false, false⟩
    else if i < lo then ⟨enc lo, true, false, false⟩
    else ⟨enc i, false, false, false⟩

/-- Conversion of R204 into the element format `c`. -/
def convert (c : Nat) (r : Rnd) (v : Src) : Conv :=
  match v with
  | .num n =>
    match fpFmt c with
    | some f => convFp f r n
    | none => match intFmt c with
      | some (w, sg) => convInt w sg r n
      | none => ⟨0, false, false, false⟩
  | .ovf =>
    match fpFmt c with
    | some f => ⟨if f.nan = 0 then 0 else f.nanCode, false, false, true⟩
    | none => ⟨satCode c, false, false, true⟩

/-- Round a value into a format (round_A of R219, rne32 of R287). -/
def roundFp (c : Nat) (v : Num) : Conv := convert c .rne (.num v)

/-- A rounded floating-point sum of two codes (R219, R220, R362), with the flags of R229, R230 and R201. -/
def addFp (c a b : Nat) : Conv :=
  let x := decodeElt c a
  let y := decodeElt c b
  let s := x.add y
  let sig := match x, y with
    | .nan true, _ => true
    | _, .nan true => true
    | _, _ => false
  let inv := s.isNan && !x.isNan && !y.isNan
  let r := roundFp c s
  { r with nv := sig || inv }

end Sys2Proof.Machine
end

