-- ==== Sys2Proof/Machine/Flags.lean ====
section
/-! DEFINITION. The sticky flags of the arithmetic units: NS_RA_STICKY and the group's own copy (R252), NS_FP_STICKY (R352),
NS_UU_STICKY (R414). -/

namespace Sys2Proof.Machine

/-- Flags of a reduction in the bit order of NS_RA_STICKY[7:0] (R252). -/
structure RaFlags where
  nanin : Bool := false
  nv : Bool := false
  of : Bool := false
  iovf : Bool := false
  xovf : Bool := false
  rejfmt : Bool := false
  rejcmb : Bool := false
  poison : Bool := false
  deriving DecidableEq, Repr

def RaFlags.none : RaFlags := {}
def RaFlags.bits (f : RaFlags) : Nat :=
  b2n f.nanin + 2 * b2n f.nv + 4 * b2n f.of + 8 * b2n f.iovf + 16 * b2n f.xovf + 32 * b2n f.rejfmt + 64 * b2n f.rejcmb
    + 128 * b2n f.poison
def RaFlags.or (a b : RaFlags) : RaFlags :=
  { nanin := a.nanin || b.nanin, nv := a.nv || b.nv, of := a.of || b.of, iovf := a.iovf || b.iovf, xovf := a.xovf || b.xovf,
    rejfmt := a.rejfmt || b.rejfmt, rejcmb := a.rejcmb || b.rejcmb, poison := a.poison || b.poison }
def Conv.ra (c : Conv) : RaFlags := { nv := c.nv, of := c.of, iovf := c.iovf }

/-- Set the flags a reduction raised, slice-wide and in the group's status. -/
def Slice.raFlags (s : Slice) (grp : Nat) (f : RaFlags) : Slice :=
  if f.bits = 0 then s
  else
    let w := s.rd Reg.NS_RA_STICKY ||| BitVec.ofNat 64 f.bits
    let s := s.wr Reg.NS_RA_STICKY w
    s.setFld (NS_GRPSTAT.FLAGS grp) (Nat.lor (s.fld (NS_GRPSTAT.FLAGS grp)) f.bits)

/-- Flags of the format port in the bit order of NS_FP_STICKY (R352), and raised blocks. -/
structure FpFlags where
  nv : Bool := false
  of : Bool := false
  nanblk : Bool := false
  infblk : Bool := false
  sclamp : Bool := false
  scaleup : Nat := 0
  deriving DecidableEq, Repr

def FpFlags.or (a b : FpFlags) : FpFlags :=
  { nv := a.nv || b.nv, of := a.of || b.of, nanblk := a.nanblk || b.nanblk, infblk := a.infblk || b.infblk,
    sclamp := a.sclamp || b.sclamp, scaleup := a.scaleup + b.scaleup }

def Slice.fpFlags (s : Slice) (f : FpFlags) : Slice :=
  let bits := 2 * b2n f.nv + 4 * b2n f.of + 8 * b2n f.nanblk + 16 * b2n f.infblk + 32 * b2n f.sclamp
  let s := if bits = 0 then s else s.wr Reg.NS_FP_STICKY (s.rd Reg.NS_FP_STICKY ||| BitVec.ofNat 64 bits)
  if f.scaleup = 0 then s else (s.bump NS_FP_EVT.SCALEUP f.scaleup).ev Ev.SCALEUP f.scaleup

/-- Set NV and OF of the update unit (R362). -/
def Slice.uuFlags (s : Slice) (nv of : Bool) : Slice :=
  let s := if nv then s.setFld NS_UU_STICKY.NV 1 else s
  if of then s.setFld NS_UU_STICKY.OF 1 else s

end Sys2Proof.Machine
end

