-- ==== Sys2Proof/Machine/Reduce.lean ====
section
/-! DEFINITION. Reduction arithmetic, element by element (R209 to R247), the MX block encoder and decoder (R197, R198, R335), and
the epilogue's steps (R286 to R293). -/

namespace Sys2Proof.Machine

/-! ### Operators and accumulators (R209 to R212) -/

abbrev ROp.SUM : Nat := 0
abbrev ROp.MAX : Nat := 1
abbrev ROp.MIN : Nat := 2
abbrev ROp.ARGMAX : Nat := 3
abbrev ROp.ARGMIN : Nat := 4
abbrev ROp.AND : Nat := 5
abbrev ROp.OR : Nat := 6
abbrev ROp.XOR : Nat := 7

/-- ARGMAX or ARGMIN. -/
def isArg (op : Nat) : Bool := op == ROp.ARGMAX || op == ROp.ARGMIN
/-- AND, OR or XOR. -/
def isBit (op : Nat) : Bool := op == ROp.AND || op == ROp.OR || op == ROp.XOR

abbrev AccF.INT32 : Nat := 4
def isExact (acc : Nat) : Bool := acc == 5 || acc == 6

/-- The element format a non-exact accumulator holds. -/
def accFmt (acc : Nat) : Nat :=
  match acc with
  | 0 => 0x1 | 1 => 0x2 | 2 => 0x3 | 3 => 0x0 | _ => 0x9

/-- Bytes of an accumulator element (R210). -/
def accBytes (acc : Nat) : Nat :=
  match acc with
  | 0 => 4 | 1 => 2 | 2 => 2 | 3 => 8 | 4 => 4 | 5 => 40 | _ => 20

/-- Permitted pairs of operator and accumulator (R211). -/
def pairOk (op acc : Nat) : Bool :=
  if op = ROp.SUM then acc ≤ 6
  else if op = ROp.MAX || op = ROp.MIN then acc ≤ 4
  else if isArg op then acc == 0 || acc == 4
  else if isBit op then acc == 4
  else false

/-- Arrival formats an accumulator accepts, the MX bit being 0 (R212). -/
def accAccepts (acc c : Nat) : Bool :=
  match acc with
  | 3 => c ≤ 0xD
  | 0 => (1 ≤ c && c ≤ 8) || (0xA ≤ c && c ≤ 0xD)
  | 1 => c == 2 || (4 ≤ c && c ≤ 8) || (0xB ≤ c && c ≤ 0xD)
  | 2 => c == 3 || (4 ≤ c && c ≤ 8) || (0xB ≤ c && c ≤ 0xD)
  | 4 => 9 ≤ c && c ≤ 0xD
  | 5 => (2 ≤ c && c ≤ 8) || (0xA ≤ c && c ≤ 0xD)
  | 6 => (4 ≤ c && c ≤ 8) || (0xB ≤ c && c ≤ 0xD)
  | _ => false

/-- Formats a group of this operator and accumulator accepts, ARGMAX and ARGMIN only up to 32 bits (R212). -/
def opAccepts (op acc c : Nat) : Bool := accAccepts acc c && !(isArg op && 32 < fmtWidth c)

/-- The identity of an operator in an accumulator (R218). -/
def identityOf (op acc : Nat) : Nat :=
  if isExact acc then 0
  else if op = ROp.MAX || op = ROp.ARGMAX then
    match fpFmt (accFmt acc) with
    | some f => f.signBit true + f.infCode
    | none => 0x80000000
  else if op = ROp.MIN || op = ROp.ARGMIN then
    match fpFmt (accFmt acc) with
    | some f => f.infCode
    | none => 0x7FFFFFFF
  else if op = ROp.AND then 0xFFFFFFFF
  else 0

/-! ### One element (R219 to R231) -/

/-- The flags any arrival element raises: NANIN for a NaN (R231), NV for a signalling one (R201). -/
def arrivalFlags (x : Num) : RaFlags :=
  match x with
  | .nan s => { nanin := true, nv := s }
  | _ => {}

/-- An arrival integer extended to 32 bits by value (the rule above R223). -/
def toInt32 (c x : Nat) : Nat :=
  match intFmt c with
  | some (w, sg) => ((decodeInt w sg x) % 2 ^ 32).toNat
  | none => 0

/-- A value the accumulator format holds exactly, as its code. -/
def exactCode (fmt : Nat) (v : Num) : Nat := (roundFp fmt v).bits

/-- Combine one arrival element, code `x` of format `c`, into the accumulator element `a` of a non-exact group other than ARGMAX
and ARGMIN (R219 to R224, R227, R229 to R231). An INT32 SUM element that already holds the overflow code and meets that code again has not
reached it once more: IOVF is not set (R222, R252; DESIGN CHOICE, assumption 134). -/
def combineElt (op acc a c x : Nat) : Nat × RaFlags :=
  let xv := decodeElt c x
  let fl := arrivalFlags xv
  if acc = AccF.INT32 then
    let xi := toInt32 c x
    let ai := decodeInt 32 true a
    let xs := decodeInt 32 true xi
    if op = ROp.SUM then
      if a = 0x80000000 then (a, fl)
      else if xi = 0x80000000 then (0x80000000, { fl with iovf := true })
      else
        let r := ai + xs
        if -(2 ^ 31) < r && r < 2 ^ 31 then ((r % 2 ^ 32).toNat, fl) else (0x80000000, { fl with iovf := true })
    else if op = ROp.MAX then (if ai < xs then xi else a, fl)
    else if op = ROp.MIN then (if xs < ai then xi else a, fl)
    else if op = ROp.AND then (Nat.land a xi, fl)
    else if op = ROp.OR then (Nat.lor a xi, fl)
    else (Nat.xor a xi, fl)
  else
    let f := accFmt acc
    let av := decodeElt f a
    if op = ROp.SUM then
      let s := av.add xv
      let r := roundFp f s
      (r.bits, fl.or { of := r.of, nv := s.isNan && !av.isNan && !xv.isNan })
    else if av.isNan || xv.isNan then (exactCode f (.nan false), fl)
    else if op = ROp.MAX then (if av.below xv then exactCode f xv else a, fl)
    else (if xv.below av then exactCode f xv else a, fl)

/-- The rank of a value for ARGMAX and ARGMIN against another: below, with every NaN above +infinity for ARGMAX and below
−infinity for ARGMIN (R225). -/
def rankBelow (op : Nat) (a b : Num) : Bool :=
  if op = ROp.ARGMAX then (b.isNan && !a.isNan) || a.below b
  else (a.isNan && !b.isNan) || a.below b

/-- Combine a value and index pair (R226). -/
def combineArg (op acc a ai c x xi : Nat) : Nat × Nat × RaFlags :=
  let f := accFmt acc
  let xb := if acc = AccF.INT32 then toInt32 c x else exactCode f (decodeElt c x)
  let av := decodeElt f a
  let xv := decodeElt f xb
  let fl := arrivalFlags (decodeElt c x)
  let better := if op = ROp.ARGMAX then rankBelow op av xv else rankBelow op xv av
  let worse := if op = ROp.ARGMAX then rankBelow op xv av else rankBelow op av xv
  if better || (!worse && xi < ai) then (xb, xi, fl) else (a, ai, fl)

/-! ### Exact accumulators (R239 to R247) -/

/-- Bits of the value field, and the exponent of its bit 0. -/
def exactBits (acc : Nat) : Nat := if acc = 5 then 318 else 158
def exactLow (acc : Nat) : Int := if acc = 5 then -133 else -16

def exactState (acc a : Nat) : Nat := a / 2 ^ exactBits acc % 4
def exactValue (acc a : Nat) : Int := decodeInt (exactBits acc) true a
def exactPack (acc st : Nat) (v : Int) : Nat := st * 2 ^ exactBits acc + (v % 2 ^ exactBits acc).toNat

/-- Combine an arrival element into an exact element (R242 to R244). -/
def combineExact (acc a c x : Nat) : Nat × RaFlags :=
  let xv := decodeElt c x
  let fl := arrivalFlags xv
  let st := exactState acc a
  let v := exactValue acc a
  match xv with
  | .fin n m e =>
    let r := v + scaleTo n m e (exactLow acc)
    if -(2 ^ (exactBits acc - 1)) ≤ r && r < 2 ^ (exactBits acc - 1) then (exactPack acc st r, fl)
    else (exactPack acc 3 v, { fl with xovf := true })
  | .inf n =>
    let mine := if n then 2 else 1
    if st = 0 || st = mine then (exactPack acc mine v, fl)
    else (exactPack acc 3 v, { fl with nv := fl.nv || st != 3 })
  | .nan _ => (exactPack acc 3 v, fl)

/-- The value of a closing exact element (R246, R247). -/
def exactNum (acc a : Nat) : Num :=
  match exactState acc a with
  | 0 =>
    let v := exactValue acc a
    .fin (decide (v < 0)) v.natAbs (exactLow acc)
  | 1 => .inf false
  | 2 => .inf true
  | _ => .nan false

/-- The value an accumulator element hands to the epilogue: the INT32 overflow code only in a SUM group (R206). -/
def accSrc (op acc a : Nat) : Src :=
  if isExact acc then .num (exactNum acc a)
  else if acc = AccF.INT32 && op = ROp.SUM && a = 0x80000000 then .ovf
  else .num (decodeElt (accFmt acc) a)

/-! ### MX blocks (R197, R198, R335, R336) -/

/-- EMAX by element format code. -/
def mxEmax (c : Nat) : Int :=
  match c with
  | 0x4 => 8 | 0x5 => 15 | 0x6 => 4 | 0x7 => 2 | 0x8 => 2 | _ => 0

/-- A value rounded to an MX element format with no upper bound: its multiple of the last place, that place's exponent. -/
def mxRound (c : Nat) (n : Num) : Bool × Nat × Int :=
  match n with
  | .fin sg m e =>
    if m = 0 then (sg, 0, 0)
    else match fpFmt c with
      | some f =>
        let q := ulpExp f.mb f.emin m e
        (sg, roundAt .rne m e q, q)
      | none => (sg, roundAt .rne m e (-6), -6)
  | _ => (false, 0, 0)

/-- A rounded element lies outside the format's range (the table of R335; MXINT8 from −2 to 127 ÷ 64). -/
def mxOutside (c : Nat) (p : Bool × Nat × Int) : Bool :=
  match fpFmt c with
  | some f => magAbove p.2.1 p.2.2 f.maxFin.1 f.maxFin.2
  | none => if p.1 then 128 < p.2.1 else 127 < p.2.1

/-- The code of a rounded element, replaced by the nearest end of the range where it lies outside. -/
def mxCode (c : Nat) (p : Bool × Nat × Int) : Nat :=
  match fpFmt c with
  | some f => f.signBit (p.1) + (if mxOutside c p then f.maxCode else if p.2.1 = 0 then 0 else f.encMag p.2.1 p.2.2)
  | none =>
    let k := if p.1 then min p.2.1 128 else min p.2.1 127
    if p.1 then (256 - k) % 256 else k

/-- v × 2^k. -/
def Num.shift (v : Num) (k : Int) : Num :=
  match v with
  | .fin n m e => .fin n m (e + k)
  | v => v

/-- mx_encode of R335: the scale, the 32 codes and the flags. -/
def mxEncode (c : Nat) (v : List Num) : Nat × List Nat × FpFlags :=
  if v.any Num.isNan then (0xFF, v.map (fun _ => 0), { nanblk := true })
  else if v.any Num.isInf && c != 0x5 then (0xFF, v.map (fun _ => 0), { infblk := true })
  else
    let top := v.foldl (fun (t : Option Int) n => match n with
      | .fin _ m e => if m = 0 then t else
          let l := (Nat.log2 m : Int) + e
          some (match t with | none => l | some u => max u l)
      | _ => t) none
    let x0 : Nat := match top with
      | none => 0
      | some l => (min (max (l - mxEmax c + 127) 0) 0xFE).toNat
    let enc := fun (x : Nat) => v.map (fun n => mxRound c (n.shift (127 - (x : Int))))
    let out := fun (ps : List (Bool × Nat × Int)) => ps.any (mxOutside c)
    let raise := out (enc x0) && x0 < 0xFE
    let x := if raise then x0 + 1 else x0
    let ps := enc x
    let codes := (v.zip ps).map fun (n, p) => match n with
      | .inf sg => (match fpFmt c with
        | some f => f.signBit sg + f.infCode
        | none => 0)
      | _ => mxCode c p
    (x, codes, { sclamp := out ps, scaleup := b2n raise })

/-- The value of an MX element under its scale byte (R197, R198). -/
def mxDecode (c scale p : Nat) : Num :=
  if scale % 256 = 255 then .nan false
  else
    let v := match fpFmt c with
      | some f => decodeFp f p
      | none => (Num.ofInt (decodeInt 8 true p)).shift (-6)
    v.shift ((scale % 256 : Nat) - (127 : Int))

/-! ### Activations (R289, R290) -/

/-- Fractional bits of the fixed-point evaluation. -/
def actP : Nat := 640

/-- e^(−t / 2^actP) as a fixed-point number, for t below 2^(actP + 8): argument reduction by 2^9, the alternating series, nine
squarings. Its error is below 2^20 last places. -/
def expNeg (t : Nat) : Nat :=
  let one := 2 ^ actP
  let u := t / 512
  let (sum, _, _) := (List.range 100).foldl (fun (p : Int × Nat × Bool) i =>
    let (acc, term, pos) := p
    let term := term * u / one / (i + 1)
    ((if pos then acc + term else acc - term), term, !pos)) ((one : Int), one, false)
  (List.range 9).foldl (fun x _ => x * x / one) sum.toNat

/-- Round the positive magnitude between `lo` and `hi`, multiples of 2^q, to FP32 with a sign, if both ends round alike. -/
def settle32 (neg : Bool) (lo hi : Nat) (q : Int) : Option Nat :=
  let a := (roundFp 0x1 (.fin neg lo q)).bits
  let b := (roundFp 0x1 (.fin neg hi q)).bits
  if a = b then some a else none

/-- v × σ(y), where |y| = num / den (R290): exact real arithmetic rounded once, found by enclosing it; a value the enclosure
does not settle is the free value. -/
def timesSigmoid (gelu : Bool) (code : Nat) (neg : Bool) (m : Nat) (e : Int) (num den : Nat) : Nat :=
  if m = 0 then (if neg then 0x80000000 else 0)
  else if 256 * den ≤ num then (if neg then 0x80000000 else code)
  else
    let one := 2 ^ actP
    let ex := expNeg (num * one / den)
    let slack := 2 ^ 20
    let lo := ex - slack
    let hi := ex + slack
    -- positive: 1 / (1 + E); negative: E / (1 + E)
    let sLo := if neg then lo * one / (one + lo) else one * one / (one + hi)
    let sHi := if neg then hi * one / (one + hi) + 1 else one * one / (one + lo) + 1
    match settle32 neg (m * sLo) (m * sHi) (e - actP) with
    | some r => r
    | none => (Config.actOpen gelu (BitVec.ofNat 32 code)).toNat

/-- The activation of R289 and R290 on an FP32 code. ACT 0 identity, 1 ReLU, 2 clamp, 3 GELU, 4 SiLU. -/
def activate (act clampLo clampHi v : Nat) : Nat :=
  let x := decodeElt 0x1 v
  match act with
  | 1 => (match x with
    | .nan _ => 0x7FC00000
    | _ => if Num.zero.below x then v else 0)
  | 2 => (match x with
    | .nan _ => 0x7FC00000
    | _ =>
      let lo := decodeElt 0x1 clampLo
      let hi := decodeElt 0x1 clampHi
      let a := if x.below lo then clampLo else v
      let av := decodeElt 0x1 a
      if hi.below av then clampHi else a)
  | 3 => (match x with
    | .nan _ => 0x7FC00000
    | .inf n => if n then 0x80000000 else 0x7F800000
    | .fin n m e =>
      -- 2z = 2c(|v| + a|v|³), c = 79788456 / 10^8, a = 44715 / 10^6
      let den0 := 10 ^ 14
      let lin := 2 * 79788456 * 10 ^ 6
      let cub := 2 * 79788456 * 44715
      if 0 ≤ e then
        let a := m * 2 ^ e.toNat
        timesSigmoid true v n m e (lin * a + cub * a ^ 3) den0
      else
        let d := 2 ^ (-e).toNat
        timesSigmoid true v n m e (lin * m * d ^ 2 + cub * m ^ 3) (den0 * d ^ 3))
  | 4 => (match x with
    | .nan _ => 0x7FC00000
    | .inf n => if n then 0x80000000 else 0x7F800000
    | .fin n m e =>
      if 0 ≤ e then timesSigmoid false v n m e (m * 2 ^ e.toNat) 1
      else timesSigmoid false v n m e m (2 ^ (-e).toNat))
  | _ => v

/-! ### The stochastic draw (R293) -/

/-- sr_draw of R293. -/
def srDraw (seed e : Nat) : Nat :=
  let w := 2 ^ 32
  let x := Nat.xor seed (e * 0x9E3779B9 % w)
  let x := Nat.xor x (x / 65536)
  let x := x * 0x85EBCA6B % w
  let x := Nat.xor x (x / 2 ^ 13)
  let x := x * 0xC2B2AE35 % w
  let x := Nat.xor x (x / 65536)
  x % 65536

end Sys2Proof.Machine
end

