-- ==== Sys2Proof/Machine/Vitrine.lean ====
section
/-! DEFINITION. The vitrine (chapter "The Vitrine and the Bulk Engine"): regions and permission (R132 to R138), initialised sectors
(R139 to R145), and reads and writes of vitrine lines and byte ranges. -/

namespace Sys2Proof.Machine

/-! ### Regions (R132 to R137) -/

/-- Region `n` is enabled and covers the granule. -/
def Slice.regionHas (s : Slice) (n gran : Nat) : Bool :=
  s.flag (NS_VT_REGION.EN n) && s.fld (NS_VT_REGION.BASE n) ≤ gran && gran ≤ s.fld (NS_VT_REGION.LIMIT n)

/-- A vitrine line is permitted for a context (R136); `line` is offset bits [23:7]. -/
def Slice.vtPermit (s : Slice) (ctx : BitVec 12) (line : Nat) : Bool :=
  (List.range 64).any fun n => s.regionHas n (line / 32) &&
    (s.flag (NS_VT_REGION.SHARED n) || s.fld (NS_VT_REGION.CTX n) == ctx.toNat)

/-- Every line of the byte range [o, o + n) is permitted; an empty range is. Regions are whole granules. -/
def Slice.vtPermitRange (s : Slice) (ctx : BitVec 12) (o n : Nat) : Bool :=
  n == 0 || (List.range ((o + n - 1) / 4096 - o / 4096 + 1)).all fun i => s.vtPermit ctx (32 * (o / 4096 + i))

/-- Every way of the byte range [o, o + n) is a V way, none of them draining (R756); the range ends inside the offset space. -/
def Slice.inV (s : Slice) (o n : Nat) : Bool :=
  n == 0 || (o + n ≤ 2 ^ 24 && (List.range 16).all fun w =>
    (w < o / 2 ^ 20 || (o + n - 1) / 2 ^ 20 < w) || s.isV w)

/-- Two byte ranges share a byte. -/
def overlap (a n b m : Nat) : Bool := n != 0 && m != 0 && a < b + m && b < a + n

/-! ### Lines (R139 to R145, R580 to R583) -/

/-- INIT[3:0] of a vitrine line. -/
def Slice.vtInit (s : Slice) (line : Nat) : Nat := tagSV (s.tag (line / 8192) (line % 8192))
def Slice.setInit (s : Slice) (line v : Nat) : Slice :=
  s.setTag (line / 8192) (line % 8192) (setSV (s.tag (line / 8192) (line % 8192)) v)
def Slice.vtQuar (s : Slice) (line : Nat) : Bool := tagQUAR (s.tag (line / 8192) (line % 8192))
def Slice.vtGrp (s : Slice) (line : Nat) : Bool := tagGRP (s.tag (line / 8192) (line % 8192))

/-- The poison causes of a vitrine line's four sectors as a read meets them: quarantine, no initialisation, stored poison. -/
def Slice.vtCauses (s : Slice) (line : Nat) : BitVec 12 :=
  if s.vtQuar line then allCause Cause.QUAR
  else
    let ini := s.vtInit line
    let st := s.mem.poisonOf (line / 8192) (line % 8192) ini
    (List.range 4).foldl (fun z i => if ini.testBit i then z else setCause z i Cause.UNINIT) st

/-- Read a vitrine line whole: its bytes (zero in a sector that is not initialised) and causes, after the error check of the
access. -/
def Slice.vtRead (s : Slice) (line : Nat) : Slice × LineData × BitVec 12 :=
  let way := line / 8192
  let set := line % 8192
  let s := (s.checkSetTags set).checkLine way set (s.vtInit line) true |>.1
  let pz := s.vtCauses line
  (s, mergeLine 0 (s.mem.readLine way set) (sectorsMask (s.vtInit line)), pz)

/-- A read of the line meets an uninitialised sector (R143). -/
def Slice.vtMeetsUninit (s : Slice) (line : Nat) : Bool := !s.vtQuar line && s.vtInit line != 15

/-- Zero the uninitialised sectors that `mask` covers in part (R141): one ZFILL each (DESIGN CHOICE, assumption 142). -/
def Slice.zeroFill (s : Slice) (line : Nat) (mask : BitVec 128) : Slice :=
  let part := touched mask &&& (15 - covered mask) &&& (15 - s.vtInit line)
  (List.range 4).foldl (fun s i =>
    if part.testBit i then
      (s.bump NS_VT_EVT.ZFILL 1).modMem fun m => m.writeLine (line / 8192) (line % 8192) 0 (sectorMask i)
    else s) s

/-- Write bytes of a vitrine line that is not quarantined (R140 to R142, R524, R583). -/
def Slice.vtStore (s : Slice) (line : Nat) (d : LineData) (mask : BitVec 128) (pz : BitVec 12) (cv : Bool := false) : Slice :=
  let way := line / 8192
  let set := line % 8192
  let s := (s.checkSetTags set).checkLine way set (touched mask &&& (15 - covered mask) &&& s.vtInit line) true |>.1
  let s := (s.zeroFill line mask).storeBytes way set d mask pz cv
  s.setInit line (s.vtInit line ||| touched mask)

/-- The sectors `ss` that are uninitialised become zero and initialised (R144), one ZFILL each as in R141. -/
def Slice.zeroInit (s : Slice) (line ss : Nat) : Slice :=
  let new := ss &&& (15 - s.vtInit line)
  let s := (List.range 4).foldl (fun s i =>
    if new.testBit i then
      (s.bump NS_VT_EVT.ZFILL 1).modMem fun m => m.writeLine (line / 8192) (line % 8192) 0 (sectorMask i)
    else s) s
  s.setInit line (s.vtInit line ||| new)

/-- Write a whole line, poisoned as `pz` says, unless it is quarantined. -/
def Slice.vtPut (s : Slice) (line : Nat) (d : LineData) (pz : BitVec 12) : Slice :=
  if s.vtQuar line then s
  else (s.fillSectors (line / 8192) (line % 8192) d pz 15).setInit line 15

/-! ### Byte ranges of V and X ways: the tier address of a vitrine offset is the offset (R127) -/

/-- `n` bytes from offset `o`, little-endian. -/
def Mem.vtNum (m : Mem) (o n : Nat) : Nat :=
  (List.range n).foldl (fun a i => a + (m.byte (o + i)).toNat * 2 ^ (8 * i)) 0

/-- Store `n` bytes at offset `o`, leaving check bits and poison as they are. -/
def Mem.vtSetNum (m : Mem) (o n v : Nat) : Mem :=
  (List.range n).foldl (fun m i => m.setByte (o + i) (BitVec.ofNat 8 (v >>> (8 * i)))) m

/-- The cause with which bytes [o, o + n) are read, taken from the first sector that has one; 0 for none. -/
def Slice.vtCauseOf (s : Slice) (o n : Nat) : Nat :=
  ((List.range ((o + n - 1) / 32 - o / 32 + 1)).map fun i =>
      causeAt (s.vtCauses ((o / 32 + i) / 4)) ((o / 32 + i) % 4)).find? (· != 0) |>.getD 0

/-- Poison the sector of offset `o` unless it is poisoned already (R232). -/
def Slice.vtPoison (s : Slice) (o cause : Nat) : Slice :=
  let line := o / 128
  let sec := o % 128 / 32
  if s.mem.storedPoison (line / 8192) (line % 8192) sec != 0 || s.vtQuar line then s
  else s.modMem (·.poisonSector (line / 8192) (line % 8192) sec cause)

/-- The access check of the lines in [o, o + n). -/
def Slice.vtCheck (s : Slice) (o n : Nat) : Slice :=
  if s.mem.chk.isEmpty && s.mem.bkchk.isEmpty then s
  else (List.range ((o + n - 1) / 128 - o / 128 + 1)).foldl (fun s i =>
    let line := o / 128 + i
    ((s.checkSetTags (line % 8192)).checkLine (line / 8192) (line % 8192) (s.vtInit line) true).1) s

/-- The data line a reply carries: a poisoned sector's bytes are not stated by any rule. -/
def deliver (d : LineData) (pz : BitVec 12) : LineData :=
  if poisBits pz = 0 then d else mergeLine d Config.poisonLine (sectorsMask (poisBits pz).toNat)

/-! ### Format windows (R319 to R331) -/

/-- The stored formats of R329: code with the MX bit in bit 4. -/
def storedOk (f : Nat) : Bool :=
  f == 0x18 || f == 0x16 || f == 0x17 || f == 0x14 || f == 0x15 || f == 0x1B || f == 4 || f == 5 || f == 2 || f == 3

/-- The pairs of R329: stored format and the request's format. -/
def fpPair (sfmt f : Nat) : Bool :=
  if sfmt == 2 || sfmt == 3 then f == 1 else storedOk sfmt && (f == 1 || f == 2 || f == 3)

/-- Blocks of a stored line in an MX format (R328). -/
def mxBlocks (c : Nat) : Nat := fmtPerLine c / 32

/-- An enabled window whose data area holds the granule; `mem` for a memory window. -/
def Slice.window (s : Slice) (mem : Bool) (gran : Nat) : Option Nat :=
  (List.range 16).find? fun n =>
    s.flag (NS_FP_WINA.EN n) && s.flag (NS_FP_WINA.KIND n) == mem && s.fld (NS_FP_WINA.DBASE n) ≤ gran &&
      gran ≤ s.fld (NS_FP_WINB.DLIMIT n)

/-- The vitrine offset of the scale byte of block 0 of the data line at vitrine line `line` of window `n` (R331). -/
def Slice.scaleAt (s : Slice) (n line : Nat) : Nat :=
  s.fld (NS_FP_WINA.SBASE n) * 4096 + 8 * (line - s.fld (NS_FP_WINA.DBASE n) * 32)

/-- The bytes of window `n`'s scale area: eight for each data line. -/
def Slice.scaleBytes (s : Slice) (n : Nat) : Nat :=
  8 * 32 * (s.fld (NS_FP_WINB.DLIMIT n) + 1 - s.fld (NS_FP_WINA.DBASE n))

/-- Store the scale bytes of one data line: `bs` from block `b0` on, the unused bytes of its eight as zero (R331, R340). -/
def Slice.putScales (s : Slice) (c o b0 : Nat) (bs : List Nat) : Slice :=
  let line := o / 128
  let nb := mxBlocks c
  let val := fun i => if b0 ≤ i && i < b0 + bs.length then bs.getD (i - b0) 0 else 0
  let d := lineOf (fun b => BitVec.ofNat 8 (val (b - o % 128))) 128
  let mask := (List.range 8).foldl (fun (m : BitVec 128) i =>
    if (b0 ≤ i && i < b0 + bs.length) || nb ≤ i then m ||| ((1 : BitVec 128) <<< (o % 128 + i)) else m) 0
  if s.vtQuar line then s else s.vtStore line d mask 0

end Sys2Proof.Machine
end

