-- ==== Sys2Proof/Machine/Groups.lean ====
section
/-! DEFINITION. Accumulation groups (chapter "Accumulation Groups, Epilogues and Chained Reductions"): descriptors and their checks,
storage, arrivals, the epilogue, forwarding, and how a group ends. -/

namespace Sys2Proof.Machine

/-- A purge of the request's context runs, and the request is of the generation it sets (R627). -/
def Slice.purgeWait (s : Slice) (r : Req) : Bool := s.walk.purge == some (r.ctx, r.gen)

/-! ### Descriptor fields (R266) -/

/-- The sixteen words of a descriptor in a data line (R155, R266). -/
def descOf (d : LineData) : List Word := (List.range 16).map fun i => d.extractLsb' (64 * i) 64

/-- Bits [lo + w − 1 : lo] of word `i`. -/
def descBits (d : List Word) (i lo w : Nat) : Nat := getBits (d.getD i 0) lo w

def gTAG (d : List Word) : Nat := descBits d 0 48 16
def gBIASFMT (d : List Word) : Nat := descBits d 0 43 2
def gACT (d : List Word) : Nat := descBits d 0 40 3
def gBIASMODE (d : List Word) : Nat := descBits d 0 38 2
def gSCMODE (d : List Word) : Nat := descBits d 0 36 2
def gSRND (d : List Word) : Bool := descBits d 0 35 1 == 1
def gOUTFMT (d : List Word) : Nat := descBits d 0 30 5
def gCHUNKL (d : List Word) : Nat := descBits d 0 23 7
def gCHUNKFMT (d : List Word) : Nat := descBits d 0 22 1
def gACC (d : List Word) : Nat := descBits d 0 19 3
def gOP (d : List Word) : Nat := descBits d 0 15 4
def gFWD (d : List Word) : Bool := descBits d 0 14 1 == 1
def gPRELOAD (d : List Word) : Bool := descBits d 0 13 1 == 1
def gEXPLICIT (d : List Word) : Bool := descBits d 0 12 1 == 1
/-- TKIND: a memory target. -/
def gMEM (d : List Word) : Bool := descBits d 0 11 1 == 1
def gIRQ (d : List Word) : Bool := descBits d 0 10 1 == 1
def gCMD (d : List Word) : Nat := descBits d 0 0 4
def gNELEM (d : List Word) : Nat := descBits d 1 16 24
def gEXPECT (d : List Word) : Nat := descBits d 1 0 16
/-- TBASE and TEXT: a physical address of a memory target; of a vitrine target ACCBASE and OUTBASE, bits [23:0]. -/
def gTBASE (d : List Word) : Nat := descBits d 2 0 (if gMEM d then 64 else 24)
def gTEXT (d : List Word) : Nat := descBits d 3 0 (if gMEM d then 64 else 24)
def gPREFMT (d : List Word) : Nat := descBits d 4 32 5
def gPREBASE (d : List Word) : Nat := descBits d 4 0 24
def gCPLADDR (d : List Word) : Nat := descBits d 5 0 64
def gSCALE (d : List Word) : Nat := descBits d 6 32 32
def gSCALEBASE (d : List Word) : Nat := descBits d 6 0 24
def gBIASBASE (d : List Word) : Nat := descBits d 7 32 24
def gROWLEN (d : List Word) : Nat := descBits d 7 0 24
def gCLAMPHI (d : List Word) : Nat := descBits d 8 32 32
def gCLAMPLO (d : List Word) : Nat := descBits d 8 0 32
def gSEED (d : List Word) : Nat := descBits d 9 0 32
def gFWDLINE (d : List Word) : Nat := descBits d 10 24 17
def gFWDHANDLE (d : List Word) : Nat := descBits d 10 0 15

/-- A reserved bit of the descriptor is set (R266). -/
def gReserved (d : List Word) : Bool :=
  descBits d 0 45 3 != 0 || descBits d 0 4 6 != 0 || descBits d 1 40 24 != 0 || descBits d 4 37 27 != 0 ||
  descBits d 4 24 8 != 0 || descBits d 6 24 8 != 0 || descBits d 7 56 8 != 0 || descBits d 7 24 8 != 0 ||
  descBits d 9 32 32 != 0 || descBits d 10 41 23 != 0 || descBits d 10 15 9 != 0 || (d.drop 11).any (· != 0)

/-! ### Group states (R269, R317) -/

abbrev GSt.FREE : Nat := 0
abbrev GSt.OPENING : Nat := 1
abbrev GSt.OPEN : Nat := 2
abbrev GSt.CLOSING : Nat := 3
abbrev GSt.FORWARDING : Nat := 4

def Slice.grpState (s : Slice) (n : Nat) : Nat := s.fld (NS_GRPSTAT.STATE n)
def Slice.setGrpState (s : Slice) (n st : Nat) : Slice := s.setFld (NS_GRPSTAT.STATE n) st
def Slice.grp? (s : Slice) (n : Nat) : Option Grp := s.grps.find? (fun g => g.num == n)
def Slice.modGrp (s : Slice) (n : Nat) (f : Grp → Grp) : Slice :=
  { s with grps := replaceFirst (fun g => g.num == n) f s.grps }

/-! ### Storage (R255 to R258) -/

/-- Elements per pack, packs per X way, and X ways in X pack order (R249, R250, R256). -/
def perPack (acc : Nat) : Nat := if acc = 5 then 16 else 32
def packsPerWay : Nat := 1638
/-- The X ways of the way map in force (X pack order is that of the map, not of the map at an OPEN: assumption 114). -/
def Slice.xWays (s : Slice) : List Nat := (List.range 16).filter s.isX

/-- The number in X pack order of the pack at vitrine offset `o`. -/
def Slice.packOf (s : Slice) (o : Nat) : Nat :=
  ((s.xWays.findIdx? (· == o / 2 ^ 20)).getD 16) * packsPerWay + o / 128 % 8192 / 5

/-- The vitrine offset of a pack. -/
def Slice.packAt (s : Slice) (p : Nat) : Nat := (s.xWays.getD (p / packsPerWay) 16) * 2 ^ 20 + p % packsPerWay * 640

/-- Elements per arrival line of a format (R214, R215). -/
def perLine (op c : Nat) : Nat := if isArg op then 16 else fmtPerLine c

/-- Accumulator units of a vitrine target (R258). -/
def gUnits (d : List Word) : Nat :=
  if isExact (gACC d) then cdiv (gNELEM d) (perPack (gACC d)) else cdiv (gNELEM d * accBytes (gACC d)) 128

/-- The unit of element `e`. -/
def gUnitOf (d : List Word) (e : Nat) : Nat :=
  if isExact (gACC d) then e / perPack (gACC d) else e * accBytes (gACC d) / 128

/-- The vitrine offset of accumulator element `e` (R255, R256). -/
def Slice.accAt (s : Slice) (d : List Word) (e : Nat) : Nat :=
  let w := accBytes (gACC d)
  if isExact (gACC d) then s.packAt (s.packOf (gTBASE d) + e / perPack (gACC d)) + e % perPack (gACC d) * w
  else gTBASE d + e * w

/-- The lines of unit `u`, as vitrine offsets. -/
def Slice.unitLines (s : Slice) (d : List Word) (u : Nat) : List Nat :=
  if isExact (gACC d) then (List.range 5).map (fun i => s.packAt (s.packOf (gTBASE d) + u) + 128 * i)
  else [gTBASE d + 128 * u]

/-- The chunk area (R257): its first byte, and its lines. -/
def gChunkBase (d : List Word) : Nat := 128 * cdiv (gTBASE d + gNELEM d * 4) 128
def gChunkLines (d : List Word) : Nat := if gCHUNKL d = 0 then 0 else cdiv (2 * gNELEM d) 128

/-- Output lines (R286, R291). -/
def gOutPer (d : List Word) : Nat := perLine (gOP d) (gOUTFMT d % 16)
def gOutLines (d : List Word) : Nat := cdiv (gNELEM d) (gOutPer d)

/-- Byte ranges: the accumulator storage. Exact storage is one range for each X way it touches. -/
def Slice.gAccRanges (s : Slice) (d : List Word) : List (Nat × Nat) :=
  if isExact (gACC d) then
    let p0 := s.packOf (gTBASE d)
    let p1 := p0 + gUnits d
    ((List.range s.xWays.length).map fun i =>
      let a := max p0 (i * packsPerWay)
      let b := min p1 ((i + 1) * packsPerWay)
      (s.packAt a, 640 * (b - a))).filter (fun r => r.2 != 0)
  else [(gTBASE d, 128 * gUnits d)]

/-- The storage of a group: accumulators, chunk area and output. -/
def Slice.gStorage (s : Slice) (d : List Word) : List (Nat × Nat) :=
  if gMEM d then [] else
  s.gAccRanges d ++ [(gChunkBase d, 128 * gChunkLines d), (gTEXT d, 128 * gOutLines d)]

/-- The tensors a group reads: preload, per-row scales, bias (R288, R297). -/
def gTensors (d : List Word) : List (Nat × Nat) :=
  if gMEM d then [] else
  let bw := if gBIASFMT d = 0 then 4 else 2
  (if gPRELOAD d then [(gPREBASE d, 128 * cdiv (gNELEM d) (perLine (gOP d) (gPREFMT d % 16)))] else []) ++
  (if gSCMODE d = 2 && gROWLEN d != 0 then [(gSCALEBASE d, 4 * cdiv (gNELEM d) (gROWLEN d))] else []) ++
  (if gBIASMODE d = 1 then [(gBIASBASE d, bw * gROWLEN d)]
   else if gBIASMODE d = 2 then [(gBIASBASE d, bw * gNELEM d)] else [])

/-- Every byte range of a group that is not FREE (R48, R135). -/
def Slice.gRanges (s : Slice) (d : List Word) : List (Nat × Nat) := s.gStorage d ++ gTensors d

/-- The lines that carry GRP: accumulators and chunk area (R259), as vitrine lines. -/
def Slice.gGrpLines (s : Slice) (d : List Word) : List Nat :=
  if gMEM d then [] else
  ((s.gAccRanges d) ++ [(gChunkBase d, 128 * gChunkLines d)]).flatMap fun r =>
    (List.range (cdiv r.2 128)).map (fun i => r.1 / 128 + i)

/-- Set or clear GRP on a group's vitrine lines, with its group-line words zero (R259, R269). -/
def Slice.markGrp (s : Slice) (d : List Word) (b : Bool) : Slice :=
  s.modMem fun m => (s.gGrpLines d).foldl (fun m l =>
    (m.setTag (l / 8192) (l % 8192) (setGRP (m.tag (l / 8192) (l % 8192)) b)).setGlw (l / 8192) (l % 8192) 0) m

/-- The group not FREE whose accumulators, chunk area or output hold a vitrine line, with its number. -/
def Slice.grpOfLine (s : Slice) (line : Nat) : Option Grp :=
  s.grps.find? fun g => (s.gStorage g.desc).any fun r => overlap r.1 r.2 (128 * line) 128
/-- The group whose accumulator storage in X ways holds the line (R280). -/
def Slice.grpOfAcc (s : Slice) (line : Nat) : Option Grp :=
  s.grps.find? fun g => !gMEM g.desc && (s.gAccRanges g.desc).any fun r => overlap r.1 r.2 (128 * line) 128
/-- The memory-target group that holds a line. -/
def Slice.grpOfMem (s : Slice) (l : LineAddr) : Option Grp := s.grps.find? fun g => g.lines.contains l

/-! ### Opening: the checks of R268 -/

/-- Feature `f` of R649 is disabled. -/
def Slice.disabled (s : Slice) (f : Nat) : Bool := bitAt (s.rd Reg.NS_FWIF_FEAT) f

/-- Status codes of R267. -/
abbrev GS.OK : Nat := 0
abbrev GS.BAD_OPC : Nat := 1
abbrev GS.BUSY : Nat := 2
abbrev GS.BAD_ARITH : Nat := 3
abbrev GS.BAD_EPI : Nat := 4
abbrev GS.BAD_RANGE : Nat := 5
abbrev GS.DENIED : Nat := 6
abbrev GS.NOT_OPEN : Nat := 7
abbrev GS.ABORTED : Nat := 8

/-- Offset nonzero or byte mask not all ones (R265). -/
def gBadForm (r : Req) : Bool := r.pa.toNat % 2 ^ 24 != 0 || r.mask != fullMask

/-- The MX bit with a code that R195 allows, or no MX bit. -/
def mxCodeOk (f : Nat) : Bool := f < 16 || (4 ≤ f % 16 && f % 16 ≤ 8) || f % 16 == 0xB

/-- Check 3. -/
def Slice.gBadArith (s : Slice) (d : List Word) : Bool :=
  !pairOk (gOP d) (gACC d) || (isExact (gACC d) && s.disabled 0) || 64 < gCHUNKL d ||
  (gCHUNKL d != 0 && !(gOP d == ROp.SUM && gACC d == 0)) || gOUTFMT d % 16 == 0xE || gOUTFMT d % 16 == 0xF ||
  !mxCodeOk (gOUTFMT d) || (gMEM d && (isExact (gACC d) || isArg (gOP d) || gCHUNKL d != 0))

/-- Check 4. -/
def gBadEpi (d : List Word) : Bool :=
  let mx := 16 ≤ gOUTFMT d
  let lo := decodeElt 0x1 (gCLAMPLO d)
  let hi := decodeElt 0x1 (gCLAMPHI d)
  gSCMODE d == 3 || gBIASMODE d == 3 || gBIASFMT d == 3 || 4 < gACT d ||
  ((isArg (gOP d) || isBit (gOP d)) && (gSCMODE d != 0 || gBIASMODE d != 0 || gACT d != 0)) ||
  (isBit (gOP d) && gOUTFMT d != 0x9) || (isArg (gOP d) && (mx || 32 < fmtWidth (gOUTFMT d % 16))) ||
  (gSRND d && mx) || (gFWD d && mx) || (gROWLEN d == 0 && (gSCMODE d == 2 || gBIASMODE d == 1)) ||
  (gACT d == 2 && (lo.isNan || hi.isNan || hi.below lo)) ||
  (!gMEM d && gPRELOAD d && (16 ≤ gPREFMT d || !opAccepts (gOP d) (gACC d) (gPREFMT d))) ||
  (gMEM d && (gSCMODE d == 2 || gBIASMODE d != 0 || gFWD d || gOUTFMT d != accFmt (gACC d)))

/-- The line of a physical address of up to 64 bits lies in the HBM window and in no host window. -/
def Slice.localPA (s : Slice) (a : Nat) : Bool :=
  a < 2 ^ 52 && s.inHbm (BitVec.ofNat 45 (a / 128)) && !s.isHost (BitVec.ofNat 45 (a / 128))

/-- A byte range runs past the last V way (R268; draining ways are no V ways: R756). -/
def Slice.pastV (s : Slice) (o n : Nat) : Bool :=
  n != 0 && (List.range 16).all fun w => !s.isV w || (w + 1) * 2 ^ 20 < o + n

/-- Check 5. -/
def Slice.gBadRange (s : Slice) (n : Nat) (d : List Word) : Bool :=
  gCPLADDR d % 32 != 0 ||
  if gMEM d then
    gTBASE d % 128 != 0 || gTEXT d % 128 != 0 || gTEXT d < gTBASE d || !s.localPA (gTBASE d) || !s.localPA (gTEXT d)
  else
    gNELEM d == 0 || gTBASE d % 128 != 0 || gTEXT d % 128 != 0 ||
    (if isExact (gACC d) then
      !s.isX (gTBASE d / 2 ^ 20) || gTBASE d / 128 % 8192 % 5 != 0 || packsPerWay ≤ gTBASE d / 128 % 8192 / 5 ||
        s.xWays.length * packsPerWay < s.packOf (gTBASE d) + gUnits d
     else !s.isV (gTBASE d / 2 ^ 20) || s.pastV (gTBASE d) (128 * gUnits d)) ||
    s.pastV (gChunkBase d) (128 * gChunkLines d) || s.pastV (gTEXT d) (128 * gOutLines d) ||
    (gTensors d).any (fun r => s.pastV r.1 r.2) ||
    (gTEXT d != gTBASE d && (s.gAccRanges d).any fun r => overlap r.1 r.2 (gTEXT d) (128 * gOutLines d)) ||
    s.grps.any fun o => o.num != n && (s.gStorage o.desc).any fun a =>
      (s.gRanges d).any fun b => overlap a.1 a.2 b.1 b.2

/-- Check 6: a V-way range is not permitted. -/
def Slice.gDenied (s : Slice) (d : List Word) (ctx : BitVec 12) : Bool :=
  !gMEM d && (((if isExact (gACC d) then [] else s.gAccRanges d) ++ [(gChunkBase d, 128 * gChunkLines d),
    (gTEXT d, 128 * gOutLines d)] ++ gTensors d).any fun r => !s.vtPermitRange ctx r.1 r.2)

/-- The status of an OPEN (R268, R650): 0 when it passes. -/
def Slice.openCheck (s : Slice) (n : Nat) (d : List Word) (r : Req) : Nat :=
  if gBadForm r || gReserved d || (gSRND d && s.disabled 3) || (gCHUNKL d != 0 && s.disabled 4) || (gFWD d && s.disabled 1)
  then GS.BAD_OPC
  else if s.grpState n != GSt.FREE then GS.BUSY
  else if s.gBadArith d then GS.BAD_ARITH
  else if gBadEpi d then GS.BAD_EPI
  else if s.gBadRange n d then GS.BAD_RANGE
  else if s.gDenied d r.ctx then GS.DENIED
  else GS.OK

/-! ### Answers -/

/-- Answer a group-control command: its reply, or NS_GRPOPEN; RSTATUS holds the status in both cases (R267, R312). -/
def Slice.grpAnswer (s : Slice) (g : List (Nat × BitVec 8)) (a : GrpAsker) (code : Nat) : Slice :=
  let s := s.setFld NS_GRPOPEN.RSTATUS code
  if a.staged then s.setFld NS_GRPOPEN.BUSY 0
  else s.reply g { s.statusBeat .grpctl a.req none a.born Stat.GRPCTL 0 with
    -- a CLOSE is a barrier-type message (R485, R493)
    detail := code, measured := getBits a.req.data 0 4 != 2 }

/-! ### The end of a group (R269, R307 to R311) -/

/-- The completion record of a group (R310, R311). -/
def Slice.grpRecord (s : Slice) (p : Grp) (status : Nat) : Cpl :=
  let d := p.desc
  let w0 : Word := setBits (setBits (setBits 0 48 16 (gTAG d)) 32 8 status) 0 8 (s.fld (NS_GRPSTAT.FLAGS p.num))
  let w1 : Word := setBits (setBits 0 32 32 (min p.arrivals 0xFFFFFFFF)) 0 32 p.rejects
  let w2 : Word := setBits (setBits 0 32 32 p.fwdRej) 0 32 p.shortU
  let w3 : Word := setBits 0 32 32 p.poisonLn
  { id := s.bulk.nextCpl, cmd := none, group := some p.num,
    waits := if gMEM d then (s.port.invs.map (·.1)).filter (fun l => gTBASE d / 128 ≤ l.toNat && l.toNat ≤ gTEXT d / 128) else [],
    sent := false, tag := gTAG d, status := status, irq := gIRQ d, cpladdr := d.getD 5 0, words := [w0, w1, w2, w3],
    ctx := p.req.ctx, gen := p.req.gen, cls := p.req.cls.toNat, reqid := p.req.reqid, srcdie := p.req.srcdie, priv := p.req.priv }

/-- The group is FREE: ABORTs that waited are answered (R269). A purge that ends it is no progress of it (R622). -/
def Slice.freeGrp (s : Slice) (g : List (Nat × BitVec 8)) (p : Grp) : Slice :=
  let s := s.setGrpState p.num GSt.FREE
  let s := { s with grps := s.grps.filter (fun q => q.num != p.num) }
  p.aborts.foldl (fun s a => s.grpAnswer g a GS.OK) s

/-- A group completes: its record is due, and LAST shows the status (R310, R317), also where the record then has no place in memory (DESIGN
CHOICE, assumption 145). -/
def Slice.finishGrp (s : Slice) (g : List (Nat × BitVec 8)) (n status : Nat) : Slice :=
  match s.grp? n with
  | none => s
  | some p =>
    let status := if status = 0 && p.byClose && p.shortU != 0 && gEXPECT p.desc != 0 then 1 else status
    let c := s.grpRecord p status
    let s := s.setFld (NS_GRPSTAT.LAST n) status
    (s.modBulk fun b => { b with cpls := b.cpls ++ [c], nextCpl := b.nextCpl + 1 }).freeGrp g p

/-- A memory-target line leaves its group: GRP and its group-line word are cleared (R259). -/
def Slice.leaveLine (s : Slice) (n : Nat) (l : LineAddr) : Slice :=
  let s := s.modGrp n fun p =>
    let k := fmtPerLine (accFmt (gACC p.desc))
    { p with hid := p.hid.filter fun h => h.1 / k != l.toNat - gTBASE p.desc / 128 }
  match s.lookup Use.L l with
  | none => s.modGrp n fun p => { p with lines := p.lines.filter (· != l) }
  | some w =>
    let set := setOf l
    let cnt := (s.mem.glwAt w set).toNat % 65536
    let s := s.modMem fun m => (m.setTag w set (setGRP (m.tag w set) false)).setGlw w set 0
    let exp := ((s.grp? n).map (fun p => gEXPECT p.desc)).getD 0
    let s := if cnt < exp then s.setFld (NS_GRPSTAT.SHORTU n) (s.fld (NS_GRPSTAT.SHORTU n) - 1) else s
    s.modGrp n fun p => { p with lines := p.lines.filter (· != l), leftCount := p.leftCount + cnt }

/-- A group ends by ABORT or purge (R307, R308): lines of a memory target are invalidated, at once or when their loan copies are (R40), and
none counts as short any more (R317). An OPEN that is not answered yet is answered ABORTED, and ABORTs that wait are answered OK, by a purge
as well (assumption 119). -/
def Slice.endGrp (s : Slice) (g : List (Nat × BitVec 8)) (n : Nat) (record : Bool) : Slice :=
  match s.grp? n with
  | none => s
  | some p =>
    let s := s.bump NS_GRP_EVT.ABORTED 1
    let s := match p.opener with
      | some a => s.grpAnswer g a GS.ABORTED
      | none => s
    let st := s.grpState n
    let s := if st = GSt.FORWARDING then s else s.markGrp p.desc false
    let s := p.lines.foldl (fun s l =>
      match s.lookup Use.L l with
      | none => s
      | some w => (s.modMem (·.setGlw w (setOf l) 0)).killEntry g w (setOf l) (s.grpJob p.req.cls.toNat (.pa l))) s
    let s := s.modGrp n fun p => { p with lines := [], hid := [], opener := none }
    let s := if gMEM p.desc then s.setFld (NS_GRPSTAT.SHORTU n) 0 else s
    if record then s.finishGrp g n 2
    else match s.grp? n with
      | some p => s.freeGrp g p
      | none => s

/-! ### Arrivals (R262 to R264, R272, R276) -/

/-- A reduction-line tracker of group `n` whose arrival is accepted and not combined yet. -/
def isPending (n : Nat) (t : Trk) : Bool :=
  t.kind == .red && t.req.group.toNat == n && (t.stage == .combine || t.stage == .fill || t.stage == .victim)

/-- The tracker belongs to an arrival of group `n` accepted before its close or ABORT (R278). -/
def Slice.beforeClose (s : Slice) (n : Nat) (t : Trk) : Bool :=
  match s.grp? n with
  | none => false
  | some p => match p.cutoff with
    | none => true
    | some c => t.id < c

/-- The tracker's arrival was accepted before the OPEN of group `n`: it found the group FREE (R278). -/
def Slice.beforeOpen (s : Slice) (n : Nat) (t : Trk) : Bool :=
  match s.grp? n with
  | none => true
  | some p => t.id < p.openedAt

/-- An arrival of the group still holds its tracker for combining or for its acknowledgement, or was accepted before the close or ABORT
and is not judged yet (R278, R286). -/
def Slice.grpBusy (s : Slice) (n : Nat) : Bool :=
  s.port.trks.any fun t => t.kind == .red && t.req.group.toNat == n && t.stage != .done && t.stage != .stale && !t.anew &&
    (t.stage != .queued || s.beforeClose n t)

/-- The elements [e0, e1) an arrival covers (R264). Bits [6:0] of its address, which R262 gives as zero, are not looked at
(assumption 115). -/
def gSpan (d : List Word) (r : Req) : Nat × Nat :=
  let n := perLine (gOP d) (r.fmt.toNat % 16)
  let j := r.pa.toNat / 128 % 2 ^ 17
  (j * n, min ((j + 1) * n) (gNELEM d))

/-- The units an arrival covers. -/
def gSpanUnits (d : List Word) (r : Req) : List Nat :=
  let (e0, e1) := gSpan d r
  if e1 ≤ e0 then [] else
  (List.range (gUnitOf d (e1 - 1) - gUnitOf d e0 + 1)).map (fun i => gUnitOf d e0 + i)

/-- The arrival count `k` (R509). -/
def arrK (r : Req) : Nat := getBits r.aux 0 8

/-- The count of a unit, as its group-line word holds it (R259). -/
def Slice.unitCount (s : Slice) (d : List Word) (u : Nat) : Nat :=
  let l := ((s.unitLines d u).headD 0) / 128
  (s.mem.glwAt (l / 8192) (l % 8192)).toNat % 65536

/-- The count of a memory-target line; 0 when the group does not hold it. -/
def Slice.lineCount (s : Slice) (p : Grp) (l : LineAddr) : Nat :=
  if p.lines.contains l then
    match s.lookup Use.L l with
    | some w => (s.mem.glwAt w (setOf l)).toNat % 65536
    | none => 0
  else 0

/-- The group accepts the format (R212, R235, R260, R261). -/
def gFmtOk (d : List Word) (f : Nat) : Bool :=
  f < 16 &&
  if gMEM d then f == accFmt (gACC d)
  else opAccepts (gOP d) (gACC d) f &&
    (gCHUNKL d == 0 || (accAccepts (1 + gCHUNKFMT d) f && f != 6 && f != 7))

/-- The status R272 gives an arrival in the order of its table: ACK when it is accepted. Arrivals accepted before it and not yet
combined count toward REJ_OVERCOUNT and REJ_OWNER. `before`: the arrival was accepted before the group's close or ABORT, and is judged
as then (R278). A line from TBASE to TLIMIT that lies in a host window is taken like any other (assumption 116). -/
def Slice.judgeArrival (s : Slice) (r : Req) (before : Bool) : Nat :=
  let n := r.group.toNat
  match s.grp? n with
  | none => Stat.REJ_CLOSED
  | some p =>
    let d := p.desc
    if !(s.grpState n == GSt.OPEN && p.cutoff.isNone) && !(before && p.cutoff.isSome) then Stat.REJ_CLOSED
    else if r.ctx != p.req.ctx then Stat.REJ_CTX
    else if r.vsp == gMEM d then Stat.REJ_RANGE
    else if (if gMEM d then r.line.toNat < gTBASE d / 128 || gTEXT d / 128 < r.line.toNat
        else gNELEM d ≤ (gSpan d r).1) then Stat.REJ_RANGE
    else if gMEM d && (s.grps.any (fun q => q.num != n && q.lines.contains r.line) ||
        s.port.trks.any (fun t => t.kind == .red && t.req.group.toNat != n && isPending t.req.group.toNat t && t.key == .pa r.line))
      then Stat.REJ_OWNER
    else if !gFmtOk d r.fmt.toNat then Stat.REJ_FMT
    else if isExact (gACC d) && 1 < arrK r then Stat.REJ_COMBINED
    else if gEXPECT d != 0 && (
        let pend := s.port.trks.filter (isPending n)
        if gMEM d then
          gEXPECT d < s.lineCount p r.line + ((pend.filter (fun t => t.key == .pa r.line)).map (fun t => arrK t.req)).sum + arrK r
        else (gSpanUnits d r).any fun u =>
          gEXPECT d < s.unitCount d u + ((pend.filter (fun t => (gSpanUnits d t.req).contains u)).map (fun t => arrK t.req)).sum + arrK r)
      then Stat.REJ_OVERCOUNT
    else Stat.ACK

/-- What a rejection counts (R213, R245, R273), with the arrival's class (R679), in the record of the group that is open when it is judged, if
any (DESIGN CHOICE, assumption 144). -/
def Slice.countReject (s : Slice) (n status cls : Nat) : Slice :=
  let s := if status = Stat.REJ_FMT then (s.raFlags n { rejfmt := true }).bump NS_RA_REJ.FMT 1
    else if status = Stat.REJ_COMBINED then (s.raFlags n { rejcmb := true }).bump NS_RA_REJ.CMB 1
    else s.bump NS_GRP_EVT.REJOTHER 1
  (s.modGrp n fun p => { p with rejects := p.rejects + 1 }).ev Ev.RED_REJ 1 none (some cls)

/-- The poison cause of arrival element `i`: of the sector its bits begin in, else of the one they end in; for a pair, of its value,
else of its index (R215, R232). -/
def eltCause (op c i : Nat) (pz : BitVec 12) : Nat :=
  let (a, b) := if isArg op then (i / 8, 2 + i / 8) else
    let w := fmtWidth c
    (i * w / 256, (i * w + w - 1) / 256)
  if causeAt pz a != 0 then causeAt pz a else causeAt pz b

/-- Element `i` of an arrival or preload line, and the index of a pair (R214, R215). -/
def arrElt (op c i : Nat) (d : LineData) : Nat × Nat :=
  if isArg op then (getBits d (32 * i) (min 32 (fmtWidth c)), getBits d (512 + 32 * i) 32) else (getElt d c i, 0)

/-- Combining state: the slice's memory, the cycle of the group's OPEN, the index map, the values under poison and the flags. -/
structure Comb where
  s : Slice
  born : Nat
  idx : List (Nat × BitVec 32)
  hid : List (Nat × Option Nat)
  fl : RaFlags
  deriving DecidableEq, Repr

/-- Combining for a group begins. -/
def Comb.start (s : Slice) (p : Grp) : Comb := { s := s, born := p.born, idx := p.idx, hid := p.hid, fl := RaFlags.none }

/-- Put the maps and the flags of a combination back. -/
def Comb.done (q : Comb) (n : Nat) : Slice := (q.s.modGrp n fun p => { p with idx := q.idx, hid := q.hid }).raFlags n q.fl

/-- The value of `w` bytes that a poisoned element has (R232): the one kept beside its storage, else `lost`. An element that is poisoned again
before anything is combined into it goes on from the value kept for it (DESIGN CHOICE, assumption 113). -/
def hidVal (hid : List (Nat × Option Nat)) (key lost : Nat) : Nat := (Sparse.get (fun _ => none) hid key).getD lost

/-- The value of `w` bytes of an element that an error has destroyed: open. -/
def lostVal (born key w : Nat) : Nat := (Config.lostAcc born key).toNat % 2 ^ (8 * w)

/-- A sector of bytes [o, o + n) is poisoned or quarantined: no arithmetic is stored there. -/
def Slice.accDead (s : Slice) (o n : Nat) : Bool :=
  (List.range ((o + n - 1) / 32 - o / 32 + 1)).any fun i =>
    let line := (o / 32 + i) / 4
    s.vtQuar line || s.mem.storedPoison (line / 8192) (line % 8192) ((o / 32 + i) % 4) != 0

/-- Poison every sector of bytes [o, o + n). -/
def Slice.accPoison (s : Slice) (o n cause : Nat) : Slice :=
  (List.range ((o + n - 1) / 32 - o / 32 + 1)).foldl (fun s i => s.vtPoison (32 * (o / 32 + i)) cause) s

/-- The value of element `key`, `w` bytes at offset `o`, as its storage has it: of the bytes in sectors that are not poisoned, and of the
others as an error left them, which is open. -/
def Slice.storedVal (s : Slice) (born key o w : Nat) : Nat :=
  (List.range w).foldl (fun v b =>
    v + (if s.accDead (o + b) 1 then lostVal born key w / 2 ^ (8 * b) % 256 else s.mem.vtNum (o + b) 1) * 2 ^ (8 * b)) 0

/-- The value of an element that is given beside its storage, else the one its storage has (R232, R242 to R244). -/
def Slice.eltVal (s : Slice) (born : Nat) (hid : List (Nat × Option Nat)) (key o w : Nat) : Nat :=
  if s.accDead o w then hidVal hid key (s.storedVal born key o w) else s.mem.vtNum o w

/-- The value of element `key`, `w` bytes at offset `o`. -/
def Comb.val (q : Comb) (key o w : Nat) : Nat := q.s.eltVal q.born q.hid key o w

/-- The bytes of `v` that lie in sectors which are not poisoned. -/
def Slice.putClean (s : Slice) (o w v : Nat) : Slice :=
  (List.range w).foldl (fun s b => if s.accDead (o + b) 1 then s else s.modMem (·.vtSetNum (o + b) 1 (v >>> (8 * b)))) s

/-- The element takes the value `v`. Where some of its storage is poisoned the value is kept beside, and what of it lies in clean sectors is
stored (R242 to R244). -/
def Comb.put (q : Comb) (key o w v : Nat) : Comb :=
  if q.s.accDead o w then { q with hid := Sparse.set (fun _ => none) q.hid key (some v), s := q.s.putClean o w v }
  else { q with s := q.s.modMem (·.vtSetNum o w v), hid := Sparse.set (fun _ => none) q.hid key none }

/-- Poison the sectors of accumulator element `e`; the values of the elements in them are kept beside (R232). -/
def Comb.poison (q : Comb) (d : List Word) (e cause : Nat) : Comb :=
  let w := accBytes (gACC d)
  let o := q.s.accAt d e
  let a := o / 32 * 32
  let z := (o + w - 1) / 32 * 32 + 32
  let near := ((List.range 65).map fun i => e + i - 32).filter fun j =>
    j < gNELEM d && overlap (q.s.accAt d j) w a (z - a)
  { q with hid := near.foldl (fun h j => Sparse.set (fun _ => none) h j (some (q.val j (q.s.accAt d j) w))) q.hid,
           s := q.s.accPoison o w cause }

/-- Combine code `x` of format `c` with index `xi` into accumulator element `e` (R219 to R227, R242 to R244); into its chunk value
when `chunk` (R236). `cause` is the poison the element brings (R232): its accumulator sector stays poisoned, and the arithmetic goes on. -/
def Comb.elt (q : Comb) (d : List Word) (chunk : Bool) (e c x xi cause : Nat) : Comb :=
  let acc := gACC d
  let w := accBytes acc
  let o := q.s.accAt d e
  let q := if cause = 0 then q else { q.poison d e cause with fl := q.fl.or { poison := true } }
  if chunk then
    let co := gChunkBase d + 2 * e
    let (h, f) := combineElt ROp.SUM (1 + gCHUNKFMT d) (q.val (2 ^ 24 + e) co 2) c x
    { q.put (2 ^ 24 + e) co 2 h with fl := q.fl.or f }
  else
    let a := q.val e o w
    if isArg (gOP d) then
      let (b, bi, f) := combineArg (gOP d) acc a (Sparse.get (fun _ => 0xFFFFFFFF) q.idx e).toNat c x xi
      { q.put e o w b with idx := Sparse.set (fun _ => 0xFFFFFFFF) q.idx e (BitVec.ofNat 32 bi), fl := q.fl.or f }
    else
      let (b, f) := if isExact acc then combineExact acc a c x else combineElt (gOP d) acc a c x
      { q.put e o w b with fl := q.fl.or f }

/-- The access check of the accumulators of elements [e0, e1) (R580 to R582). -/
def Slice.accCheck (s : Slice) (d : List Word) (e0 e1 : Nat) : Slice :=
  if e1 ≤ e0 then s
  else ((List.range (gUnitOf d (e1 - 1) + 1 - gUnitOf d e0)).flatMap fun i => s.unitLines d (gUnitOf d e0 + i)).foldl
    (fun s o => s.vtCheck o 128) s

/-- Promote the chunk values of chunk line `ci` into the totals and clear them (R236, R237). A poisoned chunk value poisons its total. -/
def Comb.promote (q : Comb) (d : List Word) (ci : Nat) : Comb :=
  let e0 := 64 * ci
  let n := min 64 (gNELEM d - e0)
  let l := (gChunkBase d) / 128 + ci
  let q := { q with s := (q.s.vtCheck (128 * l) 128).accCheck d e0 (e0 + n) }
  let q := (List.range n).foldl (fun (q : Comb) i =>
    let e := e0 + i
    let o := q.s.accAt d e
    let co := gChunkBase d + 2 * e
    let cause := q.s.vtCauseOf co 2
    let q := if cause = 0 then q else q.poison d e cause
    let a := decodeElt 0x1 (q.val e o 4)
    let h := decodeElt (2 + gCHUNKFMT d) (q.val (2 ^ 24 + e) co 2)
    let sum := a.add h
    let r := roundFp 0x1 sum
    { (q.put e o 4 r.bits).put (2 ^ 24 + e) co 2 0 with
      fl := q.fl.or { of := r.of, nv := sum.isNan && !a.isNan && !h.isNan } }) q
  { q with s := q.s.modMem (fun m => m.setGlw (l / 8192) (l % 8192) (setBits (m.glwAt (l / 8192) (l % 8192)) 16 7 0)) }

/-- Combine one line of elements into a vitrine-target group: elements [e0, e1); `elt` gives each one's code, index and cause. -/
def Slice.combineLine (s : Slice) (p : Grp) (chunk : Bool) (c e0 e1 : Nat) (elt : Nat → Nat × Nat × Nat) : Comb :=
  let d := p.desc
  let s := s.accCheck d e0 e1
  let s := if chunk && e0 < e1 then s.vtCheck (gChunkBase d + 2 * e0) (2 * (e1 - e0)) else s
  (List.range (e1 - e0)).foldl (fun (q : Comb) i =>
    let (x, xi, cause) := elt i
    q.elt d chunk (e0 + i) c x xi cause) (Comb.start s p)

/-- A group starts to close (R286): arrivals accepted before number `ord` was given are combined before its epilogue (R278). -/
def Slice.startClose (s : Slice) (n : Nat) (byClose : Bool) (ord : Nat) : Slice :=
  (s.setGrpState n GSt.CLOSING).modGrp n fun p => { p with byClose := byClose, cutoff := some (p.cutoff.getD ord) }

/-- Add `k` to a unit's group-line words (R259, R276, R277); the second part says that the unit has reached EXPECT. -/
def Slice.addCount (s : Slice) (n expect k : Nat) (lines : List Nat) : Slice × Bool :=
  match lines with
  | [] => (s, false)
  | l0 :: _ =>
    let c := (s.mem.glwAt (l0 / 8192) (l0 % 8192)).toNat % 65536
    let c' := satAdd 0xFFFF c k
    let s := if 0xFFFF < c + k then s.setFld (NS_GRPSTAT.CNTSAT n) 1 else s
    let s := s.modMem fun m => lines.foldl (fun m l =>
      m.setGlw (l / 8192) (l % 8192) (setBits (m.glwAt (l / 8192) (l % 8192)) 0 16 c')) m
    if expect != 0 && c < expect && expect ≤ c' then
      (s.setFld (NS_GRPSTAT.SHORTU n) (s.fld (NS_GRPSTAT.SHORTU n) - 1), true)
    else (s, false)

/-- Combine an accepted arrival into its vitrine-target group (R236, R264, R276, R279). -/
def Slice.combineVit (s : Slice) (p : Grp) (r : Req) : Slice :=
  let d := p.desc
  let n := p.num
  let c := r.fmt.toNat % 16
  let (e0, e1) := gSpan d r
  let chunk := gCHUNKL d != 0
  let pz := reqCauses r.pois r.pcause
  let q := s.combineLine p chunk c e0 e1 fun i =>
    let (x, xi) := arrElt (gOP d) c i r.data
    (x, xi, eltCause (gOP d) c i pz)
  let q := if !chunk then q else
    (List.range ((e1 - 1) / 64 - e0 / 64 + 1)).foldl (fun (q : Comb) i =>
      let ci := e0 / 64 + i
      let l := (gChunkBase d) / 128 + ci
      let cnt := getBits (q.s.mem.glwAt (l / 8192) (l % 8192)) 16 7 + arrK r
      if gCHUNKL d ≤ cnt then q.promote d ci
      else { q with s := q.s.modMem (fun m => m.setGlw (l / 8192) (l % 8192)
              (setBits (m.glwAt (l / 8192) (l % 8192)) 16 7 cnt)) }) q
  let s := q.done n
  let us := gSpanUnits d r
  let (s, hit) := us.foldl (fun (t : Slice × Bool) u =>
    let (s, b) := t.1.addCount n (gEXPECT d) (arrK r) ((s.unitLines d u).map (· / 128))
    (s, t.2 || b)) (s, false)
  let s := s.modGrp n fun p => { p with arrivals := p.arrivals + arrK r, booked := p.booked + arrK r * us.length }
  if hit && !gEXPLICIT d && s.fld (NS_GRPSTAT.SHORTU n) = 0 && s.grpState n = GSt.OPEN then s.startClose n false s.port.nextId else s

/-! ### Opening and initialisation (R269, R270, R297) -/

/-- The state of a group an OPEN has passed the checks of. SHORTU starts at the unit count (R271), with EXPECT = 0 too (assumption 118). -/
def Slice.openGrp (s : Slice) (n : Nat) (d : List Word) (a : GrpAsker) : Slice :=
  let p : Grp := { num := n, desc := d, req := a.req, born := a.born, opener := some a, aborts := [], lines := [], leftCount := 0,
                   booked := 0, idx := [], arrivals := 0, rejects := 0, fwdRej := 0, shortU := 0, poisonLn := 0, fwdSent := 0,
                   fwdDone := 0, byClose := false, openedAt := a.ord, epiDone := false }
  let last := s.fld (NS_GRPSTAT.LAST n)
  let w : Word := setBits (setBits (setBits (setBits (setBits 0 61 3 GSt.OPENING) 60 1 (b2n (gMEM d))) 48 12 a.req.ctx.toNat)
    40 8 last) 0 24 (if gMEM d then 0 else gUnits d)
  let s := { s.wr (Reg.NS_GRPSTAT n) w with grps := s.grps ++ [p] }
  s.markGrp d true

/-- Element `i` of the preload line at offset `o`: its code, its index and its cause (R297). It need not begin at a sector, so the cause is
that of the stored sectors its bytes lie in; one that lies in an uninitialised sector is 0. -/
def Slice.preElt (s : Slice) (op c o : Nat) (data : LineData) (i : Nat) : Nat × Nat × Nat :=
  let parts := if isArg op then [(o + 4 * i, (fmtWidth c + 7) / 8), (o + 64 + 4 * i, 4)]
    else [(o + i * fmtWidth c / 8, (i * fmtWidth c + fmtWidth c - 1) / 8 + 1 - i * fmtWidth c / 8)]
  let empty := parts.any fun p => (List.range ((p.1 + p.2 - 1) / 32 + 1 - p.1 / 32)).any fun k =>
    let sec := p.1 / 32 + k
    !s.vtQuar (sec / 4) && !(s.vtInit (sec / 4)).testBit (sec % 4)
  let (x, xi) := arrElt op c i data
  if empty then (0, 0, Cause.UNINIT)
  else (x, xi, ((parts.map fun p => s.vtCauseOf p.1 p.2).find? (· != 0)).getD 0)

/-- Initialisation and preload of a vitrine-target group (R218, R270, R297). Units and chunk lines are written whole, with what of their last
line lies beyond NELEM (assumption 117). A quarantined line takes no write (R145): the start value of its elements is open (DESIGN CHOICE,
assumption 113). -/
def Slice.initGrp (s : Slice) (p : Grp) : Slice :=
  let d := p.desc
  if gMEM d then s
  else
    let id := identityOf (gOP d) (gACC d)
    let w := accBytes (gACC d)
    let image : LineData := if isExact (gACC d) then 0 else lineOf (fun b => BitVec.ofNat 8 (id >>> (8 * (b % w)))) 128
    let acc := (List.range (gUnits d)).flatMap (s.unitLines d)
    let s := acc.foldl (fun s o => s.vtPut (o / 128) image 0) s
    let s := (List.range (gChunkLines d)).foldl (fun s i => s.vtPut (gChunkBase d / 128 + i) 0 0) s
    if !gPRELOAD d then s
    else
      let c := gPREFMT d % 16
      let k := perLine (gOP d) c
      (List.range (cdiv (gNELEM d) k)).foldl (fun s j =>
        let o := gPREBASE d + 128 * j
        -- a preload tensor need not be line-aligned: its line is read byte by byte
        let s := s.vtCheck o 128
        let data := lineOf (fun b => s.mem.byte (o + b)) 128
        let p := (s.grp? p.num).getD p
        (s.combineLine p false c (j * k) (min ((j + 1) * k) (gNELEM d)) (s.preElt (gOP d) c o data)).done p.num) s

/-- Initialisation ends: the OPEN is answered, and the group opens or closes at once (R269). -/
def Slice.initDone (s : Slice) (g : List (Nat × BitVec 8)) (n : Nat) : Slice :=
  match s.grp? n with
  | none => s
  | some p =>
    let s := if gMEM p.desc then s else (s.initGrp p).retire 5
    let s := match p.opener with
      | some a => s.grpAnswer g a GS.OK
      | none => s
    let s := s.modGrp n fun p => { p with opener := none }
    if !gEXPLICIT p.desc && gEXPECT p.desc = 0 then s.startClose n false 0
    else s.setGrpState n GSt.OPEN

/-! ### Commands (R265 to R269, R758) -/

/-- Apply a group-control command to group `n` with descriptor `d`. -/
def Slice.grpApply (s : Slice) (g : List (Nat × BitVec 8)) (n : Nat) (d : List Word) (a : GrpAsker) : Slice :=
  let st := s.grpState n
  match gCMD d with
  | 1 =>
    let c := s.openCheck n d a.req
    if c = GS.OK then s.openGrp n d a else s.grpAnswer g a c
  | 2 =>
    if gBadForm a.req then s.grpAnswer g a GS.BAD_OPC
    else match s.grp? n with
      | none => s.grpAnswer g a GS.NOT_OPEN
      | some p =>
        if a.req.ctx != p.req.ctx then s.grpAnswer g a GS.DENIED
        else if st != GSt.OPEN then s.grpAnswer g a GS.NOT_OPEN
        else (s.startClose n true a.ord).grpAnswer g a GS.OK
  | 3 =>
    if gBadForm a.req then s.grpAnswer g a GS.BAD_OPC
    else match s.grp? n with
      | none => s.grpAnswer g a GS.NOT_OPEN
      | some p =>
        if a.req.ctx != p.req.ctx then s.grpAnswer g a GS.DENIED
        else s.modGrp n fun p => { p with aborts := p.aborts ++ [a], cutoff := some (p.cutoff.getD a.ord) }
  | _ => s.grpAnswer g a GS.BAD_OPC

/-- An ABORT of the group waits for the arrivals accepted before it (R278). -/
def Slice.aborting (s : Slice) (n : Nat) : Bool :=
  (s.grpState n == GSt.OPENING || s.grpState n == GSt.OPEN) && ((s.grp? n).map fun p => !p.aborts.isEmpty).getD false

/-- Take a group-control command, whose descriptor is its data: it waits for the end of a purge of its context (R627), or behind an ABORT and
other commands of its group that wait (R278). -/
def Slice.grpCommand (s : Slice) (g : List (Nat × BitVec 8)) (a : GrpAsker) : Slice :=
  let n := a.req.group.toNat
  if s.purgeWait a.req || s.aborting n || s.grpHeld.any (fun b => b.req.group == a.req.group) then { s with grpHeld := s.grpHeld ++ [a] }
  else s.grpApply g n (descOf a.req.data) a

/-- The commands that wait are taken again, in order. -/
def Slice.grpResume (s : Slice) (g : List (Nat × BitVec 8)) : Slice :=
  s.grpHeld.foldl (fun s a => s.grpCommand g a) { s with grpHeld := [] }

/-- ABORTs of OPENING and OPEN groups take effect once every arrival accepted before them is combined (R269, R278). -/
def Slice.abortsDue (s : Slice) (g : List (Nat × BitVec 8)) : Slice :=
  s.grps.foldl (fun s p =>
    let st := s.grpState p.num
    if !p.aborts.isEmpty && (st = GSt.OPENING || (st = GSt.OPEN && !s.grpBusy p.num)) then
      (s.modGrp p.num fun q => { q with shortU := s.fld (NS_GRPSTAT.SHORTU p.num) }).endGrp g p.num true
    else s) s

/-! ### The epilogue (R286 to R293, R348 to R350) -/

/-- The epilogue has a scale, bias or activation step. -/
def gSteps (d : List Word) : Bool := gSCMODE d != 0 || gBIASMODE d != 0 || gACT d != 0

/-- A scale or bias value of `w` bytes at offset `o`: its bytes and its cause. -/
def Slice.tensorAt (s : Slice) (o w : Nat) : Nat × Nat := (s.mem.vtNum o w, s.vtCauseOf o w)

/-- Where the scale and the bias of element `e` lie, and how many bytes each has (R288). -/
def gScaleAt (d : List Word) (e : Nat) : Nat × Nat := (gSCALEBASE d + 4 * (e / gROWLEN d), 4)
def gBiasAt (d : List Word) (e : Nat) : Nat × Nat :=
  let bw := if gBIASFMT d = 0 then 4 else 2
  (gBIASBASE d + bw * (if gBIASMODE d = 1 then e % gROWLEN d else e), bw)

/-- The access check of the accumulators, scales and biases of elements [e0, e1) (R580 to R582). -/
def Slice.epiCheck (s : Slice) (d : List Word) (e0 e1 : Nat) : Slice :=
  let s := s.accCheck d e0 e1
  if s.mem.chk.isEmpty && s.mem.bkchk.isEmpty then s
  else (List.range (e1 - e0)).foldl (fun s i =>
    let s := if gSCMODE d = 2 then s.vtCheck (gScaleAt d (e0 + i)).1 (gScaleAt d (e0 + i)).2 else s
    if gBIASMODE d = 0 then s else s.vtCheck (gBiasAt d (e0 + i)).1 (gBiasAt d (e0 + i)).2) s

/-- The value R286 passes to convert for the accumulator bits `a` of element `e`, the cause a scale or bias brings, and flags. -/
def Slice.epiValue (s : Slice) (d : List Word) (a e : Nat) : Src × Nat × RaFlags :=
  let src := accSrc (gOP d) (gACC d) a
  if !gSteps d then (src, 0, RaFlags.none)
  else
    let v := convert 0x1 .rne src
    let fl := v.ra
    let mul := fun (x y : Nat) => (roundFp 0x1 ((decodeElt 0x1 x).mul (decodeElt 0x1 y))).bits
    let (x, c1) :=
      if gSCMODE d = 1 then (mul v.bits (gSCALE d), 0)
      else if gSCMODE d = 2 then
        let (y, c) := s.tensorAt (gScaleAt d e).1 (gScaleAt d e).2
        (mul v.bits y, c)
      else (v.bits, 0)
    let bf := if gBIASFMT d = 0 then 0x1 else if gBIASFMT d = 1 then 0x2 else 0x3
    let (x, c2) :=
      if gBIASMODE d = 0 then (x, 0)
      else
        let (y, c) := s.tensorAt (gBiasAt d e).1 (gBiasAt d e).2
        ((roundFp 0x1 ((decodeElt 0x1 x).add (decodeElt bf y))).bits, c)
    let x := activate (gACT d) (gCLAMPLO d) (gCLAMPHI d) x
    (.num (decodeElt 0x1 x), if c1 != 0 then c1 else c2, fl)

/-- The rounding of element `e`'s conversion (R293). -/
def gRnd (d : List Word) (e : Nat) : Rnd := if gSRND d then .sr (srDraw (gSEED d) e) else .rne

/-- The enabled vitrine window that takes an MX output (R349). -/
def Slice.outWindow (s : Slice) (d : List Word) : Option Nat :=
  (List.range 16).find? fun n =>
    s.flag (NS_FP_WINA.EN n) && !s.flag (NS_FP_WINA.KIND n) && s.fld (NS_FP_WINA.SFMT n) == gOUTFMT d &&
      s.fld (NS_FP_WINA.DBASE n) * 4096 ≤ gTEXT d &&
      gTEXT d + 128 * gOutLines d ≤ (s.fld (NS_FP_WINB.DLIMIT n) + 1) * 4096

/-- One output line of the epilogue: its bytes, causes, scale bytes (for an MX format) and flags. -/
structure OutLine where
  data : LineData
  pz : BitVec 12
  scales : List Nat
  ra : RaFlags
  fp : FpFlags
  deriving DecidableEq, Repr

/-- Give sectors the cause `c` where they have none (the lowest-numbered element comes first: R292). -/
def addCause (z : BitVec 12) (secs : List Nat) (c : Nat) : BitVec 12 :=
  if c = 0 then z else secs.foldl (fun z i => if causeAt z i = 0 then setCause z i c else z) z

/-- One element of an output line: its place, the value to convert, the cause of its poison (0 for none), whether a poisoned or
uninitialised scale or bias took part, and the flags up to the conversion. -/
structure OutElt where
  i : Nat
  v : Src
  cause : Nat
  lost : Bool
  ra : RaFlags
  deriving DecidableEq, Repr

/-- Element `e` of a vitrine-target group as the epilogue meets it (R286, R292); a poisoned accumulator has its value beside its storage
(R232). -/
def Slice.epiElt (s : Slice) (p : Grp) (e i : Nat) : OutElt :=
  let d := p.desc
  let w := accBytes (gACC d)
  let o := s.accAt d e
  let (v, c, fl) := s.epiValue d (s.eltVal p.born p.hid e o w) e
  let ac := s.vtCauseOf o w
  { i := i, v := v, cause := if ac != 0 then ac else c, lost := c != 0, ra := fl }

/-- Output line `j` (R286, R291, R292, R348). A conversion of a value a lost scale or bias took part in sets no flag (assumption 113), and in an
MX block it counts as the value that the stored bytes give (DESIGN CHOICE, assumption 148). -/
def Slice.epiLine (s : Slice) (p : Grp) (j : Nat) : OutLine :=
  let d := p.desc
  let n := gOutPer d
  let oc := gOUTFMT d % 16
  let ow := fmtWidth oc
  let e0 := j * n
  let es : List OutElt := (List.range (min n (gNELEM d - e0))).map fun i => s.epiElt p (e0 + i) i
  let ra := es.foldl (fun f q => f.or q.ra) RaFlags.none
  if isArg (gOP d) then
    es.foldl (fun (l : OutLine) q =>
      let cv := convert oc (gRnd d (e0 + q.i)) q.v
      let ix := (Sparse.get (fun _ => 0xFFFFFFFF) p.idx (e0 + q.i)).toNat
      { l with data := setBits (setBits l.data (32 * q.i) 32 cv.bits) (512 + 32 * q.i) 32 ix,
               pz := addCause l.pz [q.i / 8, 2 + q.i / 8] q.cause,
               ra := if q.lost then l.ra else l.ra.or cv.ra })
      { data := 0, pz := 0, scales := [], ra := ra, fp := {} }
  else if 16 ≤ gOUTFMT d then
    let nums := (List.range n).map fun i => match es[i]? with
      | none => Num.zero
      | some q => match q.v with
        | .num v => v
        | .ovf => .nan false
    let iovf := es.any fun q => q.v == .ovf
    let (codes, scales, fp) := (List.range (n / 32)).foldl (fun (t : List Nat × List Nat × FpFlags) b =>
      let (x, cs, f) := mxEncode oc ((nums.drop (32 * b)).take 32)
      (t.1 ++ cs, t.2.1 ++ [x], t.2.2.or f)) ([], [], {})
    let pz := es.foldl (fun z q => addCause z [q.i * ow / 256, (q.i * ow + ow - 1) / 256] q.cause) (0 : BitVec 12)
    { data := lineOfElts oc n (fun i => codes.getD i 0), pz := pz, scales := scales, ra := ra.or { iovf := iovf }, fp := fp }
  else
    es.foldl (fun (l : OutLine) q =>
      let cv := convert oc (gRnd d (e0 + q.i)) q.v
      { l with data := setBits l.data (ow * q.i) ow cv.bits,
               pz := addCause l.pz [q.i * ow / 256, (q.i * ow + ow - 1) / 256] q.cause,
               ra := if q.lost then l.ra else l.ra.or cv.ra })
      { data := 0, pz := 0, scales := [], ra := ra, fp := {} }

/-- Write output line `j` (R286, R292, R349, R350). Where no window takes it, its blocks are not encoded and raise nothing (DESIGN CHOICE,
assumption 147). -/
def Slice.writeOut (s : Slice) (n j : Nat) : Slice :=
  match s.grp? n with
  | none => s
  | some p =>
    let d := p.desc
    let line := gTEXT d / 128 + j
    let s := (s.ev Ev.EPI_LINE 1).retire 5
    let poison := fun (s : Slice) => s.modGrp n fun p => { p with poisonLn := p.poisonLn + 1 }
    if 16 ≤ gOUTFMT d && (s.outWindow d).isNone then poison (s.vtPut line 0 (allCause Cause.NOWIN))
    else
      let s := s.epiCheck d (j * gOutPer d) (min ((j + 1) * gOutPer d) (gNELEM d))
      let l := s.epiLine p j
      let s := s.vtPut line l.data l.pz
      let s := match (if 16 ≤ gOUTFMT d then s.outWindow d else none) with
        | some k => (s.putScales (gOUTFMT d % 16) (s.scaleAt k line) 0 l.scales).fpFlags l.fp
        | none => s
      let s := s.raFlags n l.ra
      if l.pz = 0 then s else poison s

/-- The loan copies of a memory-target line are invalidated before the group changes it (R42, R428), as its internal work (R477). -/
def Slice.lineLoans (s : Slice) (g : List (Nat × BitVec 8)) (p : Grp) (l : LineAddr) : Slice :=
  match s.lookup Use.L l with
  | some w => s.invStart g l (s.mem.loanAt w (setOf l)) (s.grpJob p.req.cls.toNat (.pa l))
  | none => s

/-- No loan copy of the group's lines stands, and no confirmation for them is due. -/
def Slice.loanFree (s : Slice) (p : Grp) : Bool :=
  p.lines.all fun l => s.invDue l == 0 && (match s.lookup Use.L l with
    | some w => s.mem.loanAt w (setOf l) == 0
    | none => true)

/-- A CLOSING group's lines lose their loan copies before its epilogue, which waits for the confirmations (R42, R286, R428). -/
def Slice.closeLoans (s : Slice) (g : List (Nat × BitVec 8)) : Slice :=
  s.grps.foldl (fun s p =>
    if s.grpState p.num = GSt.CLOSING && !p.epiDone && !s.grpBusy p.num then p.lines.foldl (fun s l => s.lineLoans g p l) s else s) s

/-- A memory-target line, of which no loan copy stands, runs the epilogue in place and leaves its group (R295, R296). -/
def Slice.epiInPlace (s : Slice) (g : List (Nat × BitVec 8)) (n : Nat) (l : LineAddr) : Slice :=
  let cls := ((s.grp? n).map (·.req.cls.toNat)).getD 0
  let s := s.access g l Use.L 15 (s.grpJob cls (.pa l))
  match s.grp? n, s.lookup Use.L l with
  | some p, some w =>
    let d := p.desc
    let set := setOf l
    let f := accFmt (gACC d)
    let k := fmtPerLine f
    let e0 := (l.toNat - gTBASE d / 128) * k
    let old := s.mem.readLine w set
    let es := (List.range k).map fun i =>
      let a := if s.mem.storedPoison w set (i * fmtWidth f / 256) != 0 then
          hidVal p.hid (e0 + i) (lostVal p.born (e0 + i) (accBytes (gACC d)))
        else getElt old f i
      let (v, _, fl) := s.epiValue d a (e0 + i)
      let cv := convert f (gRnd d (e0 + i)) v
      (cv.bits, fl.or cv.ra)
    let new := lineOfElts f k fun i => (es.getD i (0, RaFlags.none)).1
    let mask := (List.range 4).foldl (fun (m : BitVec 128) i =>
      if s.mem.storedPoison w set i != 0 then m else m ||| sectorMask i) 0
    let s := s.modMem (·.writeLine w set new mask)
    let s := s.raFlags n (es.foldl (fun a q => a.or q.2) RaFlags.none)
    let s := if s.mem.poisonOf w set 15 = 0 then s else s.modGrp n fun p => { p with poisonLn := p.poisonLn + 1 }
    let s := ((s.leaveLine n l).ev Ev.EPI_LINE 1).retire 5
    s.setTag w set (setAGE (setRET (setSD (setSV (s.tag w set) 15) 15) Ret.NORMAL) 0)
  | _, _ => s

/-- The close of R286 up to its output lines; a memory-target group's lines run the epilogue in place (R296). The units below EXPECT now,
with every arrival accepted before the close combined, are what the record reports (R310). -/
def Slice.runEpilogue (s : Slice) (g : List (Nat × BitVec 8)) (n : Nat) : Slice :=
  match s.grp? n with
  | none => s
  | some p =>
    let d := p.desc
    let s := s.modGrp n fun p => { p with shortU := s.fld (NS_GRPSTAT.SHORTU n) }
    if gMEM d then
      let s := p.lines.foldl (fun s l => s.epiInPlace g n l) s
      s.modGrp n fun p => { p with epiDone := true }
    else
      let s := (List.range (gChunkLines d)).foldl (fun s ci =>
        let l := gChunkBase d / 128 + ci
        if getBits (s.mem.glwAt (l / 8192) (l % 8192)) 16 7 = 0 then s
        else ((Comb.start s ((s.grp? n).getD p)).promote d ci).done n) s
      let s := (List.range (gOutLines d)).foldl (fun s j => s.writeOut n j) s
      s.modGrp n fun p => { p with epiDone := true }

/-! ### Forwarding (R300 to R302) -/

/-- Issue forward arrivals while fewer than 128 are outstanding. The arrival line counts on from FWDLINE modulo 2^17 (DESIGN CHOICE,
assumption 137). -/
def Slice.fwdIssue (s : Slice) (g : List (Nat × BitVec 8)) (n : Nat) : Slice :=
  match s.grp? n with
  | none => s
  | some p =>
    if s.grpState n != GSt.FORWARDING then s
    else
      let d := p.desc
      let room := min (128 - (p.fwdSent - p.fwdDone)) (gOutLines d - p.fwdSent)
      (List.range room).foldl (fun s i =>
        let j := p.fwdSent + i
        let (s, data, pz) := s.vtRead (gTEXT d / 128 + j)
        let h := gFWDHANDLE d
        let die := h / 4096
        let sl := h / 64 % 64
        let r : Req := { Req.zero with
          pa := BitVec.ofNat 52 (die * 2 ^ 30 + sl * 2 ^ 24 + (gFWDLINE d + j) % 2 ^ 17 * 128), vsp := true, aux := 1,
          group := BitVec.ofNat 6 (h % 64), fmt := BitVec.ofNat 5 (gOUTFMT d), ctx := p.req.ctx, gen := p.req.gen,
          cls := p.req.cls, reqid := p.req.reqid, srcdie := p.req.srcdie, priv := p.req.priv, mask := fullMask,
          data := data, pois := poisBits pz, pcause := pz }
        let s := s.modGrp n fun p => { p with fwdSent := p.fwdSent + 1 }
        s.emit g (s.route die sl .redn r (.arrival n)) (s.grpJob p.req.cls.toNat .none)) s

/-- The epilogue is over: GRP is cleared, and the group forwards or completes (R269, R286). -/
def Slice.epiFinish (s : Slice) (g : List (Nat × BitVec 8)) (n : Nat) : Slice :=
  match s.grp? n with
  | none => s
  | some p =>
    let s := s.markGrp p.desc false
    if gFWD p.desc then (s.setGrpState n GSt.FORWARDING).fwdIssue g n else s.finishGrp g n 0

/-- A forward arrival is answered (R302). -/
def Slice.fwdAnswer (s : Slice) (g : List (Nat × BitVec 8)) (n status : Nat) : Slice :=
  match s.grp? n with
  | none => s
  | some p =>
    if s.grpState n != GSt.FORWARDING then s
    else
      let rej := status != Stat.ACK
      let s := if rej then s.bump NS_GRP_EVT.FWDREJ 1 else s
      let s := s.retire 5
      let s := s.modGrp n fun p => { p with fwdDone := p.fwdDone + 1, fwdRej := p.fwdRej + b2n rej }
      if p.fwdDone + 1 = gOutLines p.desc then s.finishGrp g n (if 0 < p.fwdRej + b2n rej then 3 else 0)
      else s.fwdIssue g n

end Sys2Proof.Machine
end

