-- ==== Sys2Proof/Machine/FormatPort.lean ====
section
/-! DEFINITION. The format port (chapter "The Format Port"): the checks of a converting request, what a converting read delivers
and what a converting write stores. -/

namespace Sys2Proof.Machine

/-! ### Format fields (R195, R208) -/

/-- A format field that is not reserved: its code is defined, and the MX bit stands only with a code R195 allows. -/
def fmtFieldOk (f : Nat) : Bool := f % 16 != 0xF && mxCodeOk f

/-- The opcode reads FMT (R509). -/
def readsFmt : Op → Bool
  | .crd | .cwr | .vcrd | .vcwr | .redc | .redn => true
  | .atom a _ => a == .fadd || a == .ladd
  | _ => false

/-- A converting opcode. -/
def isCvt : Op → Bool
  | .crd | .cwr | .vcrd | .vcwr => true
  | _ => false

/-- A converting read. -/
def isCvtRead : Op → Bool
  | .crd | .vcrd => true
  | _ => false

/-! ### Parts (R321) -/

/-- The parts of a stored line of format `sf` in the delivery or source format `f`. -/
def cvtParts (sf f : Nat) : Nat := cdiv (fmtPerLine (sf % 16)) (fmtPerLine f)

/-- The stored elements [e0, e1) of part `m`. -/
def partSpan (sf f m : Nat) : Nat × Nat :=
  (m * fmtPerLine f, min ((m + 1) * fmtPerLine f) (fmtPerLine (sf % 16)))

/-- The part number of a converting write (R322). -/
def partOf (r : Req) : Nat := r.pa.toNat % 8

/-! ### Windows and checks (R320, R323, R326) -/

/-- The stored format of the line a converting request names, and the vitrine offset of its scale bytes, by the windows now. A line of an X way
is in no window (R323). -/
def Slice.cvtWindow (s : Slice) (op : Op) (r : Req) : Option (BitVec 5 × Nat) :=
  let n := if op.isVt && s.isX (r.pa.toNat % 2 ^ 24 / 2 ^ 20) then none
    else s.window (!op.isVt) (if op.isVt then r.pa.toNat % 2 ^ 24 / 4096 else r.pa.toNat / 4096)
  n.map fun n => (BitVec.ofNat 5 (s.fld (NS_FP_WINA.SFMT n)), s.scaleAt n (r.pa.toNat % 2 ^ 24 / 128))

/-- The scale line of a converting request, where its stored format is an MX format. -/
def scaleLine (cvt : Option (BitVec 5 × Nat)) : Option Nat :=
  match cvt with
  | some (f, o) => if 16 ≤ f.toNat then some (o / 128) else none
  | none => none

/-- The line an addressed request names has GRP = 1 in the ways of its use. -/
def Slice.grpMarked (s : Slice) (l : LineAddr) : Bool :=
  match s.lookup (s.useOf l) l with
  | some w => tagGRP (s.tag w (setOf l))
  | none => false

/-- The checks of R323 in order: the status, or 0 when the request passes. -/
def Slice.cvtCheck (s : Slice) (op : Op) (r : Req) (cvt : Option (BitVec 5 × Nat)) : Nat :=
  let f := r.fmt.toNat
  let line := r.pa.toNat % 2 ^ 24 / 128
  if !fmtFieldOk f then Stat.BAD_FMT
  else if f % 16 = 0xE then Stat.BAD_ARITH
  else if !op.isVt && s.isHost r.line then Stat.BAD_FMT
  else match cvt with
    | none => Stat.BAD_FMT
    | some (sf, _) =>
      if !fpPair sf.toNat f then Stat.BAD_FMT
      else if (if isCvtRead op then r.off != 0
          else r.off / 8 != 0 || cvtParts sf.toNat f ≤ partOf r || r.mask != fullMask) then Stat.BAD_FMT
      else if (if op.isVt then s.vtGrp line else s.grpMarked r.line) ||
          (match scaleLine cvt with
           | some k => s.vtGrp k
           | none => false) then Stat.BAD_FMT
      else if op.isVt && !(s.vtPermit r.ctx line && (match scaleLine cvt with
          | some k => s.vtPermit r.ctx k
          | none => true)) then Stat.DENIED
      else 0

/-- What a refusal under R323 counts. -/
def Slice.cvtRefuse (s : Slice) (status : Nat) : Slice :=
  let s := (s.setFld NS_FP_STICKY.REJ 1).bump NS_FP_EVT.REJ 1
  if status = Stat.DENIED then s.bump NS_VT_EVT.DENIED 1 else s

/-! ### Sectors of elements -/

/-- The sectors the bits of element `e` of width `w` lie in. -/
def eltSectors (w e : Nat) : List Nat :=
  let a := e * w / 256
  let b := (e * w + w - 1) / 256
  if a = b then [a] else [a, b]

/-- The cause of the first of some sectors that has one. -/
def firstCause (z : BitVec 12) (secs : List Nat) : Nat := ((secs.map (causeAt z)).find? (· != 0)).getD 0

/-! ### Delivery (R337 to R339) -/

/-- Part `m` of a stored line as the port delivers it: its bytes, its causes and the flags. `scale b` is the scale byte of block
`b` and its cause. An element of a poisoned or uninitialised sector is not converted. -/
def deliverPart (sf f : Nat) (data : LineData) (pz : BitVec 12) (scale : Nat → Nat × Nat) (m : Nat)
    : LineData × BitVec 12 × FpFlags :=
  let c := sf % 16
  let (e0, e1) := partSpan sf f m
  (List.range (e1 - e0)).foldl (fun (q : LineData × BitVec 12 × FpFlags) i =>
    let e := e0 + i
    let (x, xc) := if 16 ≤ sf then scale (e / 32) else (0, 0)
    let cause := if firstCause pz (eltSectors (fmtWidth c) e) != 0 then firstCause pz (eltSectors (fmtWidth c) e) else xc
    if cause != 0 then (q.1, addCause q.2.1 (eltSectors (fmtWidth f) i) cause, q.2.2)
    else
      let v := if 16 ≤ sf then mxDecode c x (getElt data c e) else decodeElt c (getElt data c e)
      let cv := convert f .rne (.num v)
      (setBits q.1 (fmtWidth f * i) (fmtWidth f) cv.bits, q.2.1, q.2.2.or { nv := cv.nv, of := cv.of })) (0, 0, {})

/-- The scale byte of block `b` whose eight bytes begin at vitrine offset `o`, with its cause. -/
def Slice.scaleByte (s : Slice) (o b : Nat) : Nat × Nat := ((s.mem.byte (o + b)).toNat, s.vtCauseOf (o + b) 1)

/-- Every part of a stored line, in order, with the flags they set. -/
def Slice.deliverAll (s : Slice) (sf f o : Nat) (data : LineData) (pz : BitVec 12)
    : List (LineData × BitVec 12) × FpFlags :=
  (List.range (cvtParts sf f)).foldl (fun (q : List (LineData × BitVec 12) × FpFlags) m =>
    let (d, z, fl) := deliverPart sf f data pz (s.scaleByte o) m
    (q.1 ++ [(d, z)], q.2.or fl)) ([], {})

/-! ### Storage (R334 to R336, R340) -/

/-- A part converted for storage. -/
structure Stored where
  data : LineData
  mask : BitVec 128
  /-- causes of the stored sectors written as poison -/
  pz : BitVec 12
  /-- scale bytes of the blocks the part covers, and the first of them -/
  scales : List Nat
  block0 : Nat
  fl : FpFlags
  deriving DecidableEq, Repr

/-- Element bytes [e0, e1) of a stored line as a byte mask. -/
def eltMask (w e0 e1 : Nat) : BitVec 128 := byteRange (e0 * w / 8) ((e1 - e0) * w / 8)
where
  byteRange (b n : Nat) : BitVec 128 := BitVec.ofNat 128 ((2 ^ n - 1) * 2 ^ b)

/-- Part `m` of a converting write into stored format `sf` from source format `f`. `pz` are the causes of its source sectors. It stores the
bytes of the part's elements: bytes 120 to 127 of a line of an unscaled 6-bit format stay as they are in a line that is initialised
(DESIGN CHOICE, assumption 135). -/
def storePart (sf f m : Nat) (src : LineData) (pz : BitVec 12) : Stored :=
  let c := sf % 16
  let w := fmtWidth c
  let (e0, e1) := partSpan sf f m
  let n := e1 - e0
  let srcCause := fun (i : Nat) => firstCause pz (eltSectors (fmtWidth f) i)
  let mask := eltMask w e0 e1
  if 16 ≤ sf then
    (List.range (n / 32)).foldl (fun (q : Stored) b =>
      let is := (List.range 32).map (fun i => 32 * b + i)
      let (x, codes, fl) := mxEncode c (is.map fun i => decodeElt f (getElt src f i))
      let cause := ((is.map srcCause).find? (· != 0)).getD 0
      { q with
        data := (is.zip codes).foldl (fun d p => setBits d (w * (e0 + p.1)) w p.2) q.data,
        pz := is.foldl (fun z i => addCause z (eltSectors w (e0 + i)) cause) q.pz,
        scales := q.scales ++ [x], fl := q.fl.or fl })
      { data := 0, mask := mask, pz := 0, scales := [], block0 := e0 / 32, fl := {} }
  else
    (List.range n).foldl (fun (q : Stored) i =>
      let cv := convert c .rne (.num (decodeElt f (getElt src f i)))
      { q with
        data := setBits q.data (w * (e0 + i)) w cv.bits,
        pz := addCause q.pz (eltSectors w (e0 + i)) (srcCause i),
        fl := q.fl.or { nv := cv.nv, of := cv.of } })
      { data := 0, mask := mask, pz := 0, scales := [], block0 := 0, fl := {} }

end Sys2Proof.Machine
end

