-- ==== Sys2Proof/Machine/Accession.lean ====
section
/-! DEFINITION. Accession counters (R452 to R463, R468, R469): counted and sealed writes, increments and releases. -/

namespace Sys2Proof.Machine

/-! ### Handles (R452, R453, R509) -/

/-- The accession word of a counted or sealed write, and the handle in it. -/
def accWord (r : Req) : Nat := getBits r.aux 0 48
def accHandle (r : Req) : Nat := getBits r.aux 0 17
def accDie (r : Req) : Nat := accHandle r / 2 ^ 14
def accSlice (r : Req) : Nat := accHandle r / 256 % 64
def accNum (r : Req) : Nat := accHandle r % 256
/-- TARGET of a sealed write. -/
def accTarget (r : Req) : Nat := accWord r / 2 ^ 17 % 2 ^ 24
/-- Bits [47:41] of the accession word are zero (R456). -/
def accWordOk (r : Req) : Bool := accWord r / 2 ^ 41 == 0
/-- FAIL of an increment. -/
def accFail (r : Req) : Bool := bitAt r.aux 17

/-- STATE codes (R468). -/
abbrev AccSt.IDLE : Nat := 0
abbrev AccSt.HOLDING : Nat := 1
abbrev AccSt.RELEASING : Nat := 2
abbrev AccSt.ERROR : Nat := 3

def Slice.accState (s : Slice) (k : Nat) : Nat := s.fld (NS_ACCN_TARGET.STATE k)
def Slice.setAccState (s : Slice) (k st : Nat) : Slice := s.setFld (NS_ACCN_TARGET.STATE k) st
/-- HOLD of a counter: its held sealed write, not issued yet. -/
def Slice.hold? (s : Slice) (k : Nat) : Option Hold := s.holds.find? (fun h => h.k == k && !h.issued)
def Slice.dropHold (s : Slice) (k : Nat) : Slice := { s with holds := s.holds.filter (fun h => h.k != k || h.issued) }
/-- A release in flight. -/
def Slice.release? (s : Slice) (k n : Nat) : Option Hold := s.holds.find? (fun h => h.k == k && h.n == n && h.issued)
def Slice.dropRelease (s : Slice) (k n : Nat) : Slice := { s with holds := s.holds.filter (fun h => h.k != k || h.n != n || !h.issued) }

/-! ### Increments (R454, R455) -/

/-- The increment a counted write sends to its counter (R454), with FAIL when it was refused (R455). -/
def Slice.sendIncrement (s : Slice) (g : List (Nat × BitVec 8)) (w : Req) (born : Nat) (fail : Bool) : Slice :=
  let r : Req := { Req.zero with
    aux := BitVec.ofNat 64 (accHandle w + 2 ^ 17 * b2n fail), ctx := w.ctx, gen := w.gen, cls := w.cls, slack := w.slack,
    reqid := BitVec.ofNat 8 (192 + s.num), srcdie := BitVec.ofNat 3 s.die, priv := w.priv }
  s.emit g (s.route (accDie w) (accSlice w) .accinc r .incr) { s.reqJob .cntwr w born false false with key := .none }

/-! ### Sealed writes (R456 to R462) -/

/-- A reply to the requester of a sealed write. -/
def Slice.sealReply (s : Slice) (g : List (Nat × BitVec 8)) (h : Hold) (status : Nat) : Slice :=
  s.reply g (s.statusBeat .sealwr h.req none h.born status 0)

/-- try_release of R458. -/
def Slice.tryRelease (s : Slice) (g : List (Nat × BitVec 8)) (k : Nat) : Slice :=
  let count := s.fld (NS_ACCN_TARGET.COUNT k)
  let target := s.fld (NS_ACCN_TARGET.TARGET k)
  match s.hold? k with
  | none => s
  | some h =>
    if count < target then s
    else
      let s := s.setFld (NS_ACCN_TARGET.COUNT k) (count - target)
      let s := if count - target != 0 then s.setFld NS_ACCN_STICKY.EXCESS 1 else s
      if s.flag (NS_ACCN_TARGET.TAINT k) then
        let s := ((s.dropHold k).setFld (NS_ACCN_TARGET.TAINT k) 0).setFld NS_ACCN_STICKY.TAINTREL 1
        (s.sealReply g h Stat.SEAL_ERR).setAccState k AccSt.IDLE
      else
        let s := s.setAccState k AccSt.RELEASING
        let s := { s with holds := replaceFirst (fun h => h.k == k && !h.issued) (fun h => { h with issued := true }) s.holds }
        let home := s.homeOf h.req.line
        s.emit g (s.route home.1 home.2 .wr h.req (.seal k h.n)) (s.reqJob .wr h.req h.born false false)

/-- The conditions of R456 in order: the status, or 0 when the sealed write is accepted. -/
def Slice.sealCheck (s : Slice) (r : Req) : Nat :=
  let k := accNum r
  if !accWordOk r then Stat.BAD_ACCN
  else if !s.flag (NS_ACCN_TARGET.EN k) then Stat.ACCN_OFF
  else if s.fld (NS_ACCN_TARGET.CTX k) != r.ctx.toNat then Stat.ACCN_CTX
  else if s.accState k = AccSt.HOLDING || s.accState k = AccSt.RELEASING then Stat.ACCN_BUSY
  else if s.accState k = AccSt.ERROR then Stat.ACCN_ERR
  else 0

/-- A sealed write at its counter's slice (R456 to R459), with its number `n` in the order of acceptance: no other release has it, one that a
purge has ended included (R463). -/
def Slice.sealWrite (s : Slice) (g : List (Nat × BitVec 8)) (r : Req) (born n : Nat) : Slice :=
  let c := s.sealCheck r
  let k := accNum r
  if c != 0 then
    ((s.bump NS_ACCN_EVT.REJECTED 1).setFld NS_ACCN_STICKY.REJ 1).reply g (s.statusBeat .sealwr r none born c 0)
  else
    let h : Hold := { k := k, n := n, req := r, born := born, issued := false, disable := false }
    let s := { s with holds := s.holds ++ [h] }
    let s := (s.setFld (NS_ACCN_TARGET.TARGET k) (accTarget r)).setAccState k AccSt.HOLDING
    (s.sealReply g h Stat.HELD).tryRelease g k

/-- An increment at its counter (R458), of the current generation. -/
def Slice.increment (s : Slice) (g : List (Nat × BitVec 8)) (r : Req) : Slice :=
  let k := accNum r
  if !s.flag (NS_ACCN_TARGET.EN k) || s.fld (NS_ACCN_TARGET.CTX k) != r.ctx.toNat then
    (s.bump NS_ACCN_EVT.STRAYINC 1).setFld NS_ACCN_STICKY.MISMATCH 1
  else if s.accState k = AccSt.ERROR then s
  else if s.fld (NS_ACCN_TARGET.COUNT k) = 0xFFFFFF then
    let s := match (if s.accState k = AccSt.HOLDING then s.hold? k else none) with
      | some h => (s.dropHold k).sealReply g h Stat.SEAL_ERR
      | none => s
    (s.setAccState k AccSt.ERROR).setFld NS_ACCN_STICKY.OVF 1
  else
    let s := s.setFld (NS_ACCN_TARGET.COUNT k) (s.fld (NS_ACCN_TARGET.COUNT k) + 1)
    let s := if accFail r then s.setFld (NS_ACCN_TARGET.TAINT k) 1 else s
    if s.accState k = AccSt.HOLDING then s.tryRelease g k else s

/-- Count an increment that reached its counter, stale ones included (R669). -/
def Slice.countReceived (s : Slice) : Slice :=
  s.setFld NS_BALANCE_INC.INCRCVD (s.fld NS_BALANCE_INC.INCRCVD + 1)

/-- EN of a counter is written with 0 (R469). A release that an overflow has left in flight runs to its end (R458). -/
def Slice.disableCounter (s : Slice) (g : List (Nat × BitVec 8)) (k : Nat) : Slice :=
  let st := s.accState k
  if st = AccSt.RELEASING then
    let n := ((s.holds.filter fun h => h.k == k && h.issued).map (·.n)).foldl max 0
    { s with holds := replaceFirst (fun h => h.k == k && h.n == n && h.issued) (fun h => { h with disable := true }) s.holds }
  else
    let s := match s.hold? k with
      | some h => (s.dropHold k).sealReply g h Stat.SEAL_ERR
      | none => s
    if st = AccSt.HOLDING || st = AccSt.ERROR then s.setAccState k AccSt.IDLE else s

/-- A release has ended: the hold goes, the counter is idle unless it is in ERROR, and an EN write of 0 made meanwhile takes effect as one
made now would, a sealed write held since then included (R458, R469). -/
def Slice.releaseEnds (s : Slice) (g : List (Nat × BitVec 8)) (h : Hold) : Slice :=
  let k := h.k
  let s := s.dropRelease k h.n
  let s := s.modMeas fun q => { q with retired := q.retired ||| 0x80 }
  let s := if s.accState k = AccSt.RELEASING then s.setAccState k AccSt.IDLE else s
  if !h.disable then s
  else if s.accState k = AccSt.RELEASING then s.disableCounter g k
  else (s.disableCounter g k).setFld (NS_ACCN_TARGET.EN k) 0

/-- The home's answer to a released write (R458). -/
def Slice.releaseAnswer (s : Slice) (g : List (Nat × BitVec 8)) (k n status : Nat) : Slice :=
  match s.release? k n with
  | none => s
  | some h =>
    if status = Stat.ACK then
      ((s.sealReply g h Stat.SEAL_DONE).bump NS_ACCN_EVT.RELEASED 1).releaseEnds g h
    else ((s.sealReply g h Stat.SEAL_ERR).setFld NS_ACCN_STICKY.TAINTREL 1).releaseEnds g h

/-- A purge or a compute reset clears a counter (R463, R469). -/
def Slice.clearCounter (s : Slice) (k : Nat) : Slice :=
  let off := s.holds.any fun h => h.k == k && h.disable
  let s := { s with holds := s.holds.filter (fun h => h.k != k) }
  let s := ((s.setFld (NS_ACCN_TARGET.COUNT k) 0).setFld (NS_ACCN_TARGET.TAINT k) 0).setAccState k AccSt.IDLE
  if off then s.setFld (NS_ACCN_TARGET.EN k) 0 else s

end Sys2Proof.Machine
end

