-- ==== Sys2Proof/Machine/Reset.lean ====
section
/-! DEFINITION. What a reset leaves of the slice (R17, R463, R621, R633, R634, R637, R641). The sweep of tags and directory
(R643, R599) belongs to the release sequence. -/

namespace Sys2Proof.Machine

/-- A field keeps its value through a reset of the level (R17, R634). -/
def Keep.survives (k : Keep) (lvl : Level) : Bool :=
  match lvl, k with
  | _, .a => true
  | .por, _ => false
  | .pkg, .k => true
  | .pkg, _ => false
  | .cmp, .none => false
  | .cmp, _ => true

/-- A register's word after a reset of the level. -/
def resetRegWord (lvl : Level) (off : Nat) (w : Word) : Word :=
  match regFields off with
  | none => 0
  | some fs => fs.foldl (fun v f => setBits v f.lo f.w (if f.keep.survives lvl then getBits w f.lo f.w else f.reset)) 0

/-- The register file after a reset of the level; a register not listed has its Reset column already. -/
def resetRegs (lvl : Level) (regs : List (Nat × Word)) : List (Nat × Word) :=
  Sparse.setAll resetWord regs (regs.map fun p => (p.1, resetRegWord lvl p.1 (Sparse.get resetWord regs p.1)))

/-- The causes of R637 by number: 0 POR, 1 PKG, 2 CMP, 3 BLOCK, 4 BKUE, 5 GLITCH. -/
def causeFld (c : Nat) : Fld :=
  match c with
  | 0 => NS_RST_CNT0.POR
  | 1 => NS_RST_CNT0.PKG
  | 2 => NS_RST_CNT0.CMP
  | 3 => NS_RST_CNT0.BLOCK
  | 4 => NS_RST_CNT1.BKUE
  | _ => NS_RST_CNT1.GLITCH

/-- Count a cause, set its SEEN bit and, but for GLITCH, LAST (R637). -/
def Slice.countCause (s : Slice) (c : Nat) : Slice :=
  let s := (s.bump (causeFld c) 1).setFld ⟨Reg.NS_RST_CAUSE, c, 1⟩ 1
  if c = 5 then s else s.setFld NS_RST_CAUSE.LAST c

/-- A reply beat that holds no tracker is the last word on a request that was applied: it is neither a credit nor a die-level
acknowledgement, which is not all of the answer. -/
def Beat.ends (b : Beat) : Bool := b.trk.isNone && b.status != Stat.CREDIT && b.status != Stat.HELD && b.acklvl != 1

/-- Accepted requests that a reset loses (R641): each reader of a tracker, each acknowledgement that has not left, each sweep, each
transaction of a cluster and each group command that has not been answered. -/
def Slice.lostRequests (s : Slice) : Nat :=
  ((s.port.trks.filter (·.stage != .stale)).map (fun t => 1 + t.joined.length)).sum
    + ((s.port.beats ++ s.port.granted).filter Beat.ends).length + (s.out.outq.filter fun i => match i.msg with
        | .rep b => b.ends
        | _ => false).length + s.port.sweeps.length
    + (s.coh.txns.filter (fun t => t.who.cluster?.isSome)).length + s.coh.waiters.length
    + (s.grps.map (fun p => b2n p.opener.isSome + p.aborts.length)).sum + s.grpHeld.length

/-- Every issue entry's epoch advanced by one (R621). -/
def advanceAllEpochs (o : Outs) : List (Nat × BitVec 3) :=
  (List.range 512).foldl (fun m e => Sparse.set (fun _ => 0) m e (o.epochOf e + 1)) o.epochs

/-- What a compute or block reset finds in the tag entries (R641): BUSY as R63 defines it, and the sectors of a write that has not
left the slice still dirty. A line that was leaving while it came back to another way of its set is in that way only. -/
def Slice.markBusy (s : Slice) : Slice :=
  let back := fun (s : Slice) (o : MemOp) =>
    if !o.write || s.opLeft o then s
    else match s.lookup (s.useOf o.line) o.line with
      | none => s
      | some w =>
        let t := s.tag w (setOf o.line)
        s.setTag w (setOf o.line) (setSD t (tagSD t ||| (o.sectors.toNat &&& tagSV t)))
  let s := s.chan.ops.foldl back s
  let s := s.chan.evicts.foldl (fun s p =>
    if (s.lookup (s.wayCode p.1) (tagTAG (s.tag p.1 p.2))).isSome then s.clearEntry p.1 p.2 else s) s
  let held := (s.port.invs.map (·.1)) ++ (s.port.trks.filter (fun t => t.op == .flush)).map (fun t => t.req.line)
  held.foldl (fun s l => match s.lookup (s.useOf l) l with
    | some w => s.setTag w (setOf l) (setBUSY (s.tag w (setOf l)) (s.busyAt w (setOf l)))
    | none => s) s

/-- The higher of two levels. -/
def Level.max : Level → Level → Level
  | .por, _ | _, .por => .por
  | .pkg, _ | _, .pkg => .pkg
  | .cmp, .cmp => .cmp

/-- The changes a reset makes to fields that it does not reset: a pending disable of an accession counter is carried out (R469) where
the level keeps EN, and the reset records itself (R637). The provenance log notes them (R18, R694). -/
def Slice.resetMarks (s : Slice) (lvl : Level) (cause : Nat) : Slice :=
  (if lvl = .cmp then (s.holds.filter (·.disable)).foldl (fun s h => s.setFld (NS_ACCN_TARGET.EN h.k) 0) s else s).countCause cause

/-- A reset of a level, for a cause of R637: what R633 ends is ended, and the release sequence has not begun. In an uncompleted release
the highest level since the last completed one is applied (R636). -/
def Slice.resetTo (s : Slice) (level : Level) (cause : Nat) : Slice :=
  let lvl := level.max s.sys.applied
  let lost := min 0xFFFF s.lostRequests
  let s := s.resetMarks lvl cause
  let outs : Outs := { Outs.empty with
    epochs := if lvl = .por then [] else advanceAllEpochs s.out,
    sentPort := s.out.sentPort, sentMR := s.out.sentMR, sentReq := s.out.sentReq, sentLW := s.out.sentLW, sentDD := s.out.sentDD,
    sentRep := s.out.sentRep,
    sentCT := s.out.sentCT }
  let mem : Mem := if lvl = .cmp then { s.markBusy.mem with pred := [] }
    else { Mem.empty with tier := s.mem.tier, chk := s.mem.chk }
  let sys : Sys := { s.sys with
    released := 0, applied := lvl, bkLost := false, frz := false, frzEdge := none, captured := false, reinv := [], sclkRuns :=
      true, waking := false,
    woken := false, sleepAck := false, irq := false, blockSince := none, bkFail := false, bkSnap := none }
  let t : Slice :=
    { regs := resetRegs lvl s.regs, mem := mem, port := Port.empty, out := outs,
      chan := { Chan.empty with sentHC := s.chan.sentHC }, grps := [], grpHeld := [], bulk := Bulk.empty, holds := [], coh := Coh.empty,
      walk := Walk.empty, meas := Meas.empty, sys := sys }
  if lvl = .cmp then
    (((t.setFld NS_RC_RSTREC.LOSTREQ lost).setFld NS_RC_RSTREC.REINV 0).setFld NS_RC_RSTREC.RSNOOP 0).setFld
      NS_RC_RSTREC.RSTPOIS 0
  else t

/-- The slice as an uncorrectable bookkeeping error met it: the reset comes at once (R598), so that nothing the rest of the step did stands,
but for the answer of the access on CT that the step carries out, in the clock island. -/
def Slice.atFail (s : Slice) : Slice :=
  match (if s.sys.bkFail then s.sys.bkSnap else none) with
  | none => s
  | some k =>
    { regs := k.regs, mem := k.mem, port := k.port, out := { k.out with sentCT := s.out.sentCT }, chan := k.chan, grps := k.grps,
      grpHeld := k.grpHeld, bulk := k.bulk, holds := k.holds, coh := k.coh, walk := k.walk, meas := k.meas, sys := s.sys }

/-- The reset of the block domain that an uncorrectable bookkeeping error makes at once (R598). -/
def Slice.bkReset (s : Slice) : Slice :=
  if !s.sys.bkFail then s
  else (s.resetTo .cmp 4).modSys fun y => { y with bkLost := true }

end Sys2Proof.Machine
end

