-- ==== Sys2Proof/Machine/Counters.lean ====
section
/-! DEFINITION. What passes with a cycle of SCLK: the cycle counter, the slot census, the programmable counters, the progress
counters, the quiet counts and the interrupt pin (R546, R549, R564, R622, R623, R638, R654, R676 to R683, R737). -/

namespace Sys2Proof.Machine

/-! ### Conditions -/

/-- The clock island runs (R676, R677). -/
def Slice.clocked (s : Slice) : Bool := s.sys.released != 0 && s.sys.sclkRuns && s.sys.inReset.isNone

/-- MQ_RDY. -/
def Slice.mqRdy (s : Slice) : Bool := s.flag NS_PORTSTAT.MESHRDY && s.sys.sclkRuns

/-- A group is OPENING, CLOSING or FORWARDING. -/
def Slice.grpMoving (s : Slice) : Bool :=
  s.grps.any fun p => let st := s.grpState p.num; st = GSt.OPENING || st = GSt.CLOSING || st = GSt.FORWARDING

/-- A directory entry has BUSY = 1. -/
def Slice.dirBusy (s : Slice) : Bool :=
  !s.coh.txns.isEmpty || !s.coh.recover.isEmpty || s.mem.dir.any (fun p => p.1 % 2 == 1 && bitAt p.2 32)

/-- A tracker of any kind is held. -/
def Slice.trkHeld (s : Slice) : Bool := !s.port.trks.isEmpty || !s.coh.txns.isEmpty || !s.coh.waiters.isEmpty || s.evictOps != 0

/-- An accession counter is RELEASING. -/
def Slice.accBusy (s : Slice) : Bool := s.holds.any (·.issued)

/-- R638: the slice is quiescent. The model keeps nothing in a crossing: what has not been taken is a command that waits. -/
def Slice.quiescent (s : Slice) : Bool :=
  !s.trkHeld && s.out.issue.isEmpty && s.bulk.active.isNone && !s.grpMoving && !s.accBusy && !s.dirBusy && s.walk.purge.isNone

/-- Every outbound credit has returned (R527, R528, R531, R535, R539). -/
def Slice.creditsHome (s : Slice) : Bool :=
  s.fld NS_PORTSTAT.MRCRED == 32 && s.fld NS_PORTSTAT.MOCRED == 32 && s.fld NS_PORTSTAT.HCCRED == 96 &&
  (List.range 5).all (fun i => s.out.lwCred.getD i 0 == 8) &&
  (List.range 24).all (fun i => i / 3 == s.die || s.out.ddCred.getD i 0 == 16)

/-- The conditions of R546. -/
def Slice.maySleep (s : Slice) : Bool :=
  !s.trkHeld && s.bulk.cmds.isEmpty && !s.grpMoving && !s.flag NS_WAYCHG.BUSY && !s.flag NS_DIR_STAT.RECLBUSY && !s.accBusy &&
  s.port.sweeps.isEmpty && s.creditsHome

/-! ### Counting -/

/-- Add to a 48-bit count; the second part says that it wrapped (R681, R492). -/
def Slice.count48 (s : Slice) (cnt ovf : Fld) (n : Nat) : Slice × Bool :=
  let k := s.fld cnt + n
  let s := s.setFld cnt k
  if 2 ^ 48 ≤ k then (s.setFld ovf 1, true) else (s, false)

/-- The census counter of a slot: 0 SRV, 1 RPL, 2 IDL, 3 TRK, 4 CRD, 5 HLD, 6 DPT. -/
def slotNum : Option SlotCls → Nat
  | some .served => 0
  | some .replay => 1
  | none => 2
  | some .tracker => 3
  | some .credit => 4
  | some .hold => 5
  | some .dataport => 6

/-- The event of R680 a slot counts. -/
def slotEv (k : Nat) : Nat :=
  match k with
  | 0 => Ev.SLOT_SERVED | 1 => Ev.SLOT_REPLAY | 2 => Ev.SLOT_IDLE | _ => Ev.SLOT_STALL

/-- The slots of the cycle (R683). In this and what follows `b` is the slice with the register values that hold in the cycle: a write governs
from the cycle after it (R727). -/
def Slice.census (s b : Slice) : Slice :=
  if !b.mqRdy || b.frozen then s
  else
    let one := fun (s : Slice) (odd : Bool) (c : Option SlotCls) =>
      let k := slotNum c
      ((s.count48 (NS_CNT_SLOT.COUNT k) (NS_CNT_SLOT.OVF k) 1).1).evBy b (slotEv k) 1 (some odd) none
    one (one s false s.port.slotE) true s.port.slotO

/-- The events that count once a cycle (R680). -/
def Slice.occupancy (s b : Slice) : Slice :=
  let once := fun (s : Slice) (code n : Nat) => s.evBy b code n none none
  let s := once (once s Ev.CYCLES 1) Ev.CH_HELD_OCC s.heldReqs
  let s := once (once s Ev.READ_OCC (s.trkUsed .read)) Ev.WRITE_OCC (s.trkUsed .write)
  if !(s.port.beats ++ s.port.granted).isEmpty && s.fld NS_PORTSTAT.MRCRED = 0 then once s Ev.REPLY_STALL 1 else s

/-- The cycle's occurrences reach the programmable counters, unless they are frozen when it ends (R688); one that was written keeps what was
written, but a wrap of the cycle sets OVF again where the write cleared it (R678, R681, R682). -/
def Slice.pmcApply (s b : Slice) : Slice :=
  if b.frozen then s else (List.range 8).foldl (fun s i =>
    let n := s.meas.pmcPend.getD i 0
    let (s, wrapped) := match s.meas.pmcWritten.find? (·.1 == i) with
      | none => s.count48 (NS_CNT_PMC.COUNT i) (NS_CNT_PMC.OVF i) n
      | some (_, none) => (s, false)
      | some (_, some c) => if 2 ^ 48 ≤ c + n then (s.setFld (NS_CNT_PMC.OVF i) 1, true) else (s, false)
    if wrapped && b.flag (NS_CNT_SEL.OVFIRQ i) then s.irqSet NS_IRQ_STAT.COUNTER else s) s

/-! ### Progress (R622, R623) -/

/-- The limit of R624: HANGEXP below 12 acts as 12 (R659). -/
def Slice.hangLimit (s : Slice) : Nat := 2 ^ max 12 (s.fld NS_RC_CTL.HANGEXP)

/-- Operations that wait for this slice's channel while it is held, streams included. -/
def Slice.waitChan (s : Slice) : List MemOp :=
  if s.chanHolds then s.chan.ops.filter (fun o => o.sent.isNone && (s.opTgt o).isChan) else []

/-- An operation of a tracker is held: its own, or the writeback of its victim. -/
def ownOpHeld (held : List MemOp) (t : Trk) : Bool :=
  held.any fun o => o.why == .trk t.id || (match o.why with
    | .evict w n => t.victimAt w n
    | _ => false)

/-- A tracker is held for the channel: its own operation is, or it waits behind an access to its line that is. -/
def Slice.trkWaitsChan (s : Slice) (held : List MemOp) (t : Trk) : Bool :=
  ownOpHeld held t ||
    (t.stage == .queued && t.key != .none && s.port.trks.any (fun u => u.id < t.id && u.key == t.key && ownOpHeld held u))

/-- A transaction is held for the channel: its own operation is, or its tracker's. -/
def Slice.txnHeld (s : Slice) (held : List MemOp) (t : Txn) : Bool :=
  held.any (fun o => o.why == .txn t.line || o.why == .home t.line) || (match t.who with
    | .tracker id => s.port.trks.any fun u => u.id == id && s.trkWaitsChan held u
    | _ => false)

/-- A cluster's request that waits to be ordered is held for the channel: it waits behind an access to its line that is (R119, R623). -/
def Slice.waiterHeld (s : Slice) (held : List MemOp) (w : Waiter) : Bool :=
  let l := w.msg.cl.line
  s.coh.txns.any (fun t => t.line == l && s.txnHeld held t) ||
    s.port.trks.any fun u => u.id < w.since && u.key == .pa l && ownOpHeld held u

/-- The bulk command is held for the channel: lines of its snapshot are, and nothing else of it is under way (R561). -/
def Slice.cmdHeld (s : Slice) (held : List MemOp) (id : Nat) : Bool :=
  let mine := fun (o : MemOp) => match o.why with
    | .restore c _ | .image c => c == id
    | _ => false
  held.any mine && s.chan.ops.all (fun o => !mine o || held.contains o) && s.bulk.cmds.any fun c => c.id == id && c.lines.isEmpty

/-- A kind of R622 has pending work. -/
def Slice.kindPending (s : Slice) (k : Nat) : Bool :=
  match k with
  | 0 => s.trkUsed .read != 0
  | 1 => s.trkUsed .write != 0
  | 2 => s.trkUsed .red != 0
  | 3 => s.trkUsed .atom != 0
  | 4 => s.bulk.active.isSome
  | 5 => s.grpMoving
  | 6 => s.dirBusy
  | _ => s.accBusy

/-- Every pending unit of the kind is held for the channel (R623). -/
def Slice.kindHeld (s : Slice) (k : Nat) : Bool :=
  let held := s.waitChan
  if held.isEmpty then false
  else
    let trks := fun (q : TrkKind) =>
      s.port.trks.all (fun t => !t.holds q || s.trkWaitsChan held t) &&
        s.coh.txns.all (fun t => txnTrk t != q || s.txnHeld held t) &&
        s.coh.waiters.all (fun w => !(msgTrks w.msg.num).contains q || s.waiterHeld held w)
    match k with
    | 0 => trks .read
    | 1 => trks .write && s.chan.ops.all (fun o => !o.why.isEvict || held.contains o)
    | 2 => trks .red
    | 3 => trks .atom
    | 4 => (s.bulk.active.map (s.cmdHeld held)).getD false
    | 6 => s.coh.recover.isEmpty && s.coh.txns.all (s.txnHeld held)
    | _ => false

/-- The progress counters after this cycle. A kind whose counter is 0 again starts afresh, and its next stall is a new one (R622, R624). -/
def Slice.progress (s b : Slice) : Slice :=
  let lim := b.hangLimit
  let next := (List.range 8).map fun k =>
    if bitAt s.meas.retired k || !s.kindPending k then 0
    else if s.kindHeld k then s.meas.prog.getD k 0
    else min lim (s.meas.prog.getD k 0 + 1)
  let afresh := (List.range 8).foldl (fun (m : BitVec 8) k => if next.getD k 0 = 0 then m ||| ((1 : BitVec 8) <<< k) else m) 0
  s.modMeas fun q => { q with prog := next, hung := q.hung &&& ~~~afresh, retired := 0 }

/-- The masters over budget now join those of the window (R483). -/
def Slice.noteBudget (s : Slice) (m : Nat) : Slice :=
  if s.overBudget m then s.modMeas fun q => { q with overBud := q.overBud ||| ((1 : BitVec 256) <<< m) } else s

/-! ### The books (R653 to R656) -/

/-- The sum of a group's unit counts (R653): those of its units, or of the lines it holds and held. -/
def Slice.unitSum (s : Slice) (p : Grp) : Nat :=
  (if gMEM p.desc then (p.lines.map (fun l => s.lineCount p l)).sum
   else ((List.range (gUnits p.desc)).map (fun u => s.unitCount p.desc u)).sum) + p.leftCount

/-- Every line with GRP = 1 belongs to a group that is OPENING, OPEN or CLOSING. -/
def Slice.grpLinesOwned (s : Slice) : Bool :=
  let live := s.grps.filter fun p => s.grpState p.num != GSt.FORWARDING
  s.mem.tags.all fun t => !tagGRP t.2 || live.any fun p =>
    if gMEM p.desc then p.lines.contains (tagTAG t.2) else (s.gGrpLines p.desc).contains t.1

/-- The books in the order of R668: bit 0 MR, 1 MO, 2 HC, 3 LW, 4 DD, 5 TRK, 6 CRED, 7 GRP, 8 ACCN. -/
def Slice.books (s : Slice) : List Bool :=
  [ s.fld NS_PORTSTAT.MRCRED == 32, s.fld NS_PORTSTAT.MOCRED == 32, s.fld NS_PORTSTAT.HCCRED == 96,
    (List.range 5).all (fun i => s.out.lwCred.getD i 0 == 8),
    (List.range 24).all (fun i => i / 3 == s.die || s.out.ddCred.getD i 0 == 16),
    !s.trkHeld && s.out.issue.isEmpty && s.bulk.cmds.isEmpty,
    decide ((s.port.credits.length : Int) = s.meas.credBook),
    s.grps.all (fun p => s.flag (NS_GRPSTAT.CNTSAT p.num) || s.unitSum p == p.booked) && s.grpLinesOwned,
    !s.accBusy && s.holds.all (fun h => s.fld (NS_ACCN_TARGET.COUNT h.k) < s.fld (NS_ACCN_TARGET.TARGET h.k)) ]

/-- The book bits of NS_BALANCE. -/
abbrev balanceBits : Fld := ⟨Reg.NS_BALANCE, 0, 9⟩

/-- The books are evaluated (R654, R656). FAULT is set while a book reads 0; a book that has come to read 0 is entered as one event. -/
def Slice.evalBooks (s : Slice) : Slice :=
  let new := (s.books.zipIdx).foldl (fun n p => if p.1 then n + 2 ^ p.2 else n) 0
  let old := if s.flag NS_BALANCE.VALID then s.fld balanceBits else 0x1FF
  let s := (s.setFld NS_BALANCE.VALID 1).setFld balanceBits new
  let s := if new = 0x1FF then s else s.setFld NS_BALANCE.FAULT 1
  if (List.range 9).any (fun i => old.testBit i && !new.testBit i) then s.errSlice ErrCode.BALANCE new else s

/-- NS_BALANCE.VALID may be 1: quiescent for 256 cycles, and not at one of the moments of R655. -/
def Slice.balanceDue (s : Slice) : Bool :=
  decide (256 ≤ s.meas.quiet) && !s.flag NS_RC_BLK.IDLEREQ && s.sys.released == 6 && s.sys.inReset.isNone && s.walk.purge.isNone &&
    !s.out.issue.any (·.orphan)

/-- The quiet counts of R654 and R549. -/
def Slice.quietCycle (s : Slice) : Slice :=
  let quiet := if s.quiescent then s.meas.quiet + 1 else 0
  let drowsy := if s.sys.woken && s.maySleep then s.meas.drowsy + 1 else 0
  let s := s.modMeas fun q => { q with quiet := quiet, drowsy := drowsy }
  if s.balanceDue then s.evalBooks else s.setFld NS_BALANCE.VALID 0

/-- IRQ follows the pending and enabled interrupts (R737). -/
def Slice.driveIrq (s : Slice) : Slice :=
  s.modSys fun y => { y with
    irq := s.flag NS_CTL.IRQEN && (s.rd Reg.NS_IRQ_STAT &&& s.rd Reg.NS_IRQ_EN) != 0 }

/-! ### One cycle -/

/-- The unit of an operation that waits for a credit; one that has been issued waits at no point. -/
def Slice.opUnit (s : Slice) (o : MemOp) : Job := if o.sent.isNone then o.job else s.bgJob .none

/-- The unit of a tracker that waits at a service point. -/
def Slice.trkUnit (s : Slice) (t : Trk) : Job := if t.stage == .combine || t.point.isSome then s.pointJob t else s.bgJob .none

/-- Every unit that waits at a service point is looked at in the cycle (R473, R490). -/
def Slice.lookAll (s b : Slice) : Slice :=
  let (s, bs) := s.lookJobs b Beat.job (fun b j => { b with job := j }) s.port.beats
  let s := s.modPort fun p => { p with beats := bs }
  let (s, os) := s.lookJobs b OutItem.job (fun i j => { i with job := j }) s.out.outq
  let s := s.modOut fun o => { o with outq := os }
  let (s, ms) := s.lookJobs b s.opUnit (fun o j => if o.sent.isNone then { o with job := j } else o) s.chan.ops
  let s := s.modChan fun c => { c with ops := ms }
  let (s, ts) := s.lookJobs b s.trkUnit
    (fun t j => { t with urgent := t.urgent || j.urgent }) s.port.trks
  s.modPort fun p => { p with trks := ts }

/-! ### Capture (R542, R685 to R687) -/

/-- The copies of a capture. -/
def Slice.capture (s : Slice) : Slice :=
  let copy := fun (s : Slice) (n src dst : Nat) =>
    (List.range n).foldl (fun s i => s.wr (dst + 8 * i) (s.rd (src + 8 * i))) s
  let s := copy s 1 Reg.NS_CNT_CYCLE Reg.NS_CNT_SNAP_CYCLE
  let s := copy s 7 (Reg.NS_CNT_SLOT 0) (Reg.NS_CNT_SNAP_SLOT 0)
  let s := copy s 8 (Reg.NS_CNT_PMC 0) (Reg.NS_CNT_SNAP_PMC 0)
  let s := copy s 8 (Reg.NS_REG_RDBYTES 0) (Reg.NS_CNT_SNAP_RDB 0)
  let s := copy s 8 (Reg.NS_REG_WRBYTES 0) (Reg.NS_CNT_SNAP_WRB 0)
  (s.setFld NS_CNT_CTL.CAPSEQ (s.fld NS_CNT_CTL.CAPSEQ + 1)).modSys fun y => { y with captured := true, frzEdge := none }

/-- An edge of SCLK brings a capture nearer; with the third one after FRZ was seen to rise it is made (R542). -/
def Slice.frzStep (s : Slice) : Slice :=
  match s.sys.frzEdge with
  | none => s
  | some n => if n ≤ 1 then s.capture else s.modSys fun y => { y with frzEdge := some (n - 1) }

/-- The wing bridge moves one flit of what this slice has sent (R34). -/
def Slice.bridgeStep (s : Slice) : Slice :=
  match s.out.bridgeOut with
  | [] => s
  | e :: rest => s.modOut fun o => { o with bridgeOut := if e.flits ≤ 1 then rest else { e with flits := e.flits - 1 } :: rest }

/-- One SCLK cycle ends. While the clock island is not released or SCLK stands, nothing advances (R547, R677). What the cycle's end decides is
decided by the registers of `b`. -/
def Slice.tick (s b : Slice) : Slice :=
  if !s.clocked then s
  else
    let s := (((((s.lookAll b).census b).occupancy b).pmcApply b).progress b).quietCycle
    let s := s.modPort fun p => { p with slotE := none, slotO := none, rcrE := false, rcrO := false, dataTaken := false }
    let s := (s.port.trks.filter (·.stage == .stale)).foldl (fun s t => s.freeTrk t.id) s
    let s := s.modMeas fun q => { q with pmcPend := List.replicate 8 0, pmcWritten := [] }
    let s := if s.cstate = CState.RETRAIN then s.modChan fun c => { c with rtCycles := c.rtCycles + 1 } else s
    (s.wr Reg.NS_CNT_CYCLE (s.rd Reg.NS_CNT_CYCLE + 1)).frzStep.bridgeStep.driveIrq

end Sys2Proof.Machine
end

