-- ==== Sys2Proof/Machine/Atomics.lean ====
section
/-! DEFINITION. The atomic operations (R357 to R363): which requests are well formed, and what an operation makes of the stored
line. -/

namespace Sys2Proof.Machine

/-- The operation is a line atomic. -/
def isLineAtom : AOp → Bool
  | .lswap | .lcstore | .ladd | .land | .lor | .lxor => true
  | _ => false

/-- The mask of bytes `b` to `b + w − 1`. -/
def byteMask (b w : Nat) : BitVec 128 := BitVec.ofNat 128 ((2 ^ w - 1) * 2 ^ b)

/-- The width of a scalar atomic whose mask is exactly 4 or 8 bytes at offset `b` (R358). -/
def scalarWidth (mask : BitVec 128) (b : Nat) : Option Nat :=
  if mask = byteMask b 4 && b % 4 = 0 then some 4
  else if mask = byteMask b 8 && b % 8 = 0 then some 8
  else none

/-- R358 to R360: the request of operation `a` at byte offset `b` is well formed. `fmt` is the format field, the MX bit in 4. -/
def atomOk (a : AOp) (b : Nat) (mask : BitVec 128) (fmt : Nat) : Bool :=
  if isLineAtom a then
    match a with
    | .lcstore => b % 8 == 0 && (mask &&& byteMask (8 * (b / 8)) 8 == 0)
    | .ladd =>
      b == 0 && (fmt == 0x9 || fmt == 0x1 || fmt == 0x2 || fmt == 0x3) &&
        (let w := fmtWidth fmt / 8
         (List.range (128 / w)).all fun i =>
           let m := mask &&& byteMask (w * i) w
           m == 0 || m == byteMask (w * i) w)
    | _ => b == 0
  else
    match scalarWidth mask b with
    | none => false
    | some w => if a == .fadd then (fmt % 16 == 0x1 && w == 4) || (fmt % 16 == 0x0 && w == 8) else true

/-- The bytes whose sectors an atomic reads or writes: those it masks, and the guard word of LCSTORE. A line atomic touches the
whole line (R365). -/
def atomTouch (a : AOp) (mask : BitVec 128) : Nat := if isLineAtom a then 15 else touched mask

/-- The result of a scalar operation of `w` bytes (R357, R362): the new value and the flags NV and OF. -/
def scalarOp (a : AOp) (w old op cmp fmt : Nat) : Nat × Bool × Bool :=
  let n := 8 * w
  let so := decodeInt n true old
  let sp := decodeInt n true op
  match a with
  | .swap => (op, false, false)
  | .cas => (if old = cmp then op else old, false, false)
  | .add => ((old + op) % 2 ^ n, false, false)
  | .smax => (if so < sp then op else old, false, false)
  | .smin => (if sp < so then op else old, false, false)
  | .umax => (max old op, false, false)
  | .umin => (min old op, false, false)
  | .band => (Nat.land old op, false, false)
  | .bor => (Nat.lor old op, false, false)
  | .bxor => (Nat.xor old op, false, false)
  | .fadd =>
    let r := addFp fmt old op
    (r.bits, r.nv, r.of)
  | _ => (old, false, false)

/-- What an atomic makes of a line. -/
structure AtomRes where
  /-- the line afterwards -/
  line : LineData
  /-- the bytes written -/
  mask : BitVec 128
  nv : Bool
  of : Bool
  deriving DecidableEq, Repr

/-- The operation of R357 on a stored line: `b` the byte offset, `data` the operand line. A scalar operation reads the code of the format
field and not its MX bit (R359). -/
def atomApply (a : AOp) (b : Nat) (mask : BitVec 128) (fmt : Nat) (data old : LineData) : AtomRes :=
  match a with
  | .lswap => ⟨mergeLine old data mask, mask, false, false⟩
  | .lcstore =>
    let g := b / 8
    let guard := getBits old (64 * g) 64
    if guard = getBits data (64 * g) 64 then
      let new := setBits (mergeLine old data mask) (64 * g) 64 ((guard + 1) % 2 ^ 64)
      ⟨new, mask ||| byteMask (8 * g) 8, false, false⟩
    else ⟨old, 0, false, false⟩
  | .ladd =>
    let w := fmtWidth fmt
    let (l, nv, of) := (List.range (1024 / w)).foldl (fun (p : LineData × Bool × Bool) i =>
      if bitAt mask (w / 8 * i) then
        let x := getElt old fmt i
        let y := getElt data fmt i
        if fmt = 0x9 then (setBits p.1 (w * i) w ((x + y) % 2 ^ 32), p.2.1, p.2.2)
        else
          let r := addFp fmt x y
          (setBits p.1 (w * i) w r.bits, p.2.1 || r.nv, p.2.2 || r.of)
      else p) (old, false, false)
    ⟨l, mask, nv, of⟩
  | .land => ⟨mergeLine old (old &&& data) mask, mask, false, false⟩
  | .lor => ⟨mergeLine old (old ||| data) mask, mask, false, false⟩
  | .lxor => ⟨mergeLine old (old ^^^ data) mask, mask, false, false⟩
  | a =>
    let w := (scalarWidth mask b).getD 4
    let o := getBits old (8 * b) (8 * w)
    let p := getBits data (8 * b) (8 * w)
    let c := getBits data (8 * Nat.xor b 64) (8 * w)
    let (v, nv, of) := scalarOp a w o p c (fmt % 16)
    ⟨setBits old (8 * b) (8 * w) v, mask, nv, of⟩

/-- The data of a returning atomic's reply (R363): the old bytes in place, the others zero; the whole old line for a line
atomic. -/
def atomReply (a : AOp) (mask : BitVec 128) (old : LineData) : LineData :=
  if isLineAtom a then old else mergeLine 0 old mask

end Sys2Proof.Machine
end

