-- ==== Sys2Proof/Machine/Serve.lean ====
section
/-! DEFINITION. How accepted requests are served: where a request belongs (R28 to R30, R126, R129), which wait (R119, R148, R283,
R519, R627), and what reads, writes, flushes, proxies and atomics do at the slice that serves their line. -/

namespace Sys2Proof.Machine

/-! ### Where a request is served -/

/-- The slice's part in a request. -/
inductive Place where
  /-- this slice serves it -/
  | here
  /-- this slice is the exit slice toward die `die` (R28) -/
  | exit (die : Nat)
  /-- neither: NOT_HOME (R30) -/
  | nowhere
  deriving DecidableEq, Repr

def Place.isExit : Place → Bool
  | .exit _ => true
  | _ => false

/-- The part toward slice `h.2` of die `h.1`: a request from the mesh is forwarded when the numbers are equal. -/
def Slice.placeAt (s : Slice) (r : Req) (h : Nat × Nat) : Place :=
  if h == (s.die, s.num) then .here
  else if r.via == .mq && h.2 == s.num then .exit h.1
  else .nowhere

/-- Where a request is served (R22, R28 to R30, R129, R456, R567, R569). -/
def Slice.place (s : Slice) (op : Op) (r : Req) : Place :=
  if Req.vt op r || op == .cmdwr || op == .grpctl then
    s.placeAt r (r.pa.toNat / 2 ^ 30 % 8, r.pa.toNat / 2 ^ 24 % 64)
  else match op with
    | .accinc | .sealwr => s.placeAt r (accDie r, accSlice r)
    | .pxrd | .pxwr => if s.inHbm r.line then s.placeAt r (chanSlice r.line) else .nowhere
    | .fence | .tinv | .other _ => .here
    | _ => if s.homes r.line && s.withdrawn r.line then .nowhere else s.placeAt r (s.homeOf r.line)

/-- The line a request addresses at this slice: a vitrine line of another slice is known by its whole address (R130, R147). -/
def Slice.keyOf (s : Slice) (op : Op) (r : Req) : LineKey :=
  match s.place op r, reqKey op r with
  | .exit _, .vit _ => .far (r.pa.extractLsb' 7 26)
  | _, k => k

/-- A request that an exit slice passes through (R431). -/
def passThrough (op : Op) (r : Req) : Bool := r.outside || (op == .rdacq && 2 ≤ r.scope.toNat)

/-- A read the home supplies for a loan copy: a plain read from an exit slice that the exit slice does not pass through (R38, R39,
R431). -/
def loanDie (op : Op) (r : Req) : Option (BitVec 3) :=
  match op with
  | .rd | .rdc | .rdacq => if passThrough op r then none else r.via.dd?
  | _ => none

/-- The dies a tracker's readers fetch loan copies for. -/
def Trk.loanDies (t : Trk) : List (BitVec 3) := ((t.req :: t.joined.map (·.1)).filterMap (loanDie t.op ·))

/-- Loan bits of an L line are set (R39). -/
def Slice.lend (s : Slice) (way set : Nat) (dies : List (BitVec 3)) : Slice :=
  dies.foldl (fun s d => s.modMem fun m => m.setLoan way set (m.loanAt way set ||| ((1 : BitVec 8) <<< d.toNat))) s

/-- The dies of a list, as bits. -/
def dieBits (ds : List (BitVec 3)) : BitVec 8 := ds.foldl (fun v d => v ||| ((1 : BitVec 8) <<< d.toNat)) 0

/-- A line is supplied to dies while the confirmation of an earlier invalidation of it is still due from some of them, which may have confirmed
before they asked for it: those are invalidated once more when that confirmation comes (R40; assumption 71). -/
def Slice.invAgain (s : Slice) (l : LineAddr) (ds : List (BitVec 3)) : Slice :=
  let v := dieBits ds &&& s.invDue l
  if v = 0 then s
  else s.modPort fun p => { p with
    again := (p.again.filter (·.1 != l)) ++ [(l, ((p.again.find? (·.1 == l)).map (·.2)).getD 0 ||| v)] }

/-- Dies ask for a line that the home does not allocate: no loan bit can stand for a copy of it, so the home has none made. It invalidates the
line at those dies first, which then do not allocate it (R106), and replies when they have confirmed (R39, R40, R52, R85, R88; assumption
71). -/
def Slice.unlend (s : Slice) (g : List (Nat × BitVec 8)) (l : LineAddr) (dies : List (BitVec 3)) (job : Job) : Slice :=
  (s.invAgain l dies).invStart g l (dieBits dies) job

/-! ### Waiting -/

/-- The lines an accepted request accesses: an arrival's units and chunk lines, a converting request's line and scale line (R341),
else its line. -/
def Slice.touches (s : Slice) (t : Trk) : List LineKey :=
  match t.op, t.key with
  | .redc, .vit _ | .redn, .vit _ =>
    match s.grp? t.req.group.toNat with
    | none => []
    | some p =>
      let d := p.desc
      if gMEM d then [] else
      let (e0, e1) := gSpan d t.req
      let acc := (gSpanUnits d t.req).flatMap (s.unitLines d)
      let ch := if gCHUNKL d = 0 || e1 ≤ e0 then [] else
        (List.range ((e1 - 1) / 64 - e0 / 64 + 1)).map fun i => gChunkBase d + 128 * (e0 / 64 + i)
      (acc ++ ch).map fun o => .vit (BitVec.ofNat 17 (o / 128))
  | _, .none => []
  | _, k => match scaleLine t.cvt with
    | some l => [k, .vit (BitVec.ofNat 17 l)]
    | none => [k]

/-- The request's access to its line is over, or is another slice's to order. -/
def Stage.applied : Stage → Bool
  | .done | .loanAck | .fwd | .drain | .stale => true
  | _ => false

/-- The tracker's access to its line orders nothing behind it: it is over, or its request is judged anew when a hold ends (R519). -/
def Trk.over (t : Trk) : Bool := t.stage.applied || t.anew

/-- The bulk engine has issued a line that it has still to write to this vitrine line: a COPY's read, or a restore's (R148). -/
def Slice.bulkPends (s : Slice) (k : LineKey) : Bool :=
  match k with
  | .vit v =>
    let copies := fun (why : Why) => match why with
      | .bulkRd id o => s.bulk.cmds.any fun c => c.id == id && descBits c.desc 0 0 4 == 2 && (descBits c.desc 3 0 64 + o) / 128 == v.toNat
      | _ => false
    s.out.issue.any (fun i => !i.orphan && copies i.why) ||
      s.out.outq.any (fun i => match i.msg with
        | .req q => copies q.why
        | _ => false) ||
      s.chan.ops.any fun o => match o.why with
        | .restore _ vl => vl == v.toNat
        | _ => false
  | _ => false

/-- The set of a line of this slice. -/
def LineKey.set? : LineKey → Option Nat
  | .pa l => some (setOf l)
  | .vit v => some (vtSet v)
  | .far _ | .none => Option.none

/-- A raw access or a diagnostic read of an array at the set, asked for before number `n` was given, has still to be performed: it is an
access of its line or directory set, and what was accepted after it waits (R119, R596, R746). -/
def Slice.rawAhead (s : Slice) (set n : Nat) : Bool :=
  s.walk.raw.any (fun r => r.since < n && getBits r.ctl 16 13 == set) || (match s.walk.diag with
    | some d => decide (d < n) && decide (s.fld NS_DG_SEL.TARGET < 5) && s.fld NS_DG_SEL.SET == set
    | none => false)

/-- What has number `n` in the order of acceptance reads the directory set (R378, R597), unless it has to wait for a raw access or a diagnostic
read of it (R596, R746). -/
def Slice.readSet (s : Slice) (set n : Nat) : Slice := if s.rawAhead set n then s else s.checkSetDir set

/-- An earlier access to one of the tracker's lines is not applied yet (R119, R148). An engine line that is still to be written was
issued before the tracker's request was accepted: the engine issues none while an accepted access to its line waits. -/
def Slice.blocked (s : Slice) (t : Trk) : Bool :=
  let ks := s.touches t
  ks.any s.bulkPends || ks.any (fun k => k.set?.any fun n => s.rawAhead n t.id) ||
    s.port.trks.any fun u => u.id < t.id && !u.over && !(isPending t.req.group.toNat u && t.kind == .red) && (s.touches u).any ks.contains

/-- An earlier access to a line is not applied yet (R119, R148). -/
def Slice.lineWaits (s : Slice) (k : LineKey) : Bool :=
  s.bulkPends k || k.set?.any (fun n => s.rawAhead n s.port.nextId) ||
    s.port.trks.any (fun t => !t.over && (s.touches t).contains k) || (match k with
    | .pa l => s.lineMoves l
    | _ => false)

/-- No read joins an open read of the line any more (R98). -/
def Slice.closeLine (s : Slice) (k : LineKey) : Slice :=
  s.modPort fun p => { p with trks := p.trks.map fun u =>
    if u.kind == .read && (s.touches u).contains k then { u with closed := true } else u }

/-- A read, write or atomic accepted for a line of the group, or for a tensor it reads, is not applied yet: what the group itself does to
its storage comes after it (R119, R148). -/
def Slice.grpAccessed (s : Slice) (p : Grp) : Bool :=
  s.port.trks.any fun t => t.kind != .red && !t.over && (s.touches t).any fun k => match k with
    | .vit v => (s.gRanges p.desc).any fun r => overlap r.1 r.2 (128 * v.toNat) 128
    | .pa l => p.lines.contains l
    | _ => false

/-- A save with HOLD or a restore is active (R185). -/
def Slice.snapHold (s : Slice) : Bool :=
  s.bulk.cmds.any fun c => some c.id == s.bulk.active && c.checked && descBits c.desc 0 0 4 == 3 &&
    (descBits c.desc 0 6 1 == 1 || descBits c.desc 0 7 1 == 1)

/-- A vitrine line lies in the storage of a group that is OPENING, CLOSING or FORWARDING. -/
def Slice.grpHolds (s : Slice) (line : Nat) : Bool :=
  s.grps.any fun p =>
    let st := s.grpState p.num
    (st == GSt.OPENING || st == GSt.CLOSING || st == GSt.FORWARDING) &&
      (s.gStorage p.desc).any fun r => overlap r.1 r.2 (128 * line) 128

/-- R185, R274 or R283 holds a request that this slice serves. R283 holds reads and writes; atomics to an output line, and lines of the bulk
engine, are not held (assumption 121). -/
def Slice.onHold (s : Slice) (op : Op) (r : Req) (cvt : Option (BitVec 5 × Nat)) : Bool :=
  let line := r.pa.toNat % 2 ^ 24 / 128
  match op with
  | .vrd | .vcrd => s.grpHolds line || ((scaleLine cvt).map s.grpHolds).getD false
  | .vwr | .vcwr => s.snapHold || s.grpHolds line || ((scaleLine cvt).map s.grpHolds).getD false
  | .redc | .redn => (r.vsp && s.snapHold) || s.grpState r.group.toNat == GSt.OPENING
  | .atom _ _ => r.vsp && s.snapHold
  | .rd | .rdc | .rdacq | .crd | .wr | .wrrel | .cwr | .cntwr =>
    match s.grpOfMem r.line with
    | some p => s.grpState p.num == GSt.CLOSING
    | none => false
  | _ => false

/-! ### Answers -/

def Slice.setStage (s : Slice) (id : Nat) (st : Stage) : Slice := s.modTrk id fun t => { t with stage := st }

/-- The readers of a tracker with the cycles of their acceptance. -/
def Trk.readers (t : Trk) : List (Req × Nat) := (t.req, t.born) :: t.joined

/-- The ports a tracker's readers are answered at: the mesh, or the exit slices of other dies (R526, R538). -/
def Trk.ports (t : Trk) : List (Option (BitVec 3)) := (t.readers.map fun q => q.1.via.dd?).dedup

/-- An event for each reader of a tracker. -/
def Slice.evReaders (s : Slice) (code : Nat) (t : Trk) : Slice :=
  t.readers.foldl (fun s q => s.ev code 1 (some q.1.odd) (some q.1.cls.toNat)) s

/-- An error status to every reader, which holds the tracker until it leaves (R100, R519). -/
def Slice.refuse (s : Slice) (g : List (Nat × BitVec 8)) (t : Trk) (status : Nat) : Slice :=
  let s := if t.op == .cntwr then s.sendIncrement g t.req t.born true else s
  t.ports.foldl (fun s port => s.reply g { s.statusBeat t.op t.req (some t.id) t.born status 0 with
    dd := port, dests := (t.readers.filter fun q => q.1.via.dd? == port).map fun q => reqDest t.op q.1 q.2, job := s.trkJob t })
    (s.setStage t.id .done)

/-- A data reply of one or more parts to every reader, once at each port (R100, R525, R526). -/
def Slice.sendData (s : Slice) (g : List (Nat × BitVec 8)) (t : Trk) (acklvl : Nat) (parts : List (LineData × BitVec 12)) : Slice :=
  let b : Beat :=
    { dests := [], dd := none, status := Stat.ACK, detail := 0,
      acklvl := acklvl, auxr := 0, part := 0, npart := parts.length, pz := 0, data := 0, trk := some t.id, last := false,
      isData := true, job := s.trkJob t, measured := true }
  let s := s.setStage t.id .done
  t.ports.foldl (fun s port =>
    let ds := (t.readers.filter fun q => q.1.via.dd? == port).map fun q => reqDest t.op q.1 q.2
    let b := { b with dd := port, dests := ds }
    ((List.range parts.length).zip parts).foldl (fun s p =>
      s.reply g { b with part := p.1, data := deliver p.2.1 p.2.2, pz := p.2.2, last := p.1 + 1 == parts.length }) s) s

/-- A stored line goes to the readers of a tracker: converted for a converting read (R337 to R339), else as it is. -/
def Slice.sendLine (s : Slice) (g : List (Nat × BitVec 8)) (t : Trk) (d : LineData) (pz : BitVec 12) : Slice :=
  match (if isCvtRead t.op then t.cvt else none) with
  | some (sf, o) =>
    let (parts, fl) := s.deliverAll sf.toNat t.req.fmt.toNat o d pz
    let parts := if s.vtQuar (t.req.pa.toNat % 2 ^ 24 / 128) && t.op.isVt then parts.map (fun p => (p.1, allCause Cause.QUAR))
      else parts
    let s := ((s.fpFlags fl).bump NS_FP_EVT.CVTRD 1).ev Ev.CVT_PART parts.length none (some t.req.cls.toNat)
    s.sendData g t 0 parts
  | none => s.sendData g t 0 [(d, pz)]

/-- A line fetched for no way goes to the readers of a tracker: at once, or, where exit slices of other dies are among them, once these have
confirmed that they keep no copy (`Slice.unlend`); the data waits in the tracker. -/
def Slice.sendFree (s : Slice) (g : List (Nat × BitVec 8)) (t : Trk) (d : LineData) (pz : BitVec 12) : Slice :=
  if s.useOf t.req.line != Use.L || Req.vt t.op t.req || t.loanDies.isEmpty then s.sendLine g t d pz
  else
    (s.unlend g t.req.line t.loanDies (s.trkJob t)).modTrk t.id fun u =>
      { u with stage := .loanAck, req := { u.req with data := d, pcause := pz } }

/-- An applied write is acknowledged (R434, R525); a counted write then sends its increment (R454). -/
def Slice.ackWrite (s : Slice) (g : List (Nat × BitVec 8)) (t : Trk) : Slice :=
  let s := if t.op == .cntwr then s.sendIncrement g t.req t.born false else s
  (s.freeTrk t.id).reply g (s.statusBeat t.op t.req none t.born Stat.ACK t.req.ackLevel t.miss (s.overLcl t))

/-- An applied write waits for the loan invalidations of its line (R41, R42). -/
def Slice.ackAfterLoans (s : Slice) (g : List (Nat × BitVec 8)) (t : Trk) : Slice :=
  if s.invDue t.req.line = 0 then s.ackWrite g t else s.setStage t.id .loanAck

/-- A write-through has been accepted: the write is acknowledged, unless it waits for the channel still (R116). -/
def Slice.drainEnd (s : Slice) (g : List (Nat × BitVec 8)) (id : Nat) : Slice :=
  match s.trk? id with
  | none => s
  | some t => if t.stage != .drain || s.chan.ops.any (fun o => o.why == .trk id) then s else s.ackAfterLoans g t

/-- The reply of a flush (R304). -/
def Slice.ackFlush (s : Slice) (g : List (Nat × BitVec 8)) (t : Trk) : Slice :=
  let part := bitAt t.req.aux 63
  (s.freeTrk t.id).reply g { s.statusBeat t.op t.req none t.born (if part then Stat.PARTIAL else Stat.ACK) 0 with
    auxr := if part then getBits t.req.aux 0 16 else 0 }

/-! ### Hits -/

/-- The hint of a request that hits a resident line (R76, R92). -/
def Slice.hitHint (s : Slice) (use way set : Nat) (r : Req) : Slice :=
  (s.noteRevive use way set r.hint.toNat).applyHint use way set r.hint.toNat false

/-- Start the invalidation of a line's loan copies on every die but `keep` (R41, R42). -/
def Slice.dropLoans (s : Slice) (g : List (Nat × BitVec 8)) (way : Nat) (l : LineAddr) (keep : Option (BitVec 3)) (job : Job)
    : Slice :=
  let v := s.mem.loanAt way (setOf l)
  let v := match keep with
    | some d => v &&& ~~~((1 : BitVec 8) <<< d.toNat)
    | none => v
  s.invStart g l v job

/-! ### Host-class lines (R382) -/

/-- The transaction a request of a non-caching requester needs before it is served. -/
def Slice.cohKind (s : Slice) (t : Trk) : Option TxnKind :=
  match t.op with
  | .atom _ _ => some .near
  | .rd | .rdc | .rdacq => match s.findEnt t.req.line with
    | some (_, d) => if d.state = Dir.X then some .ncRead else none
    | none => none
  | .wr | .wrrel | .cntwr => match s.findEnt t.req.line with
    | some (_, d) => if d.sharers != 0 then some .ncWrite else none
    | none => none
  | _ => none

/-- Whether a host-class request may be served now; where it needs a transaction first, the slice with that begun. -/
def Slice.coherent (s : Slice) (g : List (Nat × BitVec 8)) (t : Trk) : Slice × Bool :=
  let l := t.req.line
  if !s.isHost l || t.stage == .ready || t.op == .flush then (s, true)
  else
    let s := s.checkSetDir (setOf l)
    if s.lineBusy l || s.awaited l t.id then (s, false)
    else
    let s := s.readDir g l
    match s.cohKind t with
    | none => (s, true)
    | some k =>
      if k.needsEntry && s.dirSetBusy l then (s, false)
      else ((s.setStage t.id .coh).order g l (.tracker t.id) k, false)

/-! ### Reads (R67, R68, R81 to R88, R95) -/

/-- Serve a read from the way that holds its line. -/
def Slice.readHit (s : Slice) (g : List (Nat × BitVec 8)) (t : Trk) (use way : Nat) : Slice :=
  let set := setOf t.req.line
  let s := if t.miss then s else (s.hitHint use way set t.req).evReaders Ev.RD_HIT t
  let s := t.joined.foldl (fun s q => s.hitHint use way set q.1) s
  let s := if use == Use.L then s.lend way set t.loanDies else s
  s.sendLine g t (s.mem.readLine way set) (addCauses (s.mem.poisonOf way set 15) t.loss)

/-- A tracker is served without allocation under R85: each of its readers counts (R123). -/
def Slice.countNoalloc (s : Slice) (t : Trk) : Slice :=
  ((s.modTrk t.id fun u => { u with noalloc := true }).bump NS_RET_EVT2.NOALLOC t.readers.length).evReaders Ev.NOALLOC t

/-- Serve an addressed read at its home. A read from another die that is served without allocation leaves no loan copy: R85, R88 and R52 have
the read served from memory, and the loan vector stands with the L way (R39; `Slice.sendFree`, assumption 71). -/
def Slice.serveRead (s : Slice) (g : List (Nat × BitVec 8)) (t : Trk) (use : Nat) : Slice :=
  let r := t.req
  let l := r.line
  let set := setOf l
  let due := use == Use.L && t.loanDies.any fun d => bitAt (s.invDue l) d.toNat
  let s := if due then s else s.access g l use 15 (s.trkJob t)
  if due || s.lineMoves l then s
  else
    let bypass := use == Use.L && r.hint == 3
    let res := s.lookup use l
    let stale := s.mem.deacf.contains l
    let sect := match res with
      | some w => tagSV (s.tag w set) != 15
      | none => false
    let none' := s.hasUse use && !bypass && res.isNone && (s.victimFor use set r.reqid.toNat).isNone
    match s.getLine g t l use 15 true bypass with
    | (s, .blocked) => s
    | (s, .way w) => s.readHit g t use w
    | (s, .waits) =>
      let s := (s.modTrk t.id fun u => { u with miss := true }).evReaders Ev.RD_MISS t
      match res with
      | some w =>
        let s := if sect then s.evReaders Ev.RD_SECTMISS t else s
        s.hitHint use w set r
      | none =>
        let s := s.noteStale stale l
        if none' then s.countNoalloc t else s

/-! ### Writes (R69 to R72, R89, R97) -/

/-- Merge a request's bytes over a line in hand (R524, R583): the line and its causes, and whether a partial write met a poisoned
sector. -/
def mergePoisoned (old : LineData) (oz : BitVec 12) (d : LineData) (mask : BitVec 128) (pz : BitVec 12) (cv : Bool := false)
    : LineData × BitVec 12 × Bool :=
  let hit := touched mask
  let full := covered mask
  let (z, lost) := (List.range 4).foldl (fun (p : BitVec 12 × Bool) i =>
    if !hit.testBit i then p
    else if causeAt oz i != 0 && !full.testBit i then
      (if cv && causeAt pz i != 0 then setCause p.1 i (causeAt pz i) else p.1, true)
    else (setCause p.1 i (causeAt pz i), p.2)) (oz, false)
  (mergeLine old d mask, z, lost)

/-- The operations that write sectors to memory (R73). -/
def sectorOps (ss : Nat) : Nat := if ss % 16 = 15 then 1 else ((List.range 4).filter ss.testBit).length

/-- A write to memory without allocation (R52, R89): the touched sectors of a line in hand. It needs the channel or the host as a miss does
(R488). -/
def Slice.writeMemory (s : Slice) (g : List (Nat × BitVec 8)) (t : Trk) (d : LineData) (pz : BitVec 12) : Slice :=
  let ss := touched t.req.mask
  let t := { t with miss := true, stage := .drain, drains := sectorOps ss }
  (s.modTrk t.id fun u => { u with miss := true, stage := .drain, drains := t.drains }).writeSectors g t.req.line ss ss d pz (.trk t.id)
    (s.trkJob t) false

/-- The exit slice whose own loan copy a write has updated already (R41): none for a write that it passes through (R431). -/
def updatedDie (r : Req) : Option (BitVec 3) := if r.outside then none else r.via.dd?

/-- The stored bytes come from a converting write (R340). -/
def Trk.converted (t : Trk) : Bool := t.op == .wr && t.cvt.isSome

/-- A write is merged into the way that holds its line, once the line's loan copies on every other die are invalidated (R41, R42, R434):
until then it waits where it is. In a draining way it is written through too, and is acknowledged once the channel has accepted it
(R50, R559). -/
def Slice.applyWrite (s : Slice) (g : List (Nat × BitVec 8)) (t : Trk) (use way : Nat) (hit : Bool) : Slice :=
  let r := t.req
  let l := r.line
  let set := setOf l
  let s := s.dropLoans g way l (updatedDie r) (s.trkJob t)
  if s.invDue l != 0 then s
  else
    let s := if hit then s.noteRevive use way set r.hint.toNat else s
    let s := ((s.urgentCount (s.pointJob t)).storeBytes way set r.data r.mask (reqCauses r.pois r.pcause) t.converted).dirty way set
      (touched r.mask)
    let s := if hit then s.applyHint use way set r.hint.toNat false else s.setTag way set (setBUSY (s.tag way set) false)
    if s.draining way then
      ((s.setStage t.id .drain).writeThrough g way l (.trk t.id) (s.trkJob t)).drainEnd g t.id
    else s.ackWrite g t

/-- The way given to a tracker that is to be served now. -/
def Slice.givenWay (s : Slice) (t : Trk) : Option Nat := if t.stage == .ready then s.ownWay t else none

/-- A change of a line that is not resident waits for the confirmations that are due for it (R42, R428). -/
def Slice.loansDue (s : Slice) (l : LineAddr) (use : Nat) : Bool := use == Use.L && s.invDue l != 0

/-- Serve an addressed write at its home. -/
def Slice.serveWrite (s : Slice) (g : List (Nat × BitVec 8)) (t : Trk) (use : Nat) : Slice :=
  let r := t.req
  let l := r.line
  let part := touched r.mask &&& (15 - covered r.mask)
  match s.givenWay t with
  | some w => s.applyWrite g t use w false
  | none =>
  let s := s.access g l use part (s.trkJob t)
  if s.lineMoves l then s
  else if r.mask = 0 then
    -- no rule says that a write without a byte allocates: one that misses is acknowledged (assumption 110)
    (match s.lookup use l with
     | some w => s.hitHint use w (setOf l) r
     | none => s).ackAfterLoans g t
  else match s.lookup use l with
    | some w =>
      match s.getLine g t l use part false false with
      | (s, .way w) => s.applyWrite g t use w true
      | (s, .waits) => s.hitHint use w (setOf l) r
      | (s, .blocked) => s
    | none =>
      if s.loansDue l use then s
      else if !s.hasUse use then
        if part = 0 then s.writeMemory g t r.data (reqCauses r.pois r.pcause) else s.startFill g t l none
      else if part = 0 then
        match s.allocate g t l use false with
        | (s, .way w) => s.applyWrite g t use w false
        | (s, _) => s
      else (s.getLine g t l use part false false).1

/-! ### Flushes (R74, R304, R757) -/

/-- Serve a flush: dirty sectors go to memory, and the reply follows the channel's acceptance. -/
def Slice.serveFlush (s : Slice) (g : List (Nat × BitVec 8)) (t : Trk) (use : Nat) : Slice :=
  let l := t.req.line
  let set := setOf l
  let s := s.checkSetTags set
  match s.lookup use l with
  | none => s.ackFlush g { t with req := { t.req with aux := 0 } }
  | some w =>
    let grp := tagGRP (s.tag w set)
    let s := if grp then s.bump NS_GRP_EVT.FLUSHPART 1 else s
    let aux : Word := if grp then setBits (BitVec.ofNat 64 ((s.mem.glwAt w set).toNat % 65536)) 63 1 1 else 0
    let t := { t with req := { t.req with aux := aux } }
    if tagSD (s.tag w set) = 0 then s.ackFlush g t
    else
      let s := (s.modTrk t.id fun u => { u with stage := .drain, req := t.req }).ev Ev.WRITEBACK 1
      let (s, lost) := s.checkOut w set (outSectors (s.tag w set))
      let tg := s.tag w set
      let d := s.mem.readLine w set
      let pz := s.mem.poisonOf w set (tagSV tg)
      let s := s.setTag w set (setSD tg 0)
      (s.writeSectors g l (sentSectors tg lost) (tagSD tg) d pz (.trk t.id) (s.trkJob t) true).dropLost g w set lost (s.trkJob t)

/-! ### Proxies (R22, R569, R570) -/

/-- Serve a proxy on this slice's channel, without allocation. -/
def Slice.serveProxy (s : Slice) (g : List (Nat × BitVec 8)) (t : Trk) : Slice :=
  let r := t.req
  if t.op == .pxrd then s.startFill g t r.line none
  else if r.mask = 0 then s.ackWrite g t
  else if touched r.mask = covered r.mask then s.writeMemory g t r.data (reqCauses r.pois r.pcause)
  else s.startFill g t r.line none

/-! ### Atomics (R357 to R367) -/

/-- What an atomic makes of a line whose sectors have the causes `pz`. -/
structure AtomOut where
  res : AtomRes
  /-- causes stored with the written bytes -/
  pz : BitVec 12
  /-- data and causes of the reply -/
  data : LineData
  rz : BitVec 12
  /-- it met poison (R365) -/
  met : Bool
  deriving DecidableEq, Repr

/-- A line atomic. -/
def Trk.posted (t : Trk) : Bool :=
  match t.op with
  | .atom _ p => p
  | _ => false

/-- An atomic on a line in hand. A poisoned operand or comparand poisons what is stored (R524; DEDUCED). -/
def atomOn (a : AOp) (r : Req) (old : LineData) (pz : BitVec 12) : AtomOut :=
  let sec := r.off / 32
  let tz := if isLineAtom a then pz else setCause 0 sec (causeAt pz sec)
  if tz != 0 then
    { res := ⟨old, 0, false, false⟩, pz := 0, data := atomReply a r.mask old, rz := tz, met := true }
  else
    let z := reqCauses r.pois r.pcause
    let z := if isLineAtom a then z
      else if a == .cas then setCause 0 sec (if causeAt z sec != 0 then causeAt z sec else causeAt z (Nat.xor r.off 64 / 32))
      else setCause 0 sec (causeAt z sec)
    { res := atomApply a r.off r.mask r.fmt.toNat r.data old, pz := z, data := atomReply a r.mask old, rz := 0, met := false }

/-- The reply of an atomic whose result stands in the tracker's data (R363, R374, R387); a near transaction of its line ends. -/
def Slice.ackAtom (s : Slice) (g : List (Nat × BitVec 8)) (t : Trk) : Slice :=
  let posted := t.posted
  let s := if !t.req.vsp && s.isHost t.req.line then s.endNear g t.req.line t.cl else s
  match t.cl with
  | some c =>
    let s := s.freeTrk t.id
    s.sendLW g { lwMsg (if posted then .atomAck else .atomRes) c.toNat t.req.line with
      data := deliver t.req.data t.req.pcause, pois := poisBits t.req.pcause } { s.trkJob t with key := .pa t.req.line }
  | none =>
    if posted then
      (s.setStage t.id .done).reply g { s.statusBeat t.op t.req (some t.id) t.born Stat.ACK 3 t.miss (s.overLcl t) with pz := t.req.pcause }
    else s.sendData g t 3 [(t.req.data, t.req.pcause)]

/-- What an atomic counts and flags (R362, R365). -/
def Slice.noteAtom (s : Slice) (t : Trk) (o : AtomOut) : Slice :=
  let s := (s.urgentCount (s.pointJob t)).granted Point.update.num
  if o.met then (s.setFld NS_UU_STICKY.POISON 1).bump NS_UU_EVT.POISON 1
  else (s.uuFlags o.res.nv o.res.of).ev Ev.ATOM_APPLIED 1 none (some t.req.cls.toNat)

/-- An atomic's update is made: it is answered after the loan invalidations of its line (R42). -/
def Slice.atomAfterLoans (s : Slice) (g : List (Nat × BitVec 8)) (t : Trk) : Slice :=
  if !t.req.vsp && s.invDue t.req.line != 0 then s.setStage t.id .loanAck else s.ackAtom g t

/-- Keep the result of an atomic in its tracker and answer it once what it wrote to memory is accepted (R116, R363, R367). -/
def Slice.atomDone (s : Slice) (g : List (Nat × BitVec 8)) (t : Trk) (data : LineData) (rz : BitVec 12) : Slice :=
  let t := { t with req := { t.req with data := data, pcause := rz } }
  let s := s.modTrk t.id fun u => { u with req := t.req }
  if s.chan.ops.any (fun o => o.why == .trk t.id) then s.setStage t.id .drain else s.atomAfterLoans g t

/-- Count a refused atomic (R364). -/
def Slice.refuseAtom (s : Slice) (g : List (Nat × BitVec 8)) (t : Trk) (status : Nat) : Slice :=
  let s := s.bump NS_UU_EVT.REFUSED 1
  let s := if status = Stat.BAD_ATOM then s.errReq ErrCode.BAD_ATOM t.op t.req else s
  s.refuse g t status

/-- The causes that R600 adds to a returning atomic's reply: those of the sectors it returns. -/
def Trk.replyLoss (t : Trk) (a : AOp) : BitVec 12 :=
  match t.op with
  | .atom _ true => 0
  | _ => if isLineAtom a then t.loss else setCause 0 (t.req.off / 32) (causeAt t.loss (t.req.off / 32))

/-- An atomic is applied to the way that holds its line, once the loan copies of a line that it changes are gone (R42, R428): until then it
waits where it is. One that stores nothing, a failed LCSTORE or one that meets poison, leaves them (DESIGN CHOICE, assumption 140). -/
def Slice.applyAtom (s : Slice) (g : List (Nat × BitVec 8)) (t : Trk) (a : AOp) (use way : Nat) (hit : Bool) : Slice :=
  let l := t.req.line
  let set := setOf l
  let o := atomOn a t.req (s.mem.readLine way set) (s.mem.poisonOf way set 15)
  let s := if o.res.mask = 0 then s else s.dropLoans g way l none (s.trkJob t)
  if o.res.mask != 0 && s.invDue l != 0 then s
  else
    let s := if hit then s.noteRevive use way set t.req.hint.toNat else s
    let s := if o.res.mask = 0 then s
      else
        let s := s.urgentCount (s.trkJob t)
        let s := (s.storeBytes way set o.res.line o.res.mask o.pz).dirty way set (touched o.res.mask)
        if s.draining way then s.writeThrough g way l (.trk t.id) (s.trkJob t) else s
    let s := if hit then s.applyHint use way set t.req.hint.toNat false else s
    (s.noteAtom t o).atomDone g t o.data (addCauses o.rz (t.replyLoss a))

/-- An atomic is applied to the memory copy in hand and written through under its tracker (R367). -/
def Slice.atomMemory (s : Slice) (g : List (Nat × BitVec 8)) (t : Trk) (a : AOp) (d : LineData) (pz : BitVec 12) : Slice :=
  let o := atomOn a t.req d pz
  let l := t.req.line
  let s := s.noteAtom t o
  let ss := touched o.res.mask
  let s := if o.res.mask = 0 then s
    else
      let (nd, nz, _) := mergePoisoned d pz o.res.line o.res.mask o.pz
      (s.modTrk t.id fun u => { u with drains := sectorOps ss }).writeSectors g l ss ss nd nz (.trk t.id) (s.trkJob t) false
  s.atomDone g t o.data (addCauses o.rz (t.replyLoss a))

/-- Serve an addressed atomic at its home. -/
def Slice.serveAtom (s : Slice) (g : List (Nat × BitVec 8)) (t : Trk) (a : AOp) (use : Nat) : Slice :=
  let l := t.req.line
  match s.givenWay t with
  | some w => s.applyAtom g t a use w false
  | none =>
  let s := s.access g l use (atomTouch a t.req.mask) (s.trkJob t)
  if s.lineMoves l then s
  else match s.lookup use l with
  | some w =>
    match s.getLine g t l use (atomTouch a t.req.mask) false false with
    | (s, .way w) => s.applyAtom g t a use w true
    | (s, .waits) => s.hitHint use w (setOf l) t.req
    | (s, .blocked) => s
  | none => if s.loansDue l use then s else (s.getLine g t l use 15 false (!s.hasUse use)).1

/-! ### Vitrine accesses (R136 to R145, R280, R284) -/

/-- A read or write of a vitrine line is permitted (R136, R280). -/
def Slice.vtAllowed (s : Slice) (r : Req) : Bool :=
  let line := r.pa.toNat % 2 ^ 24 / 128
  if s.isX (line / 8192) then
    match s.grpOfAcc line with
    | some p => isExact (gACC p.desc) && p.req.ctx == r.ctx
    | none => false
  else s.vtPermit r.ctx line

/-- An access that is not permitted (R137). -/
def Slice.vtDeny (s : Slice) (g : List (Nat × BitVec 8)) (t : Trk) : Slice :=
  (s.bump NS_VT_EVT.DENIED 1).refuse g t Stat.DENIED

/-- A read of the line and its scale bytes meets an uninitialised sector (R143, R339). -/
def Slice.meetsUninit (s : Slice) (line : Nat) (cvt : Option (BitVec 5 × Nat)) : Bool :=
  s.vtMeetsUninit line || (match scaleLine cvt, cvt with
    | some k, some (_, o) => !s.vtQuar k && !(s.vtInit k).testBit (o % 128 / 32)
    | _, _ => false)

/-- Serve a vitrine read. -/
def Slice.serveVtRead (s : Slice) (g : List (Nat × BitVec 8)) (t : Trk) : Slice :=
  let line := t.req.pa.toNat % 2 ^ 24 / 128
  if t.op == .vrd && !s.vtAllowed t.req then s.vtDeny g t
  else
    let s := match scaleLine t.cvt with
      | some k => s.vtCheck (128 * k) 128
      | none => s
    let (s, d, pz) := s.vtRead line
    let s := if s.meetsUninit line (if t.op == .vcrd then t.cvt else none) then
        (s.bump NS_VT_EVT.UNINITRD t.readers.length).modTrk t.id fun u => { u with uninit := true } else s
    (s.evReaders Ev.RD_HIT t).sendLine g t d pz

/-- A write or atomic that meets a quarantined line changes nothing and is recorded (R145). -/
def Slice.quarWrite (s : Slice) (t : Trk) : Slice := s.errReq ErrCode.QUARWR t.op t.req

/-- Serve a vitrine write. -/
def Slice.serveVtWrite (s : Slice) (g : List (Nat × BitVec 8)) (t : Trk) : Slice :=
  let r := t.req
  let line := r.pa.toNat % 2 ^ 24 / 128
  if !s.vtAllowed r then s.vtDeny g t
  else if s.vtQuar line then (s.quarWrite t).ackWrite g t
  else ((s.urgentCount (s.pointJob t)).vtStore line r.data r.mask (reqCauses r.pois r.pcause)).ackWrite g t

/-- Serve a vitrine converting write (R334 to R336, R340, R341). A quarantined line or scale line is left as it is with the
other. -/
def Slice.serveVtConvert (s : Slice) (g : List (Nat × BitVec 8)) (t : Trk) : Slice :=
  let r := t.req
  let line := r.pa.toNat % 2 ^ 24 / 128
  match t.cvt with
  | none => s.refuse g t Stat.BAD_FMT
  | some (sf, o) =>
    if s.vtQuar line || ((scaleLine t.cvt).map s.vtQuar).getD false then (s.quarWrite t).ackWrite g t
    else
      let p := storePart sf.toNat r.fmt.toNat (partOf r) r.data (reqCauses r.pois r.pcause)
      let s := (s.urgentCount (s.pointJob t)).vtStore line p.data p.mask p.pz true
      let s := if 16 ≤ sf.toNat then s.putScales (sf.toNat % 16) o p.block0 p.scales else s
      ((s.fpFlags p.fl).bump NS_FP_EVT.CVTWR 1).ackWrite g t

/-- Serve a vitrine atomic (R144, R145, R364 to R366). A sector that is not initialised and that it stores whole counts no ZFILL (DESIGN
CHOICE, assumption 133). -/
def Slice.serveVtAtom (s : Slice) (g : List (Nat × BitVec 8)) (t : Trk) (a : AOp) : Slice :=
  let r := t.req
  let line := r.pa.toNat % 2 ^ 24 / 128
  if s.isX (line / 8192) || s.vtGrp line then s.refuseAtom g t Stat.BAD_TARGET
  else if !s.vtPermit r.ctx line then (s.bump NS_VT_EVT.DENIED 1).refuseAtom g t Stat.DENIED
  else if s.vtQuar line then (s.quarWrite t).atomDone g t 0 (allCause Cause.QUAR)
  else
    let (s, d, _) := s.vtRead line
    let o := atomOn a r d (s.mem.poisonOf (line / 8192) (line % 8192) (s.vtInit line))
    let s := if o.res.mask = 0 then s else (s.urgentCount (s.trkJob t)).vtStore line o.res.line o.res.mask o.pz
    let s := if o.met then s else s.zeroInit line (atomTouch a r.mask)
    (s.noteAtom t o).atomDone g t o.data o.rz

/-! ### Addressed converting writes (R334, R340, R344, R346) -/

/-- The plain write an addressed converting write stores as, by the window of its acceptance. -/
def cvtWrite (cvt : Option (BitVec 5 × Nat)) (r : Req) : Req × FpFlags :=
  match cvt with
  | none => (r, {})
  | some (sf, _) =>
    let p := storePart sf.toNat r.fmt.toNat (partOf r) r.data (reqCauses r.pois r.pcause)
    ({ r with data := p.data, mask := p.mask, pois := poisBits p.pz, pcause := p.pz }, p.fl)

def cvtStored (t : Trk) : Req × FpFlags := cvtWrite t.cvt t.req

end Sys2Proof.Machine
end

