-- ==== Sys2Proof/Machine/Arrive.lean ====
section
/-! DEFINITION. Reduction arrivals at the slice of their group: judging (R272), joining a memory-target line (R298), combining
(R276) and their answers. -/

namespace Sys2Proof.Machine

/-- Judge an arrival: it waits to be combined, or is answered with the status R272 gives. -/
def Slice.judge (s : Slice) (g : List (Nat × BitVec 8)) (t : Trk) : Slice :=
  let n := t.req.group.toNat
  let st := if s.beforeOpen n t then Stat.REJ_CLOSED else s.judgeArrival t.req (s.beforeClose n t)
  if st = Stat.ACK then s.setStage t.id .combine
  else ((s.countReject n st t.req.cls.toNat).refuse g t st)

/-- The line an arrival's memory-target group starts from without preload (R218). -/
def identityLine (d : List Word) : LineData :=
  let f := accFmt (gACC d)
  lineOfElts f (fmtPerLine f) fun _ => identityOf (gOP d) (gACC d)

/-- A line joins a memory-target group: GRP is set and its count begins (R259, R271). -/
def Slice.joinWay (s : Slice) (p : Grp) (t : Trk) (way : Nat) (hit : Bool) : Slice :=
  let l := t.req.line
  let set := setOf l
  let s := if hit then s.hitHint Use.L way set t.req else s
  let s := if gPRELOAD p.desc then s
    else
      let s := s.fillSectors way set (identityLine p.desc) 0 15
      let w := setSD (setSV (s.tag way set) 15) 15
      s.setTag way set (if hit then w else setBUSY w false)
  let s := s.modMem fun m => (m.setTag way set (setGRP (m.tag way set) true)).setGlw way set 0
  let s := if gEXPECT p.desc = 0 then s
    else s.setFld (NS_GRPSTAT.SHORTU p.num) (s.fld (NS_GRPSTAT.SHORTU p.num) + 1)
  let k := fmtPerLine (accFmt (gACC p.desc))
  let s := s.modGrp p.num fun q =>
    { q with lines := q.lines ++ [l], hid := q.hid.filter fun h => h.1 / k != l.toNat - gTBASE p.desc / 128 }
  s.modTrk t.id fun u => { u with stage := .combine, way := some way, miss := true }

/-- An accepted arrival to a memory-target line brings the line into its group, if it is not there (R295, R298, R305). -/
def Slice.joinLine (s : Slice) (g : List (Nat × BitVec 8)) (t : Trk) : Slice :=
  match s.grp? t.req.group.toNat with
  | none => s
  | some p =>
    let l := t.req.line
    if !gMEM p.desc || p.lines.contains l then s
    else if gPRELOAD p.desc then
      let s := s.access g l Use.L 15 (s.trkJob t)
      let res := s.lookup Use.L l
      match s.getLine g t l Use.L 15 false false with
      | (s, .way w) => s.joinWay p t w (!t.miss)
      | (s, .waits) => match res with
        | some w => s.hitHint Use.L w (setOf l) t.req
        | none => s
      | (s, .blocked) => s
    else match s.lookup Use.L l with
      | some w => s.joinWay p t w true
      | none =>
        match (if t.miss then s.ownWay t else none) with
        | some w => s.joinWay p t w false
        | none =>
          match s.allocate g t l Use.L false with
          | (s, .way w) => s.joinWay p t w false
          | (s, .waits) => s.modTrk t.id fun u => { u with miss := true }
          | (s, .blocked) => s

/-- The arrival's line is there: an arrival to a vitrine-target group needs none. -/
def Slice.joined (s : Slice) (t : Trk) : Bool :=
  t.req.vsp || (match s.grp? t.req.group.toNat with
    | some p => p.lines.contains t.req.line
    | none => true)

/-- Combine an arrival into its memory-target line (R217, R228 to R232, R261, R276). In poisoned sectors the arithmetic continues on values
kept beside (R232). -/
def Slice.combineMem (s : Slice) (p : Grp) (t : Trk) : Slice :=
  let r := t.req
  let l := r.line
  let set := setOf l
  match s.lookup Use.L l with
  | none => s
  | some w =>
    let d := p.desc
    let f := accFmt (gACC d)
    let k := fmtPerLine f
    let pz := reqCauses r.pois r.pcause
    let old := s.mem.readLine w set
    let e0 := (l.toNat - gTBASE d / 128) * k
    let dead := fun (i : Nat) => s.mem.storedPoison w set (i * fmtWidth f / 256) != 0
    let es := (List.range k).map fun i =>
      let a := if dead i then hidVal p.hid (e0 + i) (lostVal p.born (e0 + i) (accBytes (gACC d))) else getElt old f i
      let (v, fl) := combineElt (gOP d) (gACC d) a f (getElt r.data f i)
      (v, fl.or { poison := causeAt pz (i * fmtWidth f / 256) != 0 })
    let hid := (List.range k).foldl (fun h i =>
      let gone := dead i || causeAt pz (i * fmtWidth f / 256) != 0
      Sparse.set (fun _ => none) h (e0 + i) (if gone then some (es.getD i (0, RaFlags.none)).1 else none)) p.hid
    let new := lineOfElts f k fun i => (es.getD i (0, RaFlags.none)).1
    let s := s.modMem fun m => (List.range 4).foldl (fun m i =>
      if s.mem.storedPoison w set i != 0 then m
      else if causeAt pz i != 0 then m.poisonSector w set i (causeAt pz i)
      else m.writeLine w set new (sectorMask i)) m
    let s := (s.dirty w set 15).raFlags p.num (es.foldl (fun a q => a.or q.2) RaFlags.none)
    let s := if t.miss then s else s.hitHint Use.L w set r
    let s := (s.addCount p.num (gEXPECT d) (arrK r) [w * 8192 + set]).1
    s.modGrp p.num fun q => { q with arrivals := q.arrivals + arrK r, booked := q.booked + arrK r, hid := hid }

/-- The ACK of a combined arrival; a memory-target line that has reached EXPECT then leaves its group (R276, R279, R295). -/
def Slice.ackArrival (s : Slice) (g : List (Nat × BitVec 8)) (t : Trk) : Slice :=
  let n := t.req.group.toNat
  let s := s.ev Ev.RED_ACK 1 none (some t.req.cls.toNat)
  let s := (s.freeTrk t.id).reply g (s.statusBeat t.op t.req none t.born Stat.ACK 0)
  if t.req.vsp then s
  else match s.grp? n with
    | none => s
    | some p =>
      if !gEXPLICIT p.desc && gEXPECT p.desc != 0 && s.grpState n = GSt.OPEN && gEXPECT p.desc ≤ s.lineCount p t.req.line then
        s.epiInPlace g n t.req.line
      else s

/-- Combine one arrival and answer it. Where the access makes its memory-target line invalid, the arrival joins the line anew (R581,
assumption 131). -/
def Slice.combine (s : Slice) (g : List (Nat × BitVec 8)) (t : Trk) : Slice :=
  let s := if t.req.vsp then s else s.access g t.req.line Use.L 15 (s.trkJob t)
  match s.grp? t.req.group.toNat with
  | none => ((s.unclaim t).countReject t.req.group.toNat Stat.REJ_CLOSED t.req.cls.toNat).refuse g t Stat.REJ_CLOSED
  | some p =>
    let s := s.modMeas fun q => { q with retired := q.retired ||| 4 }
    if t.req.vsp then (s.combineVit p t.req).ackArrival g t
    else if !p.lines.contains t.req.line then s
    else (s.combineMem p t).ackArrival g t

/-- No loan copy of an arrival's memory-target line stands, and no confirmation for it is due (R42, R428). -/
def Slice.loansGone (s : Slice) (t : Trk) : Bool :=
  t.req.vsp || (s.invDue t.req.line == 0 && (match s.lookup Use.L t.req.line with
    | some w => s.mem.loanAt w (setOf t.req.line) == 0
    | none => true))

/-- The loan copies of an arrival's line are invalidated before it is combined (R42, R428). -/
def Slice.callLoans (s : Slice) (g : List (Nat × BitVec 8)) (t : Trk) : Slice :=
  match (if t.req.vsp then none else s.lookup Use.L t.req.line) with
  | some w => s.dropLoans g w t.req.line none (s.trkJob t)
  | none => s

/-- An arrival can be combined: its line is there with no loan copy of it, no earlier access to its lines waits, and it is its group's oldest
(R278). -/
def Slice.canCombine (s : Slice) (t : Trk) : Bool :=
  s.joined t && !s.blocked t && s.loansGone t && !(s.port.trks.any fun u => isPending t.req.group.toNat u && u.id < t.id)

/-- The accumulation datapath grants one arrival (R472, R475). -/
def Slice.combineNext (s : Slice) (g : List (Nat × BitVec 8)) : Slice :=
  let ts := s.port.trks.filter (fun t => t.stage == .combine)
  match s.choose Point.accum.num (ts.map fun t => (s.trkJob t, s.canCombine t)) with
  | none => s
  | some i =>
    match ts[i]? with
    | none => s
    | some t => ((s.urgentCount (s.pointJob t)).granted Point.accum.num).combine g t

end Sys2Proof.Machine
end

