-- ==== Sys2Proof/Machine/Forward.lean ====
section
/-! DEFINITION. The slice as exit slice (R28, R29, R38, R41, R345, R346, R429 to R431, R441): loan hits, forwards, the merge of
pending writes, and fence sweeps. -/

namespace Sys2Proof.Machine

/-- A write whose bytes an exit slice keeps pending while the home has not acknowledged it (R430): every addressed write. -/
def exitWrite : Op → Bool
  | .wr | .wrrel | .cntwr | .cwr => true
  | _ => false

/-- An earlier read of the line by the same requester awaits the home's reply: a write waits for it, so that the reply does not hold the
write's bytes (R430, R433; DEDUCED, assumption 109). -/
def Slice.readPending (s : Slice) (t : Trk) : Bool :=
  s.port.trks.any fun u => u.id < t.id && u.kind == .read && u.stage == .fwd && u.key == t.key &&
    u.readers.any fun q => q.1.reqid == t.req.reqid && q.1.srcdie == t.req.srcdie

/-- An earlier atomic or arrival of the line by one of the readers is with the home: a copy here may not have its effect yet, and the read waits
for the home's answer (R41, R433). -/
def Slice.changePending (s : Slice) (t : Trk) : Bool :=
  s.port.trks.any fun u => u.id < t.id && (u.kind == .atom || u.kind == .red) && u.stage == .fwd && u.key == t.key &&
    t.readers.any fun q => q.1.reqid == u.req.reqid && q.1.srcdie == u.req.srcdie

/-- An earlier forwarded write of the line is outstanding (R429, R431). -/
def Slice.writePending (s : Slice) (t : Trk) : Bool :=
  s.port.fwdWr.any fun p => p.1 < t.id && p.2 == t.req.line

/-- A line with the bytes of this exit slice's pending writes merged over it (R430). -/
def Slice.mergePending (s : Slice) (l : LineAddr) (d : LineData) (pz : BitVec 12) : LineData × BitVec 12 :=
  s.port.fwdWr.foldl (fun (q : LineData × BitVec 12) p =>
    if p.2 != l then q
    else match s.trk? p.1 with
      | none => q
      | some t =>
        if passThrough t.op t.req then q
        else
          let (d, z, _) := mergePoisoned q.1 q.2 t.req.data t.req.mask (reqCauses t.req.pois t.req.pcause) t.converted
          (d, z)) (d, pz)

/-- The reader for whose context a tracker's request is forwarded: the first whose generation is current; a combined read stays alive for the
readers that a purge does not end (R102, R626; assumption 120). -/
def Trk.lead (t : Trk) (g : List (Nat × BitVec 8)) : Req :=
  ((t.readers.find? fun q => genOf g q.1.ctx == q.1.gen).map (·.1)).getD t.req

/-- Forward a tracker's request to the slice of the same number on die `die` (R29, R538). -/
def Slice.forwardTrk (s : Slice) (g : List (Nat × BitVec 8)) (t : Trk) (die : Nat) (op : Op) : Slice :=
  let s := s.modTrk t.id fun u => { u with stage := .fwd }
  let r := { t.req with cred := false, peer := none, odd := pipeOf op t.req, ctx := (t.lead g).ctx, gen := (t.lead g).gen }
  s.emit g (.req { dd := true, die := die, slice := s.num, op := op, req := r, why := .fwd t.id })
    { s.trkJob t with est := .fwd }

/-- Serve a read of a remote line as exit slice: from a loan copy, or by a forward (R38, R345, R431). -/
def Slice.exitRead (s : Slice) (g : List (Nat × BitVec 8)) (t : Trk) (die : Nat) : Slice :=
  let r := t.req
  let l := r.line
  let set := setOf l
  let op := if t.op == .crd then .rd else t.op
  let miss := fun (s : Slice) =>
    ((s.modTrk t.id fun u => { u with miss := true }).evReaders Ev.RD_MISS t).forwardTrk g { t with miss := true } die op
  if passThrough t.op r || s.isHost l then
    if t.op == .rdacq && 2 ≤ r.scope.toNat && s.writePending t then s.setStage t.id .fwdWait
    else s.forwardTrk g t die t.op
  else
    let s := s.checkSetTags set
    match s.lookup Use.O l with
    | none => miss s
    | some w =>
      if s.changePending t then s.setStage t.id .fwdWait
      else
      let (s, ok) := s.checkLine w set 15 false
      if !ok then
        miss ((s.bump NS_ECC_EVT2.REFETCH 1).setTag w set (setSV (s.tag w set) 0))
      else
        let s := (s.hitHint Use.O w set r).evReaders Ev.RD_HIT t
        let s := s.evReaders Ev.LOAN_HIT t
        let s := t.joined.foldl (fun s q => s.hitHint Use.O w set q.1) s
        let (d, pz) := s.mergePending l (s.mem.readLine w set) (s.mem.poisonOf w set 15)
        s.sendLine g t d pz

/-- Serve an addressed write to a remote line as exit slice: the loan copy is updated or the write made pending, the die-level
acknowledgement is sent, and the write is forwarded (R41, R346, R429, R430, R434). One of a cluster or an Ethernet port is forwarded
as it is (R431). -/
def Slice.exitWriteTrk (s : Slice) (g : List (Nat × BitVec 8)) (t : Trk) (die : Nat) : Slice :=
  if s.writePending t || s.readPending t then s.setStage t.id .fwdWait
  else if passThrough t.op t.req then
    (s.modPort fun p => { p with fwdWr := p.fwdWr ++ [(t.id, t.req.line)] }).forwardTrk g t die t.op
  else
    let s := if t.op == .cwr then s.bump NS_FP_EVT.CVTWR 1 else s
    let (r, fl) := if t.op == .cwr then cvtStored t else (t.req, {})
    let op := if t.op == .cwr then .wr else t.op
    let l := r.line
    let set := setOf l
    let s := (s.fpFlags fl).modTrk t.id fun u => { u with req := r, op := op }
    let t := { t with req := r, op := op }
    let s := if s.isHost l then s else s.access g l Use.O (touched r.mask &&& (15 - covered r.mask)) (s.trkJob t)
    let s := match (if s.isHost l then none else s.lookup Use.O l) with
      | some w => ((s.urgentCount (s.pointJob t)).storeBytes w set r.data r.mask (reqCauses r.pois r.pcause) t.converted).hitHint Use.O w set r
      | none => s
    let s := s.modPort fun p => { p with fwdWr := p.fwdWr ++ [(t.id, l)] }
    let s := s.reply g { s.statusBeat op r none t.born Stat.ACK 1 false true with measured := false }
    s.forwardTrk g t die op

/-- Serve a request as exit slice toward die `die`. -/
def Slice.serveExit (s : Slice) (g : List (Nat × BitVec 8)) (t : Trk) (die : Nat) : Slice :=
  match t.op with
  | .rd | .rdc | .rdacq => s.exitRead g t die
  | .crd | .cwr =>
    let c := if passThrough t.op t.req || t.stage == .fwdWait then 0 else s.cvtCheck t.op t.req t.cvt
    if c != 0 then (s.cvtRefuse c).refuse g t c
    else if t.op == .crd then s.exitRead g t die else s.exitWriteTrk g t die
  | .wr | .wrrel | .cntwr => s.exitWriteTrk g t die
  | op => s.forwardTrk g t die op

/-- The home's reply to a forwarded read: pending bytes are merged over it, and a line without a copy here is allocated in an O way (R38,
R85, R106, R430). -/
def Slice.forwardData (s : Slice) (g : List (Nat × BitVec 8)) (t : Trk) (m : RepMsg) : Slice :=
  let l := t.req.line
  let set := setOf l
  let pz := reqCauses m.pois m.pcause
    -- pending writes of the line are in the copy too (R41)
    let (d, z) := s.mergePending l m.data pz
    let s := if s.isHost l || t.noAlloc || !s.hasUse Use.O || (s.lookup Use.O l).isSome then s
      else match s.victimFor Use.O set t.req.reqid.toNat with
        | none => s.countNoalloc t
        | some w =>
          let s := s.ageFor Use.O set
          let s := ((s.urgentCount (s.trkJob t)).freeWay w set).claim w l false
          let s := (s.applyHint Use.O w set t.req.hint.toNat true).fillWay w set d z
          t.joined.foldl (fun s q => s.hitHint Use.O w set q.1) s
    s.sendLine g t d z

/-- A part of a home's reply goes on to the readers as it is (R29, R431): true with the last part. -/
def Slice.relay (s : Slice) (g : List (Nat × BitVec 8)) (t : Trk) (m : RepMsg) : Slice × Bool :=
  let st := m.status.toNat
  let last := m.part.toNat + 1 == m.npart.toNat || m.npart == 0
  let data := st == Stat.ACK && (match t.op with
    | .rd | .rdc | .rdacq | .crd | .vrd | .vcrd | .pxrd => true
    | .atom _ p => !p
    | _ => false)
  let s := if last then s.setStage t.id .done else s
  (s.reply g { s.statusBeat t.op t.req (some t.id) t.born st m.acklvl.toNat false true with
    dests := t.readers.map (fun q => reqDest t.op q.1 q.2), detail := m.detail.toNat, auxr := m.auxr.toNat,
    part := m.part.toNat, npart := m.npart.toNat, pz := if m.pois = 0 then 0 else reqCauses m.pois m.pcause,
    data := m.data, last := last, isData := data, job := s.trkJob { t with stage := .fwd } }, last)

/-- A write's acknowledgement by its home: the exit slice sends the reply of each level (R434, R525). -/
def Slice.relayWrite (s : Slice) (g : List (Nat × BitVec 8)) (t : Trk) : Slice :=
  let s := s.reply g { s.statusBeat t.op t.req none t.born Stat.ACK 1 false true with measured := false }
  (s.freeTrk t.id).reply g (s.statusBeat t.op t.req none t.born Stat.ACK 2 false true)

/-- A home's reply to a forwarded request (R29, R41, R430, R434): true when its tracker is done with it. -/
def Slice.forwardReply (s : Slice) (g : List (Nat × BitVec 8)) (t : Trk) (m : RepMsg) : Slice × Bool :=
  let st := m.status.toNat
  if st = Stat.HELD then (s.reply g { s.statusBeat t.op t.req none t.born st 0 false true with measured := false }, false)
  else
    let s := s.modPort fun p => { p with fwdWr := p.fwdWr.filter (fun q => q.1 != t.id) }
    let err := st != Stat.ACK
    if passThrough t.op t.req then (if exitWrite t.op && !err then (s.relayWrite g t, true) else s.relay g t m)
    else match t.op with
    | .rd | .rdc | .rdacq | .crd => (if err then s.refuse g t st else s.forwardData g t m, true)
    | .wr | .wrrel | .cntwr | .cwr =>
      (if err then (s.setStage t.id .done).reply g (s.statusBeat t.op t.req (some t.id) t.born st 0 false true)
       else (s.freeTrk t.id).reply g (s.statusBeat t.op t.req none t.born st 2 false true), true)
    | .vwr | .vcwr | .pxwr =>
      if err then ((s.setStage t.id .done).reply g (s.statusBeat t.op t.req (some t.id) t.born st 0 false true), true)
      else (s.relayWrite g t, true)
    | _ => s.relay g t m

/-! ### Fence sweeps (R440 to R442) -/

/-- The exit-forwarded writes accepted before now and not acknowledged. -/
def Slice.exitWrites (s : Slice) : List Nat :=
  (s.port.trks.filter fun t => t.kind == .write && t.op != .flush && t.stage != .done && t.stage != .stale &&
    (match s.place t.op t.req with
     | .exit _ => true
     | _ => false)).map (·.id)

/-- A fence is taken: answered at once below package scope or with nothing to wait for, else a sweep is pending. -/
def Slice.fenceSweep (s : Slice) (g : List (Nat × BitVec 8)) (r : Req) (born : Nat) : Slice :=
  let ids := s.exitWrites
  if r.scope.toNat < 2 || ids.isEmpty then s.reply g (s.statusBeat .fence r none born Stat.ACK 0)
  else s.modPort fun p => { p with sweeps := p.sweeps ++
    [{ dest := reqDest .fence r born, dd := r.via.dd?, cls := r.cls.toNat, slack := r.slack.toNat, born := born, trks := ids }] }

/-- Sweeps whose writes are all acknowledged are answered (R441). -/
def Slice.sweepsDone (s : Slice) (g : List (Nat × BitVec 8)) : Slice :=
  let live := fun (w : Sweep) => w.trks.any fun id => s.port.trks.any fun t => t.id == id && t.stage != .done
  if s.port.sweeps.all live then s
  else
    let fin := s.port.sweeps.filter (fun w => !live w)
    let s := s.modPort fun p => { p with sweeps := p.sweeps.filter live }
    fin.foldl (fun s w => s.reply g
      { dests := [w.dest], dd := w.dd, status := Stat.ACK, detail := 0, acklvl := 0, auxr := 0, part := 0, npart := 1, pz := 0,
        data := 0, trk := none, last := true, isData := false,
        job := { s.bgJob .none with kind := .request, cls := w.cls, master := w.dest.reqid.toNat, born := w.born, slack := w.slack },
        measured := false }) s

end Sys2Proof.Machine
end

