-- ==== Sys2Proof/Machine/Credits.lean ====
section
/-! DEFINITION. Reserved credits (R86, R397 to R403, R560): the conditions under which a request meets a busy resource, the
reserved-credit table, and the grant of credits when a resource frees. -/

namespace Sys2Proof.Machine

/-! ### The table (R398) -/

def Slice.credit? (s : Slice) (reqid : Nat) : Option Credit := s.port.credits.find? (fun c => c.reqid.toNat == reqid)

/-- Take a requester's credit out of the table: it is used, released or expired. -/
def Slice.dropCredit (s : Slice) (reqid : Nat) : Slice :=
  match s.credit? reqid with
  | none => s
  | some _ =>
    (s.modPort fun p => { p with credits := p.credits.filter (fun c => c.reqid.toNat != reqid) }).modMeas
      fun q => { q with credBook := q.credBook - 1 }

/-- Enter a reservation. -/
def Slice.addCredit (s : Slice) (c : Credit) : Slice :=
  (s.modPort fun p => { p with credits := p.credits ++ [c] }).modMeas fun q => { q with credBook := q.credBook + 1 }

/-- A line that is host class is busy for a request of `reqid`: a transaction of it runs or an accepted request waits to begin one, or it
is reserved for another requester (R397, R399). With `owed`, as for a new request, a reservation that still waits for the line counts
too: a freed resource passes to the oldest reserved requester (R404). -/
def Slice.lineTaken (s : Slice) (owed : Bool) (l : LineAddr) (reqid : Nat) : Bool :=
  s.lineBusy l || s.coh.waiters.any (fun w => w.msg.cl.line == l) || s.reservedFor owed (.line l) reqid != 0

/-- Entries of a directory set that are not busy, less those reserved for others. -/
def Slice.entsLeft (s : Slice) (owed : Bool) (set reqid : Nat) : Nat :=
  ((List.range 8).filter (fun e => !s.entBusy set e)).length - s.reservedFor owed (.dirset set) reqid

/-- Channel places left, of the 96 that may be held (R559, R560). -/
def Slice.chanLeft (s : Slice) (owed : Bool) (reqid : Nat) : Nat := 96 - s.heldReqs - s.reservedFor owed .chan reqid

/-- The resource of a reservation is free. A cluster's request also waits for the accesses accepted before it. -/
def Slice.resFree (s : Slice) (c : Credit) : Bool :=
  let id := c.reqid.toNat
  match c.res with
  | .line l => !s.lineTaken false l id && (c.msg.isNone || !s.lineInUse l)
  | .set n use => 0 < s.waysLeft false use n id
  | .dirset n => 0 < s.entsLeft false n id
  | .chan => 0 < s.chanLeft false id

/-- The trackers a reservation's request takes are free. -/
def Slice.creditTrkFree (s : Slice) (c : Credit) : Bool :=
  match c.msg with
  | none => s.trkFree (opTrk c.op)
  | some m => (msgTrks m).all s.trkFree

/-- Tell a requester that its credit is usable (R399). -/
def Slice.sendCredit (s : Slice) (g : List (Nat × BitVec 8)) (c : Credit) : Slice :=
  match c.msg with
  | some _ =>
    let l := match c.res with
      | .line l => l
      | _ => BitVec.ofNat 45 (c.pa.toNat / 128)
    s.sendLW g (lwMsg .credit (c.reqid.toNat - 144) l)
  | none =>
    let r : Req := { Req.zero with
      tag := c.tag, reqid := c.reqid, srcdie := c.srcdie, ctx := c.ctx, gen := c.gen, pa := c.pa, slack := 0xFFF }
    let b := s.statusBeat c.op r none s.now Stat.CREDIT 0
    s.reply g { b with measured := false, job := { b.job with key := .none } }

/-- The directory set of a resource is read before it is judged (R378, R597). -/
def Slice.readRes (s : Slice) (res : CRes) : Slice :=
  match res with
  | .line l => s.readSet (setOf l) s.port.nextId
  | .dirset n => s.readSet n s.port.nextId
  | .set _ _ | .chan => s

/-- Grant what can be granted, each resource in the order of its reservations (R399). -/
def Slice.grantCredits (s : Slice) (g : List (Nat × BitVec 8)) : Slice :=
  (s.port.credits.foldl (fun (q : Slice × List CRes) c =>
    if c.granted || q.2.contains c.res then q
    else
    let q := (q.1.readRes c.res, q.2)
    if q.1.resFree c && q.1.creditTrkFree c then
      let s := q.1.modPort fun p => { p with
        credits := replaceFirst (fun d => d.reqid == c.reqid) (fun d => { d with granted := true, since := q.1.now }) p.credits }
      (s.sendCredit g c, q.2)
    else (q.1, c.res :: q.2)) (s, [])).1

/-! ### What a request needs (R397, R559, R560) -/

/-- A line's data is on the way to a way of its set, or that way is being freed. A read that is served without allocation brings none. -/
def Slice.lineComing (s : Slice) (l : LineAddr) : Bool :=
  s.port.trks.any fun t => t.key == .pa l && t.way.isSome && (t.stage == .fill || t.stage == .victim)

/-- The use's victim in a set would be written back over this slice's channel. -/
def Slice.victimToChan (s : Slice) (use set reqid : Nat) : Bool :=
  match s.victimFor use set reqid with
  | some w => s.needsWriteback use w set && (s.memTgt (tagTAG (s.tag w set))).isChan
  | none => false

/-- The sectors that must be valid before a request of this opcode can be served, and whether it writes the line. A converting write
stores the bytes of its converted part (R334). -/
def sectorNeed (op : Op) (r : Req) (cvt : Option (BitVec 5 × Nat)) : Nat × Bool :=
  let part := fun (m : BitVec 128) => (touched m &&& (15 - covered m), m != 0)
  match op with
  | .rd | .rdc | .rdacq | .crd => (15, false)
  | .wr | .wrrel | .cntwr => part r.mask
  | .cwr => part (cvtWrite cvt r).1.mask
  | .atom a _ => (atomTouch a r.mask, true)
  | .redc | .redn => (0, false)
  | _ => (0, false)

/-- A request that this slice serves for an addressed line needs an operation of this slice's channel: a fill, its victim's writeback, or a
write-through (R559). An arrival is combined in the line's way, draining or not. -/
def Slice.needsChan (s : Slice) (op : Op) (r : Req) (cvt : Option (BitVec 5 × Nat)) : Bool :=
  let l := r.line
  let set := setOf l
  let own := (s.memTgt l).isChan
  match op with
  | .pxrd | .pxwr => own
  | .rd | .rdc | .rdacq | .crd | .wr | .wrrel | .cntwr | .cwr | .atom _ _ | .redc | .redn =>
    if Req.vt op r || s.lineComing l || (isCvt op && s.cvtCheck op r cvt != 0) then false
    else
      let use := s.useOf l
      let (need, chg) := sectorNeed op r cvt
      match s.lookup use l with
      | some w => own && (need &&& tagSV (s.tag w set) != need || (chg && s.draining w))
      | none =>
        let read := opTrk op == .read
        let bypass := !s.hasUse use || (read && (use == Use.L && r.hint == 3 || (s.victimFor use set r.reqid.toNat).isNone))
        let pre := match op with
          | .redc | .redn => ((s.grp? r.group.toNat).map (fun p => gPRELOAD p.desc)).getD false
          | _ => need != 0
        let none := match op with
          | .wr | .wrrel | .cntwr | .cwr => !chg
          | _ => false
        !none && ((own && (pre || (bypass && chg))) || (!bypass && s.victimToChan use set r.reqid.toNat))
  | _ => false

/-- No way can be taken for a line that is neither resident nor coming (R86, R399). -/
def Slice.setFull (s : Slice) (l : LineAddr) (use reqid : Nat) : Bool :=
  (s.lookup use l).isNone && !s.lineComing l && s.waysLeft true use (setOf l) reqid = 0

/-- A request that must have a way and finds none in its set (R86, R305). -/
def Slice.noVictim (s : Slice) (op : Op) (r : Req) : Bool :=
  let l := r.line
  let use := s.useOf l
  let must := match op with
    | .wr | .wrrel | .cntwr | .cwr => s.hasUse use && r.mask != 0
    | .atom _ _ => s.hasUse use
    | .redc | .redn => ((s.grp? r.group.toNat).map (fun p => gMEM p.desc && s.grpState p.num == GSt.OPEN)).getD false
    | _ => false
  !Req.vt op r && must && s.setFull l use r.reqid.toNat

/-- The first resource of R397 that an addressed request served here finds taken; a read that joins an open tracker needs no channel. A
converting request or an arrival that names a host-class line, and is refused later, meets a busy line as every request does (R519). -/
def Slice.busyRes (s : Slice) (op : Op) (r : Req) (joins : Bool) (cvt : Option (BitVec 5 × Nat)) : Option CRes :=
  let l := r.line
  let id := r.reqid.toNat
  let host := !Req.vt op r && s.isHost l && (match op with
    | .rd | .rdc | .rdacq | .crd | .wr | .wrrel | .cwr | .cntwr | .flush | .redc | .redn | .atom _ _ => true
    | _ => false)
  let near := host && (match op with
    | .atom _ _ => true
    | _ => false)
  if host && s.lineTaken true l id then some (.line l)
  else if s.noVictim op r then some (.set (setOf l) (s.useOf l))
  else if near && (s.findEnt l).isNone && s.entsLeft true (setOf l) id = 0 then some (.dirset (setOf l))
  else if !joins && s.needsChan op r cvt && s.chanLeft true id = 0 then some .chan
  else none

/-- The victim for a line is to be written back and the write/evict tracker for it is missing, `own` of them taken by the request itself
(R83, R87). -/
def Slice.evictBlocked (s : Slice) (l : LineAddr) (use reqid own : Nat) : Bool :=
  s.hasUse use && (s.lookup use l).isNone && !s.lineComing l &&
    (match s.victimFor use (setOf l) reqid with
     | some w => s.needsWriteback use w (setOf l) && trkCap .write ≤ s.trkUsed .write + s.creditTrks .write + own
     | none => false)

/-- The write/evict tracker for a victim's writeback is missing (R83, R87). -/
def Slice.noEvictTrk (s : Slice) (op : Op) (r : Req) : Bool :=
  let l := r.line
  let use := s.useOf l
  let alloc := !Req.vt op r && (match op with
    | .rd | .rdc | .rdacq | .crd => !(use == Use.L && r.hint == 3)
    | .wr | .wrrel | .cntwr | .cwr => r.mask != 0
    | .atom _ _ => true
    | .redc | .redn => ((s.grp? r.group.toNat).map (fun p => gMEM p.desc && s.grpState p.num == GSt.OPEN)).getD false
    | _ => false)
  -- a write takes one tracker for itself and one for the writeback
  alloc && s.evictBlocked l use r.reqid.toNat (if opTrk op == .write then 1 else 0)

end Sys2Proof.Machine
end

