-- ==== Sys2Proof/Machine/ChannelSide.lean ====
section
/-! DEFINITION. The channel-side state (R556 to R565), the map-out commands PREP and SAVE (R572 to R577) and the write-back of R657. -/

namespace Sys2Proof.Machine

/-! ### CSTATE -/

/-- HC_STATE (R531). -/
abbrev HcState.NORMAL : Nat := 0
abbrev HcState.RETRAIN : Nat := 1
abbrev HcState.MAPPED_OUT : Nat := 2

/-- Enter a channel-side state: NS_READY.CHANNEL follows it (R557), and leaving RETRAIN reports its length (R565). -/
def Slice.setCstate (s : Slice) (c : Nat) : Slice :=
  let n := min 0xFFFFFF s.chan.rtCycles
  let s := if s.cstate = CState.RETRAIN && c != CState.RETRAIN then
      let s := s.setFld NS_CH_STAT.RTLAST n
      if s.fld NS_CH_STALL.RTWORST < n then s.setFld NS_CH_STALL.RTWORST n else s
    else s
  let s := s.modChan fun q => { q with rtCycles := 0, rtRaised := false }
  (s.setFld NS_CH_STAT.CSTATE c).setFld NS_READY.CHANNEL (b2n (c = CState.NORMAL || c = CState.MAPPED))

/-- Held operations are issued oldest first, within the credits; those left over go before any newer one (R562). -/
def Slice.chanResume (s : Slice) (g : List (Nat × BitVec 8)) : Slice :=
  let s := s.modChan fun c => { c with resumed := c.nextOp }
  s.chan.ops.foldl (fun s o =>
    match s.chan.ops.find? (fun p => p.id == o.id) with
    | some p => if s.canIssue p then s.issueOp g p else s
    | none => s) s

/-- HC_STATE reads NORMAL: INIT, RETRAIN and LOST end unless the channel is in the map-out list (R556). -/
def Slice.hcNormal (s : Slice) (g : List (Nat × BitVec 8)) : Slice :=
  let s := s.setFld NS_PORTSTAT.HCSTATE HcState.NORMAL
  let c := s.cstate
  if !s.chanListed && (c = CState.INIT || c = CState.RETRAIN || c = CState.LOST) then
    (s.setCstate CState.NORMAL).chanResume g
  else s

/-- HC_STATE goes to RETRAIN: counted when it was NORMAL (R556). -/
def Slice.hcRetrain (s : Slice) : Slice :=
  let s := s.setFld NS_PORTSTAT.HCSTATE HcState.RETRAIN
  if s.cstate = CState.NORMAL then (s.setCstate CState.RETRAIN).bump NS_CH_STAT.RTCOUNT 1 else s

/-- HC_STATE becomes MAPPED_OUT (R556). -/
def Slice.hcLost (s : Slice) : Slice :=
  let s := s.setFld NS_PORTSTAT.HCSTATE HcState.MAPPED_OUT
  let c := s.cstate
  if c = CState.INIT || c = CState.NORMAL || c = CState.RETRAIN then s.setCstate CState.LOST else s

/-- HC_STATE takes a code. The port's inputs are ignored until the memory port is released (R552). While SCLK stands the slice keeps all
state and sees the change when SCLK runs (R547). -/
def Slice.hcState (s : Slice) (g : List (Nat × BitVec 8)) (v : Nat) : Slice :=
  if !s.flag NS_PORTSTAT.MEMRDY then s
  else if !s.sys.sclkRuns then s.modChan fun c => { c with hcLate := some v }
  else if v = HcState.NORMAL then s.hcNormal g
  else if v = HcState.RETRAIN then s.hcRetrain
  else s.hcLost

/-- CSTATE has been RETRAIN for the timeout, once in each RETRAIN (R564, R601). -/
def Slice.retrainExpires (s : Slice) : Slice :=
  if s.sys.sclkRuns && s.cstate = CState.RETRAIN && !s.chan.rtRaised && 2 ^ max 12 (s.fld NS_CH_CTL.RTMAXEXP) ≤ s.chan.rtCycles then
    let s := ((s.setFld NS_CH_STAT.RTTO 1).bump NS_CH_STALL.RTTOCNT 1).irqSet NS_IRQ_STAT.CHANNEL
    s.modChan fun q => { q with rtRaised := true }
  else s

/-! ### Walks over the tags -/

/-- A walk over the tags reads every tag entry, group-line word and loan vector through its check bits (R597). -/
def Slice.checkAllTags (s : Slice) : Slice :=
  ((s.mem.bkchk.filter (fun p => p.1 / 2 ^ 20 < 3)).map (fun p => p.1 % 8192)).dedup.foldl Slice.checkSetTags s

/-- Apply a step to every way of a set that has a tag entry, in order of way and set. -/
def Slice.overTags (s : Slice) (f : Slice → Nat → Nat → Slice) : Slice :=
  let s := s.checkAllTags
  s.mem.tags.foldl (fun s p => f s (p.1 / 8192) (p.1 % 8192)) s

/-- Some tag entry meets a condition. -/
def Slice.anyTag (s : Slice) (q : Nat → Nat → Word → Bool) : Bool :=
  s.mem.tags.any fun p => q (p.1 / 8192) (p.1 % 8192) p.2

/-- Invalidate a withdrawn line, without writeback, once its loan copies and its clusters' copies are gone (R574); what it waits for is
started. In safe mode the contents of O and H ways stay (R47). -/
def Slice.dropWithdrawn (s : Slice) (g : List (Nat × BitVec 8)) (way set : Nat) : Slice :=
  let t := s.tag way set
  let l := tagTAG t
  let use := s.wayCode way
  if tagSV t = 0 || !s.withdrawn l || s.busyAt way set || (s.safe && use != Use.L) then s
  else if use = Use.O then s.clearEntry way set
  else if use = Use.L then
    let v := s.mem.loanAt way set
    if v = 0 then (s.ungroup way set).clearEntry way set else s.invStart g l v (s.bgJob (.pa l))
  else if use = Use.H then
    let s := s.readDir g l
    match s.findEnt l with
    | none => s.clearEntry way set
    | some _ => if s.lineBusy l then s else s.beginTxn g l .victim .victim
  else s

/-- The entries of withdrawn lines of which a cluster has a copy. -/
def Slice.lentWithdrawn (s : Slice) : List LineAddr :=
  (((s.mem.dir.map (fun p => p.1 / 2)).dedup.map fun i => s.mem.ent (i / 8) (i % 8)).filter fun d =>
    d.state != 0 && s.withdrawn d.tag).map (·.tag)

/-- Copies of withdrawn lines in clusters, of lines that no H way holds as well, are invalidated by the directory-victim row of R382
(R574). -/
def Slice.dropCopies (s : Slice) (g : List (Nat × BitVec 8)) : Slice :=
  s.lentWithdrawn.foldl (fun s l =>
    let s := s.readDir g l
    if s.lineBusy l || (s.findEnt l).isNone then s else s.beginTxn g l .victim .victim) s

/-- A withdrawn line is still in an L, O or H way, or in a cluster. -/
def Slice.holdsWithdrawn (s : Slice) : Bool :=
  !s.lentWithdrawn.isEmpty || s.anyTag fun w _ t => tagSV t != 0 && s.withdrawn (tagTAG t) &&
    (s.wayCode w == Use.L || (!s.safe && (s.wayCode w == Use.O || s.wayCode w == Use.H)))

/-! ### PREP and SAVE -/

/-- An accepted access to a withdrawn line has not completed (R574): a request's, or a cluster's. -/
def Slice.withdrawnPending (s : Slice) : Bool :=
  s.port.trks.any (fun t => match t.key with
    | .pa l => s.withdrawn l && t.op != .pxrd && t.op != .pxwr
    | _ => false) ||
  s.coh.txns.any (fun t => t.who.cluster?.isSome && s.withdrawn t.line) || s.coh.waiters.any fun w => s.withdrawn w.msg.cl.line

/-- Reserve lines that PREP poisons: one bay block for each listed channel (R568, R574). -/
def Slice.prepTotal (s : Slice) : Nat := s.mapList.length * 2 ^ 19

/-- Poison the next reserve lines while operation credits are held. -/
def Slice.prepWrites (s : Slice) (g : List (Nat × BitVec 8)) (fuel : Nat) : Slice :=
  match fuel, s.walk.prep with
  | fuel + 1, some k =>
    if s.prepTotal ≤ k then s
    else
      let l := s.bayLine s.ownStack ((31 - k / 2 ^ 19) * 2 ^ 19 + k % 2 ^ 19) s.ownChan
      let o := writeOp l 0xF 0 (allCause Cause.MAPOUT) .none (s.bgJob (.pa l)) true
      if s.canIssue o && !s.chan.ops.any (fun p => p.sent.isNone && (s.opTgt p).isChan) then
        let s := (s.memOp g o).setFld NS_CH_MAPCTL.PROGRESS (k + 1)
        (s.modWalk fun w => { w with prep := some (k + 1) }).prepWrites g fuel
      else s
  | _, _ => s

/-- PREP goes on: its walk, then its writes (R574). -/
def Slice.prepStep (s : Slice) (g : List (Nat × BitVec 8)) : Slice :=
  match s.walk.prep with
  | none => s
  | some _ =>
    if !s.sys.sclkRuns || s.withdrawnPending then s
    else
      let s := (s.overTags fun s w n => s.dropWithdrawn g w n).dropCopies g
      if s.holdsWithdrawn then s else s.prepWrites g 96

/-- PREP is written (R573). -/
def Slice.prepStart (s : Slice) (g : List (Nat × BitVec 8)) : Slice :=
  if s.flag NS_CH_MAPCTL.BUSY then s.setFld NS_CH_MAPCTL.STATUS 2
  else if s.chanListed || s.mapList.isEmpty then s.setFld NS_CH_MAPCTL.STATUS 1
  else
    let s := ((s.setFld NS_CH_MAPCTL.STATUS 0).setFld NS_CH_MAPCTL.BUSY 1).setFld NS_CH_MAPCTL.PROGRESS 0
    (s.modWalk fun w => { w with prep := some 0 }).prepStep g

/-- The PREP work ends. -/
def Slice.prepEnds (s : Slice) (g : List (Nat × BitVec 8)) : Slice :=
  let s := s.prepStep g
  match s.walk.prep with
  | none => s
  | some k =>
    if !s.sys.sclkRuns || k < s.prepTotal || s.withdrawnPending || s.holdsWithdrawn then s
    else ((s.setFld NS_CH_MAPCTL.BUSY 0).setFld NS_CH_MAPCTL.DONE 1).modWalk fun w => { w with prep := none }

/-- SAVE invalidates a withdrawn line of an L way, without writeback (R575): its loan copies go first (R40), what the channel has not taken of
a writeback is not written, and of a line that a request waits for the sectors go. -/
def Slice.saveDrop (s : Slice) (g : List (Nat × BitVec 8)) (way set : Nat) : Slice :=
  let t := s.tag way set
  let v := s.mem.loanAt way set
  if v != 0 then s.invStart g (tagTAG t) v (s.bgJob (.pa (tagTAG t)))
  else if s.evicting way set then
    (s.modChan fun c => { c with ops := c.ops.filter fun o => o.why != .evict way set || o.sent.isSome }).evictEnd way set
  else if tagBUSY t then s.setTag way set (setSD (setSV t 0) 0)
  else (s.ungroup way set).clearEntry way set

/-- SAVE takes one entry of an L way: its valid sectors go to the reserve line and the line is left clean; a withdrawn line is
invalidated (R575). -/
def Slice.saveEntry (s : Slice) (g : List (Nat × BitVec 8)) (way set : Nat) : Slice :=
  let t := s.tag way set
  let l := tagTAG t
  if s.wayCode way != Use.L || tagSV t = 0 then s
  else if s.withdrawn l then s.saveDrop g way set
  else
    let (s, lost) := s.checkOut way set (tagSV t)
    let t := s.tag way set
    let ss := sentSectors t lost
    if ss = 0 then s.dropLost g way set lost (s.bgJob (.pa l))
    else
    let o := writeOp l (BitVec.ofNat 4 ss) (s.mem.readLine way set) (s.mem.poisonOf way set ss) .save (s.bgJob (.pa l)) true
    let s := (s.setTag way set (setSD t 0)).memOp g o
    (s.setFld NS_CH_MAPCTL.PROGRESS (s.fld NS_CH_MAPCTL.PROGRESS + 1)).dropLost g way set lost (s.bgJob (.pa l))

/-- SAVE is written (R573, R575). -/
def Slice.saveStart (s : Slice) (g : List (Nat × BitVec 8)) : Slice :=
  if s.flag NS_CH_MAPCTL.BUSY then s.setFld NS_CH_MAPCTL.STATUS 2
  else if s.cstate != CState.LOST || !s.chanListed then s.setFld NS_CH_MAPCTL.STATUS 1
  else
    let s := ((s.setFld NS_CH_MAPCTL.STATUS 0).setFld NS_CH_MAPCTL.BUSY 1).setFld NS_CH_MAPCTL.PROGRESS 0
    let s := (s.setCstate CState.MAPPING).modWalk fun w => { w with save := true }
    s.overTags fun s w n => s.saveEntry g w n

/-- A withdrawn line is still in an L way. -/
def Slice.saveWaits (s : Slice) : Bool :=
  s.anyTag (fun w _ t => tagSV t != 0 && s.withdrawn (tagTAG t) && s.wayCode w == Use.L) || s.chan.ops.any (·.why == .save)

/-- The SAVE walk ends: the channel is MAPPED and held requests go on (R562, R575). -/
def Slice.saveEnds (s : Slice) (g : List (Nat × BitVec 8)) : Slice :=
  if !s.walk.save || !s.sys.sclkRuns then s
  else
    let s := s.overTags fun s w n => if s.wayCode w == Use.L && tagSV (s.tag w n) != 0 && s.withdrawn (tagTAG (s.tag w n)) then
      s.saveDrop g w n else s
    if s.saveWaits then s
    else
      let s := (s.setFld NS_CH_MAPCTL.BUSY 0).setFld NS_CH_MAPCTL.DONE 1
      ((s.modWalk fun w => { w with save := false }).setCstate CState.MAPPED).chanResume g

/-! ### The write-back of R657 -/

/-- The write-back takes one entry of an L or H way; in safe mode of an L way (R47). -/
def Slice.wbEntry (s : Slice) (g : List (Nat × BitVec 8)) (way set : Nat) : Slice :=
  let t := s.tag way set
  let use := s.wayCode way
  if (use != Use.L && (use != Use.H || s.safe)) || tagSV t = 0 || tagSD t = 0 || s.evicting way set then s
  else
    let s := if tagGRP t then s.bump NS_GRP_EVT.FLUSHPART 1 else s
    (s.cleanLine g way set .wb).setFld NS_RC_WB.LINES (s.fld NS_RC_WB.LINES + 1)

/-- GO is written (R657). -/
def Slice.wbStart (s : Slice) : Slice :=
  ((s.setFld NS_RC_WB.BUSY 1).setFld NS_RC_WB.LINES 0).modWalk fun w => { w with wb := some false }

/-- The walk runs, unless idle is requested (R638), and the command is done once what it wrote has been accepted. -/
def Slice.wbEnds (s : Slice) (g : List (Nat × BitVec 8)) : Slice :=
  match s.walk.wb with
  | none => s
  | some walked =>
    if !s.sys.sclkRuns || (!walked && s.flag NS_RC_BLK.IDLEREQ) then s
    else
      let s := if walked then s
        else (s.overTags fun s w n => s.wbEntry g w n).modWalk fun w => { w with wb := some true }
      if s.chan.ops.any (·.why == .wb) then s
      else ((s.setFld NS_RC_WB.BUSY 0).setFld NS_RC_WB.DONE 1).modWalk fun w => { w with wb := none }

end Sys2Proof.Machine
end

