-- ==== Sys2Proof/Machine/Maint.lean ====
section
/-! DEFINITION. Upkeep of the arrays: way changes (R48 to R52), patrol scrubbing (R585 to R588), quarantine (R591 to R593) and raw
access (R595, R596). -/

namespace Sys2Proof.Machine

/-! ### Way changes -/

/-- The STATUS of a way change that is asked for now: 0 when it is accepted (R48, R650). Of several conditions the lowest code is reported
(assumption 123). One of a way with an enabled format window is accepted, and the window stays (DESIGN CHOICE, assumption 146). -/
def Slice.wayCheck (s : Slice) : Nat :=
  let new := fun (w : Nat) => getBits (s.rd Reg.NS_WAYMAP_NEXT) (4 * w) 4
  let bad := fun (w : Nat) => 4 < new w || (new w == Use.X && s.disabled 0)
  let leaves := fun (w : Nat) => new w != s.wayCode w
  let inWay := fun (w : Nat) (r : Nat × Nat) => overlap (w * 2 ^ 20) (2 ^ 20) r.1 r.2
  if (List.range 16).any bad then 1
  else if !(List.range 16).any (fun w => new w == Use.L) then 2
  else if (List.range 16).any (fun w => leaves w && (s.wayCode w == Use.X || s.wayCode w == Use.V) &&
      s.grps.any (fun p => (s.gRanges p.desc).any (inWay w))) then 3
  else if (List.range 16).any (fun w => leaves w && s.wayCode w == Use.V && (List.range 64).any (fun n =>
      s.flag (NS_VT_REGION.EN n) && s.fld (NS_VT_REGION.BASE n) / 256 ≤ w && w ≤ s.fld (NS_VT_REGION.LIMIT n) / 256)) then 4
  else if s.safe then 5
  else 0

/-- GO of a way change (R48, R49). -/
def Slice.wayStart (s : Slice) : Slice :=
  let c := s.wayCheck
  let s := s.setFld NS_WAYCHG.STATUS c
  if c != 0 then s
  else
    let ds := (List.range 16).filter fun w => getBits (s.rd Reg.NS_WAYMAP_NEXT) (4 * w) 4 != s.wayCode w
    let s := (s.setFld NS_WAYCHG.BUSY 1).setFld NS_WAYCHG.DRAIN (ds.foldl (fun n w => n + 2 ^ w) 0)
    s.modWalk fun q => { q with drain := ds.head?.map fun w => (w, 0) }

/-- An entry of a draining way leaves it: what it waits for is started, and true means that it is gone (R49, R306). -/
def Slice.drainEntry (s : Slice) (g : List (Nat × BitVec 8)) (way set : Nat) : Slice × Bool :=
  let s := s.checkSetTags set
  let t := s.tag way set
  let l := tagTAG t
  let use := s.wayCode way
  let s := if use = Use.H then s.checkSetDir set else s
  if use = Use.V || use = Use.X || use = Use.O then
    if use = Use.O && s.busyAt way set then (s, false) else (s.clearEntry way set, true)
  else if s.busyAt way set || tagGRP t then (s, false)
  else if tagSV t = 0 then (s, true)
  else if use = Use.L && s.mem.loanAt way set != 0 then (s.invStart g l (s.mem.loanAt way set) (s.bgJob (.pa l)), false)
  else if use = Use.H && s.lineBusy l then (s, false)
  else if tagSD t = 0 then (s.clearEntry way set, true)
  else if !s.trkFree .write then (s, false)
  else
    let s := s.startEvict g way set (s.bgJob (.pa l)) true
    (s, !s.evicting way set)

/-- The next place of the walk. -/
def Slice.drainNext (s : Slice) (way set : Nat) : Option (Nat × Nat) :=
  if set < 8191 then some (way, set + 1)
  else ((List.range 16).find? fun w => way < w && s.draining w).map fun w => (w, 0)

/-- The way-drain walk takes its next set; it stops for an idle request (R638) and in safe mode, which keeps every way's contents and
NS_WAYMAP (R47). -/
def Slice.drainStep (s : Slice) (g : List (Nat × BitVec 8)) : Slice :=
  match s.walk.drain with
  | none => s
  | some (w, n) =>
    if s.flag NS_RC_BLK.IDLEREQ || !s.sys.sclkRuns || s.safe then s
    else
      let (s, gone) := s.drainEntry g w n
      if gone then s.modWalk fun q => { q with drain := s.drainNext w n } else s

/-- Every draining way is empty. -/
def Slice.drained? (s : Slice) : Bool :=
  !s.anyTag fun w _ t => s.draining w && (tagSV t != 0 || tagBUSY t || tagGRP t)

/-- The way change ends (R49): the new map is taken. -/
def Slice.wayEnds (s : Slice) : Slice :=
  if !s.flag NS_WAYCHG.BUSY || !s.drained? || s.safe then s
  else
    let s := s.wr Reg.NS_WAYMAP (s.rd Reg.NS_WAYMAP_NEXT)
    let vm := (s.waysOf Use.V).foldl (fun n w => n + 2 ^ w) 0
    let s := ((s.setFld NS_VT_CTL.VMASK vm).setFld NS_WAYCHG.BUSY 0).setFld NS_WAYCHG.DRAIN 0
    ((s.setFld NS_WAYCHG.DONE 1).irqSet NS_IRQ_STAT.WAYCHG).modWalk fun q => { q with drain := none }

/-! ### Patrol scrubbing -/

/-- A visit to a line: its sectors, its tag entry and, at way 0, the set's directory entries (R586, R581). In safe mode what other ways than
L ways hold is left as it is (R47). -/
def Slice.scrubLine (s : Slice) (g : List (Nat × BitVec 8)) (way set : Nat) : Slice :=
  let s := ((s.checkBkWord 0 (wsIx way set) way set 0).checkBkWord 1 (wsIx way set) way set 0).checkBkWord 2 (wsIx way set) way set 0
  let s := if way = 0 then s.checkSetDir set else s
  let t := s.tag way set
  if s.busyAt way set || tagQUAR t then s.bump NS_ECC_EVT2.SKIP 1
  else
    let use := s.wayCode way
    let (s, ok) := if s.safe && use != Use.L then (s, true) else s.checkLine way set (tagSV t) (use = Use.V || use = Use.X)
    if ok then s
    else
      (s.bump NS_ECC_EVT2.REFETCH 1).killEntry g way set (s.bgJob (.pa (tagTAG t)))

/-- An earlier access to the line of a place is not applied, of a request or a cluster: the visit waits for it (R119, R588). -/
def Slice.scrubWaits (s : Slice) (way set : Nat) : Bool :=
  let use := s.wayCode way
  s.rawAhead set s.port.nextId || (if use = Use.V || use = Use.X then s.lineWaits (.vit (BitVec.ofNat 17 (way * 8192 + set)))
    else
      let l := tagTAG (s.tag way set)
      tagSV (s.tag way set) != 0 && ((!s.busyAt way set && s.lineWaits (.pa l)) ||
        s.coh.waiters.any (fun w => w.msg.cl.line == l) || s.coh.txns.any (fun t => t.line == l)))

/-- The scrubber visits its next line (R585): ascending way, then ascending set. A visit that corrects takes a grant of the array write port
(R588). -/
def Slice.scrub (s : Slice) (g : List (Nat × BitVec 8)) : Slice :=
  if s.fld NS_ECC_CTL.SCRUBINT = 0 || !s.sys.sclkRuns || s.sys.released < 3 || s.flag NS_RC_BLK.IDLEREQ then s
  else
    let pos := s.fld NS_ECC_STAT.SCRUBPOS
    if s.scrubWaits (pos / 8192) (pos % 8192) then s
    else
      let t := (s.scrubLine g (pos / 8192) (pos % 8192)).ev Ev.SCRUB_VISIT 1
      let t := if t.mem.chk == s.mem.chk && t.mem.tier == s.mem.tier then t else t.granted Point.arrayWrite.num
      let t := t.setFld NS_ECC_STAT.SCRUBPOS ((pos + 1) % 131072)
      if pos = 131071 then t.bump NS_ECC_STAT.SCRUBPASS 1 else t

/-! ### Quarantine -/

/-- The line's place is quarantined (R592). -/
def Slice.quarDone (s : Slice) (way set : Nat) : Slice :=
  (((s.setTag way set (setQUAR (s.tag way set) true)).setFld NS_ECC_QUAR.STATUS 0).setFld NS_ECC_QUAR.DONE 1).modWalk fun q =>
    { q with quar := q.quar.filter (· != (way, set)) }

/-- The line of a QSET, with no copy elsewhere, leaves as a victim does. -/
def Slice.quarVictim (s : Slice) (g : List (Nat × BitVec 8)) (way set : Nat) : Slice :=
  if s.needsWriteback (s.wayCode way) way set then
    if !s.trkFree .write then s
    else
      let s := s.startEvict g way set (s.bgJob (.pa (tagTAG (s.tag way set)))) false
      if s.evicting way set then s else s.quarDone way set
  else (s.freeWay way set).quarDone way set

/-- Carry a QSET on: the line is taken as a victim, then its place is quarantined (R83, R84, R592). In safe mode what other ways than L ways
hold is kept (R47). -/
def Slice.quarStep (s : Slice) (g : List (Nat × BitVec 8)) (way set : Nat) : Slice :=
  let s := s.checkSetTags set
  let t := s.tag way set
  let l := tagTAG t
  let use := s.wayCode way
  if use = Use.V || use = Use.X || (s.safe && use != Use.L) || (tagSV t = 0 && !tagBUSY t) then s.quarDone way set
  else if s.busyAt way set || tagGRP t then s
  else if use = Use.L && s.mem.loanAt way set != 0 then s.invStart g l (s.mem.loanAt way set) (s.bgJob (.pa l))
  else if use = Use.H then
    let s := s.readDir g l
    if (s.findEnt l).isNone then s.quarVictim g way set else if s.lineBusy l then s else s.beginTxn g l .victim .victim
  else s.quarVictim g way set

/-- The refusal of a quarantine command: 0 when it is accepted (the table above R591). -/
def Slice.quarCheck (s : Slice) (qset : Bool) (way set : Nat) : Nat :=
  let use := s.wayCode way
  if qset && tagGRP (s.tag way set) then 1
  else if qset && (use = Use.L || use = Use.O || use = Use.H) &&
      !(s.waysOf use).any (fun w => w != way && !tagQUAR (s.tag w set)) then 2
  else if s.flag NS_WAYCHG.BUSY || s.draining way then 3
  else 0

/-- A quarantine command is refused. -/
def Slice.quarRefuse (s : Slice) (c : Nat) : Slice := (s.setFld NS_ECC_QUAR.STATUS c).setFld NS_ECC_QUAR.DONE 1

/-- QSET (R592). -/
def Slice.quarSet (s : Slice) (g : List (Nat × BitVec 8)) : Slice :=
  let way := s.fld NS_ECC_QUAR.WAY
  let set := s.fld NS_ECC_QUAR.SET
  let s := s.checkSetTags set
  let c := s.quarCheck true way set
  if c != 0 then s.quarRefuse c
  else (s.modWalk fun q => { q with quar := q.quar ++ [(way, set)] }).quarStep g way set

/-- QCLR (R593). -/
def Slice.quarClear (s : Slice) : Slice :=
  let way := s.fld NS_ECC_QUAR.WAY
  let set := s.fld NS_ECC_QUAR.SET
  let s := s.checkSetTags set
  let c := s.quarCheck false way set
  if c != 0 then s.quarRefuse c
  else
    let t := s.tag way set
    let use := s.wayCode way
    let t := if !tagQUAR t then t
      else if use = Use.X || (s.safe && use != Use.L && use != Use.V) then setQUAR t false
      else if use = Use.V then setSV (setQUAR t false) 0
      else 0
    ((s.setTag way set t).setFld NS_ECC_QUAR.STATUS 0).setFld NS_ECC_QUAR.DONE 1

/-! ### Raw access -/

/-- An access to the set, accepted before number `n` was given, is not applied (R119): of a request, a cluster, a transaction of the home, an
engine line to the place, or another access of this kind. -/
def Slice.setInUse (s : Slice) (way set n : Nat) : Bool :=
  s.port.trks.any (fun t => t.id < n && !t.over && (s.touches t).any fun k => k.set? == some set) ||
    s.coh.waiters.any (fun w => w.since < n && setOf w.msg.cl.line == set) || s.coh.txns.any (fun t => setOf t.line == set) ||
    s.bulkPends (.vit (BitVec.ofNat 17 (way * 8192 + set))) || s.rawAhead set n

/-- Perform a raw access (R596). -/
def Slice.rawDo (s : Slice) (r : RawAcc) : Slice :=
  let way := getBits r.ctl 32 4
  let set := getBits r.ctl 16 13
  let word := getBits r.ctl 8 5
  let s := match getBits r.ctl 62 2 with
    | 0 =>
      let wi := wordIx way set word
      if r.write then
        let d : BitVec 32 := r.data.extractLsb' 0 32
        s.modMem fun m => (m.setWord wi d).setChk wi (BitVec.ofNat 7 r.chk.toNat ^^^ chkData d)
      else
        let d := s.mem.word wi
        (s.setFld NS_ECC_CBDATA.DATA d.toNat).setFld NS_ECC_CBCHK.CHECK (chkData d ^^^ s.mem.chkAt wi).toNat
    | 1 =>
      let ix := wsIx way set
      if r.write then s.modMem fun m => (m.setTag way set r.data).setBk 0 ix (r.chk ^^^ chkBk r.data)
      else
        let d := s.tagWord way set
        (s.setFld NS_ECC_CBDATA.DATA d.toNat).setFld NS_ECC_CBCHK.CHECK (chkBk d ^^^ s.mem.bkAt 0 ix).toNat
    | _ =>
      let ix := dirIx set (way % 8) (word % 2)
      if r.write then s.modMem fun m => (m.setDirWord set (way % 8) (word % 2) r.data).setBk 3 ix (r.chk ^^^ chkBk r.data)
      else
        let d := s.mem.dirWord set (way % 8) (word % 2)
        (s.setFld NS_ECC_CBDATA.DATA d.toNat).setFld NS_ECC_CBCHK.CHECK (chkBk d ^^^ s.mem.bkAt 3 ix).toNat
  s.setFld NS_ECC_CBCTL.DONE 1

/-- A raw access is asked for: it takes its number in the order of acceptance, and no read joins an open one of a line it writes (R98,
R119). -/
def Slice.rawStart (s : Slice) (write : Bool) : Slice :=
  let r : RawAcc := { write := write, ctl := s.rd Reg.NS_ECC_CBCTL, data := s.rd Reg.NS_ECC_CBDATA,
                      chk := BitVec.ofNat 8 (s.fld NS_ECC_CBCHK.CHECK), since := s.port.nextId }
  let way := getBits r.ctl 32 4
  let set := getBits r.ctl 16 13
  let s := if write then (s.closeLine (.vit (BitVec.ofNat 17 (way * 8192 + set)))).closeLine (.pa (tagTAG (s.tag way set))) else s
  (s.modWalk fun q => { q with raw := q.raw ++ [r] }).modPort fun p => { p with nextId := p.nextId + 1 }

/-- Raw accesses that nothing accepted before them holds back are performed, in order. -/
def Slice.rawSteps (s : Slice) : Slice :=
  s.walk.raw.foldl (fun s r =>
    if s.setInUse (getBits r.ctl 32 4) (getBits r.ctl 16 13) r.since then s
    else (s.rawDo r).modWalk fun q => { q with raw := q.raw.erase r }) s

/-! ### In every settling -/

/-- Upkeep that waits goes on. -/
def Slice.maint (s : Slice) (g : List (Nat × BitVec 8)) : Slice :=
  let s := s.walk.quar.foldl (fun s p => s.quarStep g p.1 p.2) s
  let s := if s.walk.raw.isEmpty then s else s.rawSteps
  s.prepStep g

end Sys2Proof.Machine
end

