-- ==== Sys2Proof/Machine/Bulk.lean ====
section
/-! DEFINITION. The bulk engine (R149 to R186): descriptors and their checks, the active command, the lines it issues, what their
answers do, faults, pre-emption, and completion records. -/

namespace Sys2Proof.Machine

/-! ### Descriptors (R155, R156) -/

def bTAG (d : List Word) : Nat := descBits d 0 48 16
def bHINT (d : List Word) : Nat := descBits d 0 40 2
def bCLASS (d : List Word) : Nat := descBits d 0 32 3
def bFMT (d : List Word) : Nat := descBits d 0 24 5
def bDIR (d : List Word) : Bool := descBits d 0 7 1 == 1
def bHOLD (d : List Word) : Bool := descBits d 0 6 1 == 1
def bURG (d : List Word) : Bool := descBits d 0 5 1 == 1
def bIRQ (d : List Word) : Bool := descBits d 0 4 1 == 1
def bOPC (d : List Word) : Nat := descBits d 0 0 4
def bLEN (d : List Word) : Nat := descBits d 1 0 40
def bSRC (d : List Word) : Nat := descBits d 2 0 64
def bDST (d : List Word) : Nat := descBits d 3 0 64
def bNSEG (d : List Word) : Nat := descBits d 6 0 13
/-- TILEMASK of a BINV descriptor. -/
def bTILES (d : List Word) : BitVec 144 :=
  BitVec.ofNat 144 (descBits d 8 0 64 + 2 ^ 64 * descBits d 9 0 64 + 2 ^ 128 * descBits d 10 0 16)

/-- OPC codes. -/
abbrev BOp.FILL : Nat := 1
abbrev BOp.COPY : Nat := 2
abbrev BOp.SNAPSHOT : Nat := 3
abbrev BOp.SCATTER : Nat := 4
abbrev BOp.BINV : Nat := 5

/-- Status codes of completion records. -/
abbrev BSt.DONE : Nat := 0
abbrev BSt.FAULT : Nat := 1
abbrev BSt.ABORTED : Nat := 2
abbrev BSt.BAD_OPC : Nat := 3
abbrev BSt.BAD_ALIGN : Nat := 4
abbrev BSt.BAD_RANGE : Nat := 5
abbrev BSt.DENIED : Nat := 6

/-- A reserved field is not zero. -/
def bReserved (d : List Word) : Bool :=
  descBits d 0 42 6 != 0 || descBits d 0 35 5 != 0 || descBits d 0 29 3 != 0 || descBits d 0 8 16 != 0 ||
  descBits d 1 40 24 != 0 || descBits d 4 40 24 != 0 || descBits d 7 0 64 != 0 || descBits d 10 16 48 != 0 ||
  [11, 12, 13, 14, 15].any (fun i => d.getD i 0 != 0)

/-- The V ways, lowest first (R180, R756). -/
def Slice.vWays (s : Slice) : List Nat := (List.range 16).filter s.isV

/-- Total bytes of a command (R156). -/
def Slice.bulkTotal (s : Slice) (d : List Word) : Nat :=
  if bOPC d = BOp.SNAPSHOT then s.vWays.length * 2 ^ 20
  else if bOPC d = BOp.SCATTER then bNSEG d * bLEN d
  else bLEN d

/-- The virtual address of a command's first memory byte, for a command that touches memory by page. -/
def bMem (d : List Word) : Option Nat :=
  if bOPC d = BOp.COPY then some (if bDIR d then bDST d else bSRC d)
  else if bOPC d = BOp.SCATTER then (if bDIR d then some (bSRC d) else none)
  else if bOPC d = BOp.BINV then some (bSRC d)
  else none

/-- The vitrine ranges of a command, as offset and length (R156). A snapshot has none: it touches every V way whatever the regions are, and
makes no region BUSY (DESIGN CHOICE, assumption 129). -/
def bVt (d : List Word) : List (Nat × Nat) :=
  if bOPC d = BOp.FILL then [(bDST d, bLEN d)]
  else if bOPC d = BOp.COPY then [(if bDIR d then bSRC d else bDST d, bLEN d)]
  else if bOPC d = BOp.SCATTER then
    (if bDIR d then [] else [(bSRC d, bNSEG d * bLEN d)]) ++ [(bDST d, 4 * bNSEG d)]
  else []

/-- The tiles a broadcast-invalidate targets: those of its mask that the distance table does not map out (R115). -/
def Slice.mappedOut (s : Slice) : BitVec 144 :=
  BitVec.ofNat 144 ((List.range 144).foldl (fun n t =>
    if getBits (s.rd (Reg.NS_DIST (t / 8))) (8 * (t % 8)) 8 = 0xFF then n + 2 ^ t else n) 0)
def Slice.bulkTiles (s : Slice) (d : List Word) : BitVec 144 := bTILES d &&& ~~~s.mappedOut

/-! ### Checks (R159 to R161) -/

/-- The image of a snapshot leaves the visible stack range or overlaps a host window. A 2 MiB granule holds 512 bays. -/
def Slice.badImage (s : Slice) (d : List Word) : Bool :=
  let n := s.bulkTotal d / 128
  let b := bDST d % 2 ^ 24
  let first := (s.fld NS_PL_HBMBASE.BASE * 2 ^ 40 + s.ownStack * 2 ^ 36) / 2 ^ 21
  n != 0 && ((32 - s.mapList.length) * 2 ^ 19 < b + n || (List.range 8).any fun k =>
    let w := s.rd (Reg.NS_HOSTWIN k)
    bitAt w 63 && getBits w 0 31 ≤ getBits w 32 31 && getBits w 0 31 ≤ first + (b + n - 1) / 512 && first + b / 512 ≤ getBits w 32 31)

/-- An address, LEN or PROGRESS the opcode uses is not a multiple of 128, or CPLADDR not of 32. -/
def bMisaligned (d : List Word) : Bool :=
  let o := bOPC d
  descBits d 4 0 40 % 128 != 0 || descBits d 5 0 64 % 32 != 0 ||
  (o != BOp.SNAPSHOT && bLEN d % 128 != 0) ||
  ((o == BOp.COPY || o == BOp.SCATTER || o == BOp.BINV) && bSRC d % 128 != 0) ||
  ((o == BOp.FILL || o == BOp.COPY || o == BOp.SCATTER) && bDST d % 128 != 0)

/-- The status with which the checks of R159 end a command; 0 when it passes. -/
def Slice.bulkCheck (s : Slice) (c : Cmd) : Nat :=
  let d := c.desc
  let o := bOPC d
  if o = 0 || 5 < o || (bHOLD d && !(o == BOp.SNAPSHOT && !bDIR d)) || (bDIR d && (o == BOp.FILL || o == BOp.BINV)) ||
      (o != BOp.SCATTER && bFMT d != 0) || bReserved d then BSt.BAD_OPC
  else if (bURG d || o == BOp.SNAPSHOT) && s.fld NS_VT_CTL.SNAPCTX != c.ctx.toNat then BSt.DENIED
  else if bMisaligned d then BSt.BAD_ALIGN
  else if s.bulkTotal d < c.progress || (o == BOp.SCATTER && 4096 < bNSEG d) || (bVt d).any (fun r => !s.inV r.1 r.2) ||
      (o == BOp.SNAPSHOT && s.badImage d) then BSt.BAD_RANGE
  else if (bVt d).any (fun r => !s.vtPermitRange c.ctx r.1 r.2) then BSt.DENIED
  else 0

/-- A command that has nothing to do completes at once (R160, R161, R115). -/
def Slice.bulkEmpty (s : Slice) (c : Cmd) : Bool :=
  s.bulkTotal c.desc == c.progress || (bOPC c.desc == BOp.BINV && s.bulkTiles c.desc == 0)

/-! ### The command table -/

def Slice.cmd? (s : Slice) (id : Nat) : Option Cmd := s.bulk.cmds.find? (fun c => c.id == id)
def Slice.modCmd (s : Slice) (id : Nat) (f : Cmd → Cmd) : Slice :=
  s.modBulk fun b => { b with cmds := replaceFirst (fun c => c.id == id) f b.cmds }
def Slice.activeCmd (s : Slice) : Option Cmd := s.bulk.active.bind s.cmd?

/-- Operations of the channel side that belong to a command's image. -/
def Slice.imageOps (s : Slice) (id : Nat) : Nat :=
  (s.chan.ops.filter fun o => match o.why with
    | .restore c _ => c == id
    | .image c => c == id
    | _ => false).length

/-- Line requests outstanding for a command (R163). -/
def Slice.bulkOut (s : Slice) (c : Cmd) : Nat := c.lines.length + c.tiles.length + s.imageOps c.id

/-- Work of the bulk engine's lines: of commands the slice still holds, and of those it no longer does. -/
def Why.isBulk : Why → Bool
  | .bulkRd _ _ | .bulkWr _ _ | .bulkRed _ _ | .tinv _ _ => true
  | _ => false

/-- The byte offsets, in the command, of its outstanding lines and pages. -/
def Slice.bulkOpen (s : Slice) (c : Cmd) : List Nat :=
  c.lines ++ c.tiles.map (fun p => p.1 * 4096 - bSRC c.desc) ++ s.chan.ops.filterMap fun o => match o.why with
    | .restore d _ | .image d => if d == c.id then some (128 * (bayOf o.line - bDST c.desc % 2 ^ 24)) else none
    | _ => none

/-- Bytes done by a command: those below its lowest outstanding line, else below the next one to issue (R165, R191). -/
def Slice.bulkBytes (s : Slice) (c : Cmd) : Nat := (s.bulkOpen c).foldl min c.progress

/-- NS_BLK_PROG.PROGRESS follows the last active command (R191). -/
def Slice.progShow (s : Slice) : Slice :=
  match s.bulk.shown.bind s.cmd? with
  | some c => if s.fld NS_BLK_PROG.PROGRESS = s.bulkBytes c then s else s.setFld NS_BLK_PROG.PROGRESS (s.bulkBytes c)
  | none => s

/-- The bay of image line `k`, and its line (R181, R186). -/
def Slice.imageLine (s : Slice) (d : List Word) (k : Nat) : LineAddr :=
  s.bayLine s.ownStack (bDST d % 2 ^ 24 + k) s.ownChan

/-- The lines the save has written of which loan invalidations await their confirmation (R41, R172, R180). -/
def Slice.imageInvs (s : Slice) (c : Cmd) : List LineAddr :=
  if bOPC c.desc != BOp.SNAPSHOT || bDIR c.desc then []
  else (s.port.invs.map (·.1)).filter fun l =>
    let b := bayOf l
    let b0 := bDST c.desc % 2 ^ 24
    l == s.imageLine c.desc (b - b0) && b0 ≤ b && b < b0 + c.progress / 128

/-- There is one. -/
def Slice.imageInv (s : Slice) (c : Cmd) : Bool := !(s.imageInvs c).isEmpty

/-- No line request is outstanding (R190): neither of a command, nor one that a command which is gone has left, nor a written image line
that awaits confirmations. -/
def Slice.bulkStill (s : Slice) : Bool :=
  !s.bulk.cmds.any (fun c => s.bulkOut c != 0 || s.imageInv c) && !s.bulk.left.any (fun l => s.invDue l != 0) && !s.out.issue.any (·.why.isBulk) &&
    !s.out.outq.any (fun i => match i.msg with
      | .req q => q.why.isBulk
      | _ => false) && !s.chan.ops.any fun o => match o.why with
      | .restore _ _ | .image _ => true
      | _ => false

/-- NS_BLK_PROG shows a command that becomes active (R191). -/
def Slice.blkProg (s : Slice) (c : Cmd) : Slice :=
  (((s.setFld NS_BLK_PROG.TAG (bTAG c.desc)).setFld NS_BLK_PROG.OPC (bOPC c.desc)).modBulk fun b => { b with shown := some c.id }).progShow

/-! ### The end of a command (R164, R165, R171, R172) -/

/-- The completion record of a command (R171). -/
def Slice.bulkRecord (s : Slice) (c : Cmd) (status : Nat) : Cpl :=
  let d := c.desc
  let w0 : Word := setBits (setBits (setBits 0 48 16 (bTAG d)) 32 8 status) 0 4 (bOPC d)
  let w1 : Word := setBits 0 0 40 c.progress
  let w2 : Word := if status = BSt.FAULT then c.faultVa else 0
  let w3 : Word := setBits (setBits 0 32 32 c.poisonLn) 0 32 c.rejLn
  { id := s.bulk.nextCpl, cmd := some c.id, group := none, waits := [], sent := false, tag := bTAG d, status := status, irq := bIRQ d,
    cpladdr := d.getD 5 0, words := [w0, w1, w2, w3], ctx := c.ctx, gen := c.gen, cls := bCLASS d, reqid := c.reqid,
    srcdie := c.srcdie, priv := c.priv }

/-- A command's work is over: its record is due. It keeps its slot until the record is written or dropped (R152). -/
def Slice.finishCmd (s : Slice) (c : Cmd) (status : Nat) : Slice :=
  let r := s.bulkRecord c status
  let s := s.modBulk fun b => { b with
    cpls := b.cpls ++ [r], nextCpl := b.nextCpl + 1, active := if b.active == some c.id then none else b.active }
  let s := s.modCmd c.id fun c => { c with status := some status }
  s.modMeas fun q => { q with retired := q.retired ||| 0x10 }

/-- The status with which a command completes now: nothing of it is outstanding, and it was ended, has issued every line, or has
issued every line below the page that faulted. -/
def Slice.cmdEnd (s : Slice) (c : Cmd) : Option Nat :=
  if s.bulk.cpls.any (fun r => r.cmd == some c.id) || s.bulkOut c != 0 || s.imageInv c then none
  else match c.status with
    | some st => some st
    | none =>
      if !c.checked then none
      else if s.bulkTotal c.desc ≤ c.progress then some BSt.DONE
      else match c.stopAt with
        | some p => if p ≤ c.progress then some BSt.FAULT else none
        | none => none

/-- Complete every command that is over. -/
def Slice.bulkEnds (s : Slice) : Slice :=
  s.bulk.cmds.foldl (fun s c => match s.cmdEnd c with
    | some st => s.finishCmd c st
    | none => s) s.progShow

/-- A command ends with a status and issues nothing more. -/
def Slice.stopCmd (s : Slice) (id status : Nat) : Slice :=
  (s.modCmd id fun c => { c with status := some (c.status.getD status) }).bulkEnds

/-! ### Starting and pre-emption (R153, R154, R167, R638) -/

/-- The engine may start commands and issue lines. -/
def Slice.bulkRuns (s : Slice) : Bool :=
  s.sys.sclkRuns && !s.flag NS_BLK_CTL.PAUSE && !s.flag NS_RC_BLK.IDLEREQ

/-- The next command: the oldest urgent one, else the oldest. -/
def Slice.bulkNext (s : Slice) : Option Cmd :=
  let cs := s.bulk.cmds.filter (fun c => c.status.isNone)
  match cs.find? (fun c => bURG c.desc) with
  | some c => some c
  | none => cs.head?

/-- Make the next command active and check it, or go on with one that was pre-empted. -/
def Slice.bulkStart (s : Slice) : Slice :=
  if !s.bulkRuns || s.bulk.active.isSome then s
  else match s.bulkNext with
    | none => s
    | some c =>
      let s := (s.modBulk fun b => { b with active := some c.id }).blkProg c
      if c.checked then s.bulkEnds
      else
        let st := s.bulkCheck c
        if st != 0 then s.stopCmd c.id st
        else if s.bulkEmpty c then
          let n := s.bulkTotal c.desc
          (s.modCmd c.id fun c => { c with checked := true, progress := n }).stopCmd c.id BSt.DONE
        else s.modCmd c.id fun c => { c with checked := true }

/-- An urgent command takes the place of an active command that is not urgent (R154). -/
def Slice.bulkPreempt (s : Slice) : Slice :=
  match s.activeCmd with
  | none => s
  | some a =>
    if !s.bulkRuns || bURG a.desc || !s.bulk.cmds.any (fun c => c.status.isNone && bURG c.desc) then s
    else (s.modBulk fun b => { b with active := none }).bulkStart

/-- ABORT (R168). -/
def Slice.bulkAbort (s : Slice) : Slice :=
  s.bulk.cmds.foldl (fun s c => s.stopCmd c.id BSt.ABORTED) s

/-- A purge removes a context's commands and their records (R169). -/
def Slice.bulkPurge (s : Slice) (ctx : BitVec 12) : Slice :=
  let gone := s.bulk.cmds.filter (fun c => c.ctx == ctx)
  let mine := fun (id : Nat) => gone.any (fun c => c.id == id)
  let left := gone.flatMap s.imageInvs
  let s := s.modBulk fun b => { b with
    cmds := b.cmds.filter (fun c => c.ctx != ctx)
    cpls := b.cpls.filter (fun r => !((r.cmd.map mine).getD false))
    active := b.active.filter (fun id => !mine id)
    left := b.left ++ left }
  s.bump NS_BLK_STAT.PURGED gone.length

/-! ### Translation (R162, R164) -/

/-- The active command waits for the page of a virtual address. -/
def Slice.wantsPage (s : Slice) (c : Cmd) (va : Nat) : Bool :=
  match bMem c.desc with
  | none => false
  | some m =>
    c.checked && c.status.isNone && c.progress < s.bulkTotal c.desc &&
      (m + c.progress) / 4096 ≤ va / 4096 && va / 4096 ≤ (m + s.bulkTotal c.desc - 1) / 4096 &&
      !c.xlate.any (fun p => p.1 == va / 4096)

/-- The IOMMU maps a page. -/
def Slice.bulkMapped (s : Slice) (va pa : BitVec 64) : Slice :=
  match s.activeCmd with
  | none => s
  | some c =>
    if s.wantsPage c va.toNat then
      s.modCmd c.id fun c => { c with xlate := c.xlate ++ [(va.toNat / 4096, pa.toNat / 4096)] }
    else s

/-- The IOMMU faults: no line at or above the page's first line is issued, and the command ends once what is below it is done. -/
def Slice.bulkFault (s : Slice) (va : BitVec 64) : Slice :=
  match s.activeCmd with
  | none => s
  | some c =>
    if !s.wantsPage c va.toNat then s
    else
      let p := max c.progress (va.toNat / 4096 * 4096 - (bMem c.desc).getD 0)
      if (c.stopAt.map (fun q => decide (q ≤ p))).getD false then s
      else (s.modCmd c.id fun c => { c with stopAt := some p, faultVa := va }).bulkEnds

/-- The physical address of a translated virtual address. -/
def Cmd.paOf (c : Cmd) (va : Nat) : Option Nat :=
  (c.xlate.find? (fun p => p.1 == va / 4096)).map fun p => p.2 * 4096 + va % 4096

/-! ### Lines (R158, R162, R163, R175 to R186) -/

/-- A request that the command issues (R163, R478). -/
def Cmd.req (c : Cmd) : Req :=
  { Req.zero with cls := BitVec.ofNat 3 (bCLASS c.desc), ctx := c.ctx, gen := c.gen, reqid := c.reqid, srcdie := c.srcdie,
                  priv := c.priv, mask := fullMask }

/-- Its grant unit (R477). -/
def Slice.bulkJob (s : Slice) (c : Cmd) (key : LineKey) : Job :=
  { kind := .request, cls := bCLASS c.desc, master := c.reqid.toNat, born := s.now, slack := 0xFFF,
    est := .wr, key := key }

/-- A line the engine writes into the slice's own arrays counts in WRBYTES, one it reads from them in RDBYTES (R491). -/
def Slice.bulkWrote (s : Slice) (cls : Nat) : Slice :=
  if s.frozen then s else (s.count48 (NS_REG_WRBYTES.COUNT cls) (NS_REG_WRBYTES.OVF cls) 128).1

/-- A line delivered with poison (R177). The 32-bit counts of a record stop at their greatest value (DESIGN CHOICE, assumption 128). -/
def Slice.bulkPoison (s : Slice) (id : Nat) (pz : BitVec 12) : Slice :=
  if pz = 0 then s else s.modCmd id fun c => { c with poisonLn := min 0xFFFFFFFF (c.poisonLn + 1) }

/-- Write a whole vitrine line for a command; a quarantined one takes no write (R145). -/
def Slice.bulkPut (s : Slice) (c : Cmd) (vl : Nat) (d : LineData) (pz : BitVec 12) : Slice :=
  let s := s.checkSetTags (vl % 8192)
  if s.vtQuar vl then s else (s.vtPut vl d pz).bulkWrote (bCLASS c.desc)

/-- Read a vitrine line for a command. -/
def Slice.bulkGet (s : Slice) (c : Cmd) (vl : Nat) : Slice × LineData × BitVec 12 :=
  let (s, d, pz) := s.vtRead vl
  ((s.countDelivered (bCLASS c.desc)).bulkPoison c.id pz, d, pz)

/-- A line request of the command leaves on MO; a range invalidation is acknowledged by `tiles` tiles. -/
def Slice.bulkSend (s : Slice) (g : List (Nat × BitVec 8)) (c : Cmd) (die sl : Nat) (op : Op) (r : Req) (why : Why) (tiles : Nat := 0) :
    Slice :=
  s.emit g (s.route die sl op r why tiles) (s.bulkJob c (reqKey op r))

/-- Entry `i` of the handle table (R157), in a read of its line (R491). Of a poisoned, uninitialised or quarantined sector it is what a read
delivers, and nothing is counted for it (DESIGN CHOICE, assumption 141). -/
def Slice.handleEntry (s : Slice) (d : List Word) (i : Nat) : Slice × Nat :=
  let o := bDST d + 4 * i
  let (s, l, pz) := s.vtRead (o / 128)
  (s.countDelivered (bCLASS d), ((deliver l pz).extractLsb' (8 * (o % 128)) 32).toNat)

/-- Send the line at byte `o` of a scatter-reduce as an arrival (R10, R158). The handle names a slice, a group and a line of it: the model
sends every such arrival in the vitrine form, counts lines modulo 2^17 (DESIGN CHOICE, assumption 111), and takes no notice of bit 31 of a
handle, which R157 says is zero (DESIGN CHOICE, assumption 130). -/
def Slice.scatter (s : Slice) (g : List (Nat × BitVec 8)) (c : Cmd) (o : Nat) (d : LineData) (pz : BitVec 12) : Slice :=
  let (s, e) := s.handleEntry c.desc (o / bLEN c.desc)
  let h := e / 2 ^ 16 % 2 ^ 15
  let die := h / 4096
  let sl := h / 64 % 64
  let line := (e % 2 ^ 16 + o % bLEN c.desc / 128) % 2 ^ 17
  s.bulkSend g c die sl .redn { c.req with
    pa := BitVec.ofNat 52 (die * 2 ^ 30 + sl * 2 ^ 24 + line * 128), vsp := true, aux := 1, group := BitVec.ofNat 6 (h % 64),
    fmt := BitVec.ofNat 5 (bFMT c.desc), data := d, pois := poisBits pz, pcause := pz } (.bulkRed c.id o)

/-- Save vitrine line `vl` as image line `k` (R180, R182, R184, R186). -/
def Slice.saveLine (s : Slice) (g : List (Nat × BitVec 8)) (c : Cmd) (k vl : Nat) : Slice :=
  let l := s.imageLine c.desc k
  let set := setOf l
  let (s, d, pz) := s.vtRead vl
  let pz := (List.range 4).foldl (fun z i =>
    if causeAt z i = Cause.UNINIT && !(s.vtInit vl).testBit i then setCause z i 0 else z) pz
  let s := ((s.countDelivered (bCLASS c.desc)).bulkPoison c.id pz).closeLine (.pa l)
  let s := s.checkSetTags set
  let s := match s.lookup Use.L l with
    | none => s
    | some w =>
      let s := (s.storeBytes w set d fullMask pz).setTag w set (setSD (setSV (s.tag w set) 15) 0)
      let s := s.bulkWrote (bCLASS c.desc)
      s.dropLoans g w l none (s.bulkJob c (.pa l))
  s.memOp g { writeOp l 0xF d pz (.image c.id) (s.bulkJob c (.pa l)) true with
    ctx := c.ctx, gen := c.gen, hint := BitVec.ofNat 2 (bHINT c.desc) }

/-- An image line that was read reaches its vitrine line (R183, R600). What a resident copy holds comes from it (R180); one that an
uncorrectable error makes invalid holds nothing (R581). -/
def Slice.restoreLine (s : Slice) (g : List (Nat × BitVec 8)) (id vl : Nat) (l : LineAddr) (d : LineData) (pz : BitVec 12) : Slice :=
  match s.cmd? id with
  | none => s
  | some c =>
    let set := setOf l
    let s := s.access g l Use.L 15 (s.bulkJob c (.pa l))
    let (s, d, pz) := match s.lookup Use.L l with
      | none => (s, d, addCauses pz (s.lossOf 15))
      | some w =>
        let s := s.countDelivered (bCLASS c.desc)
        let sv := tagSV (s.tag w set)
        let have' := s.mem.poisonOf w set sv
        let z := addCauses pz (s.lossOf 15)
        (s, mergeLine d (s.mem.readLine w set) (sectorsMask sv),
          (List.range 4).foldl (fun z i => if sv.testBit i then setCause z i (causeAt have' i) else z) z)
    (s.bulkPut c vl d pz).bulkPoison id pz

/-- Read image line `k` for vitrine line `vl`, from a resident copy or from the channel (R180). From here on the line is written: no read
joins an open one (R148). -/
def Slice.restoreRead (s : Slice) (g : List (Nat × BitVec 8)) (c : Cmd) (k vl : Nat) : Slice :=
  let l := s.imageLine c.desc k
  let s := (s.closeLine (.vit (BitVec.ofNat 17 vl))).access g l Use.L 15 (s.bulkJob c (.pa l))
  let whole := match s.lookup Use.L l with
    | none => false
    | some w => tagSV (s.tag w (setOf l)) == 15
  if whole then s.restoreLine g c.id vl l 0 0
  else s.memOp g { readOp l (.restore c.id vl) (s.bulkJob c (.pa l)) true c.ctx c.gen with hint := BitVec.ofNat 2 (bHINT c.desc) }

/-- The vitrine line of snapshot line `k`. -/
def Slice.snapLine (s : Slice) (k : Nat) : Nat := s.vWays.getD (k / 8192) 0 * 8192 + k % 8192

/-- The lines of the slice that the command's next line accesses. -/
def Slice.bulkKeys (s : Slice) (c : Cmd) : List LineKey :=
  let d := c.desc
  let vit := fun (o : Nat) => LineKey.vit (BitVec.ofNat 17 (o / 128))
  if bOPC d = BOp.FILL || bOPC d = BOp.COPY then [vit ((if bOPC d = BOp.COPY && bDIR d then bSRC d else bDST d) + c.progress)]
  else if bOPC d = BOp.SNAPSHOT then
    let k := c.progress / 128
    [.vit (BitVec.ofNat 17 (s.snapLine k)), .pa (s.imageLine d k)]
  else if bOPC d = BOp.SCATTER then
    (if bDIR d then [] else [vit (bSRC d + c.progress)]) ++ [vit (bDST d + 4 * (c.progress / bLEN d))]
  else []

/-- Issue the line or page of the active command at its progress; `pa` is its physical address where it touches memory. -/
def Slice.bulkLine (s : Slice) (g : List (Nat × BitVec 8)) (c : Cmd) (pa : Nat) : Slice :=
  let d := c.desc
  let o := c.progress
  let l : LineAddr := BitVec.ofNat 45 (pa / 128)
  let home := s.homeOf l
  let mem : Req := { c.req with pa := paOfLine l, hint := BitVec.ofNat 2 (bHINT d) }
  let out := fun (s : Slice) => s.modCmd c.id fun c => { c with lines := c.lines ++ [o] }
  let writes := fun (s : Slice) => s.closeLine (.vit (BitVec.ofNat 17 ((bDST d + o) / 128)))
  if bOPC d = BOp.FILL then
    (writes s).bulkPut c ((bDST d + o) / 128) (lineOf (fun b => (d.getD 6 0).extractLsb' (8 * (b % 8)) 8) 128) 0
  else if bOPC d = BOp.COPY then
    if bDIR d then
      let (s, data, pz) := s.bulkGet c ((bSRC d + o) / 128)
      (out s).bulkSend g c home.1 home.2 .wr { mem with data := data, pois := poisBits pz, pcause := pz } (.bulkWr c.id o)
    else (writes (out s)).bulkSend g c home.1 home.2 .rd mem (.bulkRd c.id o)
  else if bOPC d = BOp.SNAPSHOT then
    let k := o / 128
    if bDIR d then s.restoreRead g c k (s.snapLine k) else s.saveLine g c k (s.snapLine k)
  else if bOPC d = BOp.SCATTER then
    if bDIR d then (out s).bulkSend g c home.1 home.2 .rd mem (.bulkRd c.id o)
    else
      let (s, data, pz) := s.bulkGet c ((bSRC d + o) / 128)
      (out s).scatter g c o data pz
  else
    -- a BINV page; a page that targets no tile any more sends nothing (R115)
    let m := s.bulkTiles d
    if m = 0 then s
    else
      let page := (bSRC d + o) / 4096
      let r : Req := { c.req with
        pa := BitVec.ofNat 52 (pa / 4096 * 4096), mask := m.extractLsb' 0 128,
        aux := BitVec.ofNat 64 ((m.extractLsb' 128 16).toNat + 12 * 2 ^ 16) }
      (s.modCmd c.id fun c => { c with tiles := c.tiles ++ [(page, m)] }).bulkSend g c s.die s.num .tinv r (.tinv c.id page)
        ((List.range 144).countP fun t => m.getLsbD t)

/-- The progress after the next line or page. -/
def Slice.bulkStep (s : Slice) (c : Cmd) : Nat :=
  if bOPC c.desc = BOp.BINV then
    min (s.bulkTotal c.desc) (((bSRC c.desc + c.progress) / 4096 + 1) * 4096 - bSRC c.desc)
  else c.progress + 128

/-- Issue the next line of the active command, of opcode `opc` and direction `dir` where they are given. -/
def Slice.bulkIssue (s : Slice) (g : List (Nat × BitVec 8)) (opc : Option Nat) (dir : Option Bool) : Slice :=
  match s.activeCmd with
  | none => s
  | some c =>
    let d := c.desc
    let pa := match bMem d with
      | none => some 0
      | some m => c.paOf (m + c.progress)
    match pa with
    | none => s
    | some pa =>
      if !s.bulkRuns || !c.checked || c.status.isSome || (opc.map (· != bOPC d)).getD false || (dir.map (· != bDIR d)).getD false ||
          min (s.bulkTotal d) (c.stopAt.getD (s.bulkTotal d)) ≤ c.progress || 128 ≤ s.bulkOut c ||
          (s.bulkKeys c).any s.lineWaits then s
      else
        let n := s.bulkStep c
        let s := (s.bulkLine g c pa).modCmd c.id fun c => { c with progress := n }
        let s := s.progShow.modMeas fun q => { q with retired := q.retired ||| 0x10 }
        let s := if bOPC d = BOp.BINV then s else s.ev Ev.BULK_LINE 1
        s.bulkEnds

/-! ### Answers to line requests (R172, R177, R178) -/

/-- The line at byte `o` of a command is done. -/
def Slice.bulkDone (s : Slice) (id o : Nat) : Slice := s.modCmd id fun c => { c with lines := c.lines.erase o }

/-- The data of a memory line the command read: a COPY writes it into the vitrine, a scatter-reduce sends it on. A read answered with
an error status delivers nothing. -/
def Slice.bulkReadDone (s : Slice) (g : List (Nat × BitVec 8)) (id o : Nat) (m : RepMsg) : Slice :=
  match s.cmd? id with
  | none => s
  | some c =>
    let pz := reqCauses m.pois m.pcause
    if m.status.toNat != Stat.ACK then s.bulkDone id o
    else if bOPC c.desc = BOp.COPY then
      ((s.bulkPut c ((bDST c.desc + o) / 128) m.data pz).bulkPoison id pz).bulkDone id o
    else (s.bulkPoison id pz).scatter g c o m.data pz

/-- The arrival of a scatter-reduce's line at byte `o` is answered; REJLN stops as POISONLN does (DESIGN CHOICE, assumption 128). -/
def Slice.bulkArrived (s : Slice) (id o status : Nat) : Slice :=
  (if status = Stat.ACK then s
   else s.modCmd id fun c => { c with rejLn := min 0xFFFFFFFF (c.rejLn + 1) }).bulkDone id o

/-- A tile acknowledges a page; true when the page awaits no tile any more (R112, R530). -/
def Slice.tileAck (s : Slice) (id page : Nat) (gone : BitVec 144) : Slice × Bool :=
  match s.cmd? id with
  | none => (s, true)
  | some c =>
    let left := (c.tiles.map fun p => if p.1 == page then (p.1, p.2 &&& ~~~gone) else p)
    (s.modCmd id fun c => { c with tiles := left.filter (fun p => p.2 != 0) }, !left.any (fun p => p.1 == page && p.2 != 0))

/-! ### Completion records (R171 to R174, R310) -/

/-- The record is written or dropped: the slot is free and the interrupt is raised. -/
def Slice.recordDone (s : Slice) (id : Nat) : Slice :=
  match s.bulk.cpls.find? (fun r => r.id == id) with
  | none => s
  | some r =>
    let s := s.modBulk fun b => { b with
      cpls := b.cpls.filter (fun q => q.id != id), cmds := b.cmds.filter (fun c => some c.id != r.cmd) }
    if r.irq then
      (s.setFld NS_BLK_STAT.CPLIRQ 1).irqSet (if r.group.isSome then NS_IRQ_STAT.GROUP else NS_IRQ_STAT.BULK)
    else s

/-- The line of a record's write: its four words in the sector of its address. -/
def Cpl.line (r : Cpl) (pa : BitVec 52) : LineData :=
  let v : LineData := ((List.range 4).zip r.words).foldl
    (fun (a : LineData) (p : Nat × Word) => a ||| ((p.2.setWidth 1024) <<< (64 * p.1))) 0
  v <<< (256 * (pa.toNat / 32 % 4))

/-- The next record that may be written: its page is at `cpl`, or faults. A record without an address is dropped, and so is one whose
page faults, which NS_BLK_CPLERR notes. -/
def Slice.writeRecord (s : Slice) (g : List (Nat × BitVec 8)) (cpl : Option (BitVec 52)) : Slice :=
  match s.bulk.cpls.find? (fun r => !r.sent && r.waits.all (fun l => s.invDue l == 0)) with
  | none => s
  | some r =>
    if !s.sys.sclkRuns then s
    else if r.cpladdr = 0 then s.recordDone r.id
    else match cpl with
      | none =>
        (((s.setFld NS_BLK_CPLERR.TAG r.tag).setFld NS_BLK_CPLERR.STATUS r.status).bump NS_BLK_CPLERR.COUNT 1).recordDone r.id
      | some p =>
        let pa : BitVec 52 := setBits p 0 12 (r.cpladdr.toNat % 4096)
        let l : LineAddr := pa.extractLsb' 7 45
        let home := s.homeOf l
        let q : Req := { Req.zero with
          pa := paOfLine l, mask := sectorMask (pa.toNat / 32 % 4), data := r.line pa, ctx := r.ctx, gen := r.gen,
          cls := BitVec.ofNat 3 r.cls, reqid := r.reqid, srcdie := r.srcdie, priv := r.priv }
        let job : Job := { kind := if r.group.isSome then .group else .request, cls := r.cls, master := r.reqid.toNat,
                           born := s.now, slack := 0xFFF, est := .wr, key := .pa l }
        let s := s.modBulk fun b => { b with cpls := replaceFirst (fun q => q.id == r.id) (fun q => { q with sent := true }) b.cpls }
        s.emit g (s.route home.1 home.2 .wr q (.record r.id)) job

end Sys2Proof.Machine
end

