-- ==== Sys2Proof/Machine/Order.lean ====
section
/-! DEFINITION. The home orders what it has accepted: a tracker for a request, the reads a change closes (R98), the contention predictor
(R369 to R374), and the requests of clusters (R379, R382, R383, R393, R394, R400). -/

namespace Sys2Proof.Machine

/-! ### Trackers -/

/-- Close the open reads of the lines a write, atomic or arrival touches (R98). -/
def Slice.closeReads (s : Slice) (t : Trk) : Slice :=
  if t.kind == .read || t.kind == .none || t.op == .flush then s
  else
    let ks := s.touches t
    s.modPort fun p => { p with trks := p.trks.map fun u =>
      if u.kind == .read && (s.touches u).any ks.contains then { u with closed := true } else u }

/-- A new tracker for an accepted request. -/
def Slice.openTrk (s : Slice) (op : Op) (r : Req) (stage : Stage) (cvt : Option (BitVec 5 × Nat)) : Slice × Trk :=
  let t : Trk := { id := s.port.nextId, kind := opTrk op, op := op, req := r, key := s.keyOf op r, stage := stage, born := s.now,
                   joined := [], way := none, loss := 0, miss := false, urgent := false, uninit := false, noAlloc := false,
                   closed := false, cl := none, cvt := cvt }
  (s.modPort fun p => { p with trks := p.trks ++ [t], nextId := p.nextId + 1 }, t)

/-! ### Requests of clusters -/

/-- The identity of a cluster (R504). -/
def clusterId (m : ClMsg) : Nat := 144 + m.cluster.toNat

/-- The requester field of a cluster's credit. -/
def clPa (m : ClMsg) : BitVec 52 := paOfLine m.line

/-- The cluster is the line's owner and has not answered a snoop of it with WBP (R394). -/
def Slice.ownerNow (s : Slice) (m : ClMsg) : Bool :=
  (match s.findEnt m.line with
   | some (_, d) => d.state == Dir.X && d.owner == m.cluster.toNat
   | none => false) &&
  (match s.txn? m.line with
   | some t => !bitAt t.wbp m.cluster.toNat
   | none => true)

/-- The answer to a cluster's request that was accepted in cycle `born` (R474). -/
def Slice.clAnswer (s : Slice) (g : List (Nat × BitVec 8)) (m : ClMsg) (n : LwName) (born : Nat) : Slice :=
  s.sendLW g (lwMsg n m.cluster.toNat m.line) { s.clJob m.cluster.toNat m.line with born := born }

/-- A request of a dead cluster is refused (R407): `f` carries on. -/
def Slice.clAlive (s : Slice) (g : List (Nat × BitVec 8)) (m : ClMsg) (born : Nat) (f : Slice → Slice) : Slice :=
  if s.dead m.cluster.toNat then (s.bump NS_DIR_EVT2.NACKDEAD 1).clAnswer g m .nackDead born else f s

/-- A request of a live cluster for a line of another home, or for a withdrawn line, is recorded and nothing is sent (R30, R567). -/
def Slice.clLive (s : Slice) (g : List (Nat × BitVec 8)) (m : ClMsg) (born : Nat) (f : Slice → Slice) : Slice :=
  s.clAlive g m born fun s =>
  if !s.isHost m.line || !s.homes m.line || s.withdrawn m.line then
    s.err { code := ErrCode.NOT_HOME, src := 0, priv := 0, opc := 0, who := clusterId m, srcdie := 0, ctx := 0, gen := 0,
            detail := linePA m.line }
  else f s

/-! ### ATOM (R369 to R374, R384) -/

/-- The predictor entry of a line: PA[20:12] ⊕ PA[29:21] ⊕ PA[38:30] ⊕ PA[47:39] (R370). -/
def predIx (l : LineAddr) : Nat :=
  let n := linePA l / 4096
  Nat.xor (n % 512) (Nat.xor (n / 2 ^ 9 % 512) (Nat.xor (n / 2 ^ 18 % 512) (n / 2 ^ 27 % 512)))

def Slice.predAt (s : Slice) (l : LineAddr) : Nat := (Sparse.get (fun _ => 0) s.mem.pred (predIx l)).toNat

/-- The ATOM is in conflict (R371). -/
def Slice.atomConflict (s : Slice) (m : ClMsg) : Bool :=
  let c := m.cluster.toNat
  match s.findEnt m.line with
  | some (_, d) => d.sharers &&& ~~~(oneCluster c) != 0 || (d.lastupd != c && d.lastupd != 63)
  | none => false

/-- The counter after the ATOM (R372). -/
def Slice.predNext (s : Slice) (m : ClMsg) : Nat :=
  if s.atomConflict m then min 7 (s.predAt m.line + 2) else s.predAt m.line - 1

/-- The line's owner is the cluster itself (R384). -/
def Slice.ownAtom (s : Slice) (m : ClMsg) : Bool :=
  match s.findEnt m.line with
  | some (_, d) => d.state == Dir.X && d.owner == m.cluster.toNat
  | none => false

/-- The ATOM runs near (R372, R384). -/
def Slice.atomNear (s : Slice) (m : ClMsg) : Bool :=
  s.ownAtom m ||
  match s.fld NS_UU_CTL.HMODE with
  | 1 => true
  | 2 => false
  | _ => s.fld NS_UU_CTL.NEARTH ≤ s.predNext m

/-- The request a near ATOM is served as. -/
def clAtomReq (m : ClMsg) (a : ClAtom) : Req :=
  { Req.zero with
    mask := a.mask, reqid := BitVec.ofNat 8 (clusterId m), pa := BitVec.ofNat 52 (linePA m.line + a.offset.toNat), fmt := a.fmt,
    data := a.data }

/-- The home orders an ATOM; one that has waited takes its place in the order of acceptance, `id`, and one that has used its credit keeps the
resource that this had reserved, `res`, until it takes it (R399). -/
def Slice.orderAtom (s : Slice) (g : List (Nat × BitVec 8)) (m : ClMsg) (a : ClAtom) (born : Nat) (id : Option Nat) (res : Option CRes)
    : Slice :=
  let near := s.atomNear m
  let own := s.ownAtom m
  let s := s.modMem fun q => { q with pred := Sparse.set (fun _ => 0) q.pred (predIx m.line) (BitVec.ofNat 3 (s.predNext m)) }
  if near then
    let s := s.bump NS_UU_EVT.NEAR 1
    let s := if own then s.setFld NS_DIR_STAT.PROTERR 1 else s
    let (s, t) := s.openTrk (.atom a.op a.posted) (clAtomReq m a) .coh none
    let n := id.getD t.id
    let s := s.modTrk t.id fun u => { u with id := n, cl := some m.cluster, born := born, res := res }
    (s.closeReads t).order g m.line (.tracker n) .near born
  else
    let s := (s.bump NS_UU_EVT.FAR 1).ev Ev.ATOM_FAR 1
    s.order g m.line (.cluster m.cluster.toNat) .far born

/-! ### Ordering a request (R379, R382, R383, R393, R394, R400) -/

/-- The home orders an accepted request. An ATOM that R358 to R360 refuse changes nothing and is counted and recorded (R364); the LCL has no
message for it. -/
def Slice.clStart (s : Slice) (g : List (Nat × BitVec 8)) (b : BridgeMsg) (born : Nat) (id : Option Nat := none)
    (res : Option CRes := none) : Slice :=
  let m := b.cl
  let who : TxnWho := .cluster m.cluster.toNat
  let evcGo := fun (s : Slice) => s.clAnswer g m .evcGo born
  match b with
  | .req _ .wb =>
    if s.ownerNow m then s.order g m.line who .wb born else s.clAnswer g m .wbStale born
  | .req _ kind => s.order g m.line who kind born
  | .evc _ =>
    match (if s.ownerNow m then s.findEnt m.line else none) with
    | some (e, d) => evcGo (s.putEnt (setOf m.line) e { d with state := 0, owner := 0, sharers := 0, busy := false })
    | none => evcGo s
  | .atom _ a =>
    if !atomOk a.op a.offset.toNat a.mask a.fmt.toNat then
      (s.bump NS_UU_EVT.REFUSED 1).errReq ErrCode.BAD_ATOM (.atom a.op a.posted) (clAtomReq m a)
    else s.orderAtom g m a born id res
  | _ => s

/-- The request needs an entry of the directory set. -/
def BridgeMsg.entry : BridgeMsg → Bool
  | .req _ .wb | .evc _ => false
  | _ => true

/-- The home cannot order a request now: its line is busy, or all eight entries of its set are. -/
def Slice.clHeld (s : Slice) (b : BridgeMsg) : Bool :=
  let l := b.cl.line
  s.lineBusy l || (b.entry && s.dirSetBusy l)

/-- The first request that waits to be ordered and can be now, with its place: earlier accesses to its line are applied. -/
def Slice.waiterReady (s : Slice) : Option (Nat × Waiter) :=
  ((List.range s.coh.waiters.length).zip s.coh.waiters).find? fun p =>
    let l := p.2.msg.cl.line
    !s.clHeld p.2.msg && !s.lineMoves l && !s.rawAhead (setOf l) p.2.since &&
      !s.port.trks.any (fun t => t.key == .pa l && t.id < p.2.since && t.stage != .done && t.stage != .loanAck) &&
      !(s.coh.waiters.take p.1).any (fun w => w.msg.cl.line == l)

/-- The requests that wait read their directory sets (R378, R597). -/
def Slice.readWaiters (s : Slice) : Slice := s.coh.waiters.foldl (fun s w => s.readSet (setOf w.msg.cl.line) w.since) s

/-- Order what has waited, oldest first: what was accepted goes on, also where its line has been withdrawn meanwhile (R574). -/
def Slice.orderWaiters (s : Slice) (g : List (Nat × BitVec 8)) (fuel : Nat) : Slice :=
  match fuel, s.waiterReady with
  | fuel + 1, some (i, w) =>
    let s := s.modCoh fun q => { q with waiters := q.waiters.eraseIdx i }
    (s.clAlive g w.msg.cl w.born fun s => (s.readDir g w.msg.cl.line).clStart g w.msg w.born (some w.since) w.res).orderWaiters g fuel
  | _, _ => s

end Sys2Proof.Machine
end

