-- ==== Sys2Proof/Machine/Verdict.lean ====
section
/-! DEFINITION. The judgment of R759: what becomes of an accepted request before it is served. -/

namespace Sys2Proof.Machine

/-- What R759 makes of an accepted request. -/
inductive Verdict where
  | stale
  | error (status : Nat) (code : Option Nat)
  | pass
  deriving DecidableEq, Repr

/-- A request of these opcodes is never stale (R618). -/
def neverStale (op : Op) : Bool := op == .pxrd || op == .pxwr || op == .tinv

/-- The request's generation is not its context's (R616). -/
def isStale (g : List (Nat × BitVec 8)) (op : Op) (r : Req) : Bool := !neverStale op && genOf g r.ctx != r.gen

/-- The NS_READY bits a request needs (R644, R645). What an exit slice forwards needs the function it has as exit slice alone. -/
def Slice.needs (s : Slice) (op : Op) (r : Req) : List Fld :=
  let atomic := match op with
    | .atom _ _ => true
    | _ => false
  if s.place op r != .here then [NS_READY.CACHE]
  else if op == .grpctl then [NS_READY.REDUCE]
  else if op == .redc || op == .redn then (if r.vsp then [NS_READY.REDUCE] else [NS_READY.REDUCE, NS_READY.CACHE])
  else if atomic && r.vsp then [NS_READY.UPDATE, NS_READY.VITRINE]
  else if op.isVt || op == .cmdwr then [NS_READY.VITRINE]
  else match op with
    | .fence | .sealwr | .accinc | .crd | .cwr | .pxrd | .pxwr => [NS_READY.CACHE]
    | _ => if s.isHost r.line then [NS_READY.HOSTCOH] else if atomic then [NS_READY.UPDATE] else [NS_READY.CACHE]

/-- The steps of R759. -/
def Slice.verdict (s : Slice) (g : List (Nat × BitVec 8)) (op : Op) (r : Req) : Verdict :=
  let vt := Req.vt op r || op == .cmdwr || op == .grpctl
  let free := op == .fence || op == .sealwr || op == .accinc
  if isStale g op r then .stale
  else match op with
    | .tinv | .other _ => .error Stat.BAD_OPC (some ErrCode.BAD_OPC)
    | _ =>
      if !free && r.via == .mq && r.odd != pipeOf op r then .error Stat.BAD_OPC (some ErrCode.BAD_OPC)
      else if vt && r.pa.toNat / 2 ^ 33 != 0 then .error Stat.VT_RANGE (some ErrCode.VT_RANGE)
      else if s.place op r == .nowhere then .error Stat.NOT_HOME (some ErrCode.NOT_HOME)
      else if op == .cmdwr && (r.pa.toNat % 2 ^ 24 != 0 || r.mask != fullMask) then .error Stat.BAD_CMD (some ErrCode.BAD_CMD)
      else if (isCvt op || op == .redc || op == .redn) && !fmtFieldOk r.fmt.toNat then
        .error Stat.BAD_FMT (some ErrCode.BAD_FMT)
      else if (op == .redc || op == .redn) && arrK r = 0 then .error Stat.BAD_OPC (some ErrCode.BAD_OPC)
      else if !(s.needs op r).all s.flag then .error Stat.NOT_READY none
      else .pass

/-- R185, R274 or R283 holds a request here. An arrival that is delivered to the wrong slice is held by the group its header names (R519). -/
def Slice.holdsReq (s : Slice) (op : Op) (r : Req) (cvt : Option (BitVec 5 × Nat)) : Bool :=
  (s.place op r == .here || ((op == .redc || op == .redn) && s.place op r == .nowhere)) && s.onHold op r cvt

/-- What a request accepted in cycle `born` that R759 answers with an error status leaves beside its reply (R364, R455, R519). -/
def Slice.errorNoted (s : Slice) (g : List (Nat × BitVec 8)) (op : Op) (r : Req) (born status : Nat) (code : Option Nat) : Slice :=
  let s := match code with
    | some c => s.errReq c op r
    | none => s
  let s := match op with
    | .atom _ _ => if status = Stat.NOT_READY then s.bump NS_UU_EVT.REFUSED 1 else s
    | .cntwr => if s.homes r.line then s.sendIncrement g r born true else s
    | _ => s
  if status = Stat.BAD_FMT && isCvt op then s.cvtRefuse status else s

/-- An accepted request that R759 answers with an error status; it holds its tracker until the reply leaves (R519). -/
def Slice.acceptError (s : Slice) (g : List (Nat × BitVec 8)) (op : Op) (r : Req) (status : Nat) (code : Option Nat) : Slice :=
  let s := s.errorNoted g op r s.now status code
  if opTrk op == .none then s.reply g (s.statusBeat op r none s.now status 0)
  else
    let (s, t) := s.openTrk op r .done none
    s.reply g (s.statusBeat op r (some t.id) s.now status 0)

/-- What a stale request counts (R458, R616, R669). -/
def Slice.staleNoted (s : Slice) (op : Op) (r : Req) : Slice :=
  let s := (s.bump NS_RC_STALE.REQ 1).ev Ev.STALE 1
  if op == .accinc && s.place op r == .here then (s.countReceived).bump NS_ACCN_EVT.STALEINC 1 else s

/-- A stale request is dropped; its tracker is free in the cycle after its acceptance (R519). -/
def Slice.acceptStale (s : Slice) (op : Op) (r : Req) : Slice :=
  let s := s.staleNoted op r
  if opTrk op == .none then s
  else
    let (s, t) := s.openTrk op r .stale none
    s.modTrk t.id fun u => { u with key := .none, closed := true }

/-- A credited resend whose hold has ended is judged as if accepted now (R519): one that is to be served takes its place in the order of
acceptance now. -/
def Slice.judgeAnew (s : Slice) (g : List (Nat × BitVec 8)) (t : Trk) : Slice × Option Trk :=
  match s.verdict g t.op t.req with
  | .pass =>
    let u := { t with id := s.port.nextId, anew := false, cvt := if isCvt t.op then s.cvtWindow t.op t.req else none }
    let s := s.modPort fun p => { p with trks := p.trks.filter (fun v => v.id != t.id) ++ [u], nextId := p.nextId + 1 }
    (s.closeReads u, some u)
  | .stale => ((s.staleNoted t.op t.req).modTrk t.id fun u => { u with stage := .stale, key := .none, closed := true }, none)
  | .error st code =>
    (((s.errorNoted g t.op t.req t.born st code).setStage t.id .done).reply g (s.statusBeat t.op t.req (some t.id) t.born st 0), none)

end Sys2Proof.Machine
end

