-- ==== Sys2Proof/Machine/Flow.lean ====
section
/-! DEFINITION. How accepted work moves on: a request is served once nothing holds it, a tracker continues when what it waited for has
arrived, and credits are granted as resources free (R119, R148, R274, R399, R519, R627). -/

namespace Sys2Proof.Machine

/-! ### Requests without a tracker -/

/-- An accepted command write takes a slot and is answered (R151, R152). -/
def Slice.takeCmd (s : Slice) (g : List (Nat × BitVec 8)) (r : Req) (born : Nat) : Slice :=
  let d := descOf r.data
  let c : Cmd := { id := s.bulk.nextCmd, born := born, desc := d, ctx := r.ctx, gen := r.gen, priv := r.priv, reqid := r.reqid,
                   srcdie := r.srcdie, progress := descBits d 4 0 40, checked := false, status := none, faultVa := 0, poisonLn := 0, rejLn :=
                     0,
                   lines := [], stopAt := none, xlate := [], tiles := [] }
  let s := s.modBulk fun b => { b with cmds := b.cmds ++ [c], nextCmd := b.nextCmd + 1 }
  s.reply g (s.statusBeat .cmdwr r none born Stat.ACK 0)

/-- A request that holds no tracker is carried out at its slice (R152, R265, R440, R456, R458). -/
def Slice.serveFree (s : Slice) (g : List (Nat × BitVec 8)) (t : Trk) : Slice :=
  let s := s.modPort fun p => { p with trks := p.trks.filter (fun u => u.id != t.id) }
  let r := t.req
  match t.op with
  | .fence => s.fenceSweep g r t.born
  | .sealwr => s.sealWrite g r t.born t.id
  | .accinc => ((s.countReceived).increment g r).reply g (s.statusBeat .accinc r none t.born Stat.ACK 0)
  | .cmdwr => s.takeCmd g r t.born
  | .grpctl => s.grpCommand g { staged := false, req := r, born := t.born, ord := t.id }
  | _ => s

/-! ### Serving -/

/-- A converting request is checked first (R323): `f` serves it. -/
def Slice.cvtGate (s : Slice) (g : List (Nat × BitVec 8)) (t : Trk) (f : Slice → Slice) : Slice :=
  let c := s.cvtCheck t.op t.req t.cvt
  if c != 0 then (s.cvtRefuse c).refuse g t c else f s

/-- An addressed converting write becomes the plain write it stores as (R334, R340, R344). -/
def Slice.serveConvert (s : Slice) (g : List (Nat × BitVec 8)) (t : Trk) : Slice :=
  let (r, fl) := cvtStored t
  let t := { t with op := .wr, req := r }
  (((s.fpFlags fl).bump NS_FP_EVT.CVTWR 1).modTrk t.id fun u => { u with op := .wr, req := r }).serveWrite g t (s.useOf r.line)

/-- An atomic is checked (R358 to R360, R364) and served. -/
def Slice.serveAtomic (s : Slice) (g : List (Nat × BitVec 8)) (t : Trk) (a : AOp) : Slice :=
  let r := t.req
  if t.stage == .queued && !atomOk a r.off r.mask r.fmt.toNat then s.refuseAtom g t Stat.BAD_ATOM
  else if r.vsp then s.serveVtAtom g t a
  else if t.stage == .queued && s.grpMarked r.line then s.refuseAtom g t Stat.BAD_TARGET
  else match s.coherent g t with
    | (s, true) => s.serveAtom g t a (s.useOf r.line)
    | (s, false) => s

/-- Serve a request at the slice that serves its line. -/
def Slice.serveHere (s : Slice) (g : List (Nat × BitVec 8)) (t : Trk) : Slice :=
  match t.op with
  | .rd | .rdc | .rdacq =>
    match s.coherent g t with
    | (s, true) => s.serveRead g t (s.useOf t.req.line)
    | (s, false) => s
  | .crd => if t.stage == .queued then s.cvtGate g t fun s => s.serveRead g t (s.useOf t.req.line)
      else s.serveRead g t (s.useOf t.req.line)
  | .wr | .wrrel | .cntwr =>
    match s.coherent g t with
    | (s, true) => s.serveWrite g t (s.useOf t.req.line)
    | (s, false) => s
  | .cwr => s.cvtGate g t fun s => s.serveConvert g t
  | .flush => s.serveFlush g t (s.useOf t.req.line)
  | .vrd => s.serveVtRead g t
  | .vcrd => s.cvtGate g t fun s => s.serveVtRead g t
  | .vwr => s.serveVtWrite g t
  | .vcwr => s.cvtGate g t fun s => s.serveVtConvert g t
  | .redc | .redn => s.judge g t
  | .pxrd | .pxwr => s.serveProxy g t
  | .atom a _ => s.serveAtomic g t a
  | .fence | .sealwr | .accinc | .cmdwr | .grpctl | .tinv | .other _ => s.serveFree g t

/-- Serve a request here or as exit slice. A line withdrawn since its acceptance is still served (R30 is judged at acceptance). -/
def Slice.serveTrk (s : Slice) (g : List (Nat × BitVec 8)) (t : Trk) : Slice :=
  match s.place t.op t.req with
  | .exit d => s.serveExit g t d
  | .here | .nowhere => s.serveHere g t

/-! ### Moving on -/

/-- An arrival is judged after those its slice accepted before it for the same group, and after the group's commands accepted before it that
wait (R278), an OPEN up to its end (R274). -/
def Slice.arrivalWaits (s : Slice) (t : Trk) : Bool :=
  let n := t.req.group.toNat
  t.kind == .red && t.stage == .queued && !t.anew && (
    s.port.trks.any (fun u => u.id < t.id && u.kind == .red && u.stage == .queued && !u.anew && u.req.group == t.req.group) ||
    (s.grpHeld.any (fun a => a.req.group == t.req.group && decide (a.ord < t.id)) && !s.beforeClose n t) ||
    (s.grpState n == GSt.OPENING && !s.beforeOpen n t))

/-- The line's place is being quarantined: the line leaves, and what has not begun to use it waits (R592). -/
def Slice.quarAhead (s : Slice) (l : LineAddr) : Bool :=
  s.walk.quar.any fun p => p.2 == setOf l && tagSV (s.tag p.1 p.2) != 0 && tagTAG (s.tag p.1 p.2) == l

/-- A request that waits to be served is held back (R119, R148, R278, R627), also while its line comes or leaves with no request (R63). The
holds of R185, R274 and R283 are answered at acceptance: what was accepted before one began goes on, and only a credited resend that met
one waits for its end (R519). -/
def Slice.heldBack (s : Slice) (t : Trk) : Bool :=
  s.blocked t || s.arrivalWaits t || ((match t.key with
    | .pa l => s.lineMoves l || (t.stage == .queued && s.quarAhead l)
    | _ => false)) || (t.stage == .queued && s.purgeWait t.req) || (t.anew && s.holdsReq t.op t.req t.cvt)

/-- The loan invalidations a tracker waited for are confirmed (R40 to R42). -/
def Slice.loansDone (s : Slice) (g : List (Nat × BitVec 8)) (t : Trk) : Slice :=
  match t.op with
  | .rd | .rdc | .rdacq => s.sendLine g t t.req.data t.req.pcause
  | .atom _ _ => s.ackAtom g t
  | _ => s.ackWrite g t

/-- The channel has accepted a tracker's data (R116). -/
def Slice.drained (s : Slice) (g : List (Nat × BitVec 8)) (t : Trk) : Slice :=
  match t.op with
  | .flush => s.ackFlush g t
  | .atom _ _ => s.atomAfterLoans g t
  | _ => s.ackAfterLoans g t

/-- A tracker fetches its line when its victim has gone (R70, R298). -/
def Slice.victimFill (s : Slice) (t : Trk) : Bool :=
  match t.op with
  | .wr | .wrrel | .cntwr | .cwr => touched t.req.mask &&& (15 - covered t.req.mask) != 0
  | .redc | .redn => ((s.grp? t.req.group.toNat).map (fun p => gPRELOAD p.desc)).getD false
  | _ => true

/-- A tracker whose victim was to leave: a victim that has been lent again meanwhile is invalidated again (R40, R84), a dirty one is
written back (R83), and with the victim gone the tracker fetches or claims its line. -/
def Slice.victimStep (s : Slice) (g : List (Nat × BitVec 8)) (t : Trk) (w : Nat) : Slice :=
  let l := t.req.line
  let set := setOf l
  let use := s.useOf l
  let old := tagTAG (s.tag w set)
  let v := s.mem.loanAt w set
  if s.evicting w set || (use == Use.L && s.invDue old != 0) then s
  else if use == Use.L && v != 0 then s.invStart g old v (s.trkJob t)
  else
    let s := if s.needsWriteback use w set && s.trkFree .write then s.startEvict g w set (s.trkJob t) false else s
    if s.evicting w set || s.needsWriteback use w set then s else s.victimReady g t l use (s.victimFill t)

/-- Carry one tracker on as far as it can go now. -/
def Slice.advanceTrk (s : Slice) (g : List (Nat × BitVec 8)) (id : Nat) : Slice :=
  match s.trk? id with
  | none => s
  | some t =>
    match t.stage with
    | .queued | .ready =>
      if s.heldBack t then s
      else if t.anew then
        match s.judgeAnew g t with
        | (s, some u) => if s.heldBack u then s else s.serveTrk g u
        | (s, none) => s
      else s.serveTrk g t
    | .combine =>
      if s.blocked t then s
      else if s.joined t then s.callLoans g t
      else if s.lineMoves t.req.line || s.quarAhead t.req.line then s else s.joinLine g t
    | .fwdWait => s.serveTrk g t
    | .loanAck => if s.invDue t.req.line = 0 then s.loansDone g t else s
    | .drain => if s.chan.ops.any (fun o => o.why == .trk id) then s else s.drained g t
    | .victim =>
      match t.way with
      | none => s
      | some w =>
        let s := s.victimStep g t w
        match s.trk? id with
        | some u => if u.stage == .ready && u.kind == .red then s.setStage id .combine else s
        | none => s
    | .fill | .coh | .fwd | .done | .stale => s

/-- The request a point grants next, of those it has not looked at in this pass (R475). -/
def Slice.nextAt (s : Slice) (p : Point) (tried : List Nat) : Option Trk :=
  let ts := s.port.trks.filter fun t => t.point == some p && !tried.contains t.id
  (s.choose p.num (ts.map fun t => (s.trkJob t, !s.heldBack t))).bind (ts[·]?)

/-- Everything that waits at neither point, in the order of acceptance. -/
def Slice.servePlain (s : Slice) (g : List (Nat × BitVec 8)) : Slice :=
  s.port.trks.foldl (fun s t => if t.point.isNone then s.advanceTrk g t.id else s) s

/-- Serve everything that can be served: the array write port and the update unit grant one request after another. -/
def Slice.serveLoop (s : Slice) (g : List (Nat × BitVec 8)) : Nat → List Nat → Slice
  | 0, _ => s
  | n + 1, tried =>
    let s := s.servePlain g
    match (s.nextAt .arrayWrite tried).or (s.nextAt .update tried) with
    | none => s
    | some t => (s.advanceTrk g t.id).serveLoop g n (t.id :: tried)

/-- Every tracker once. -/
def Slice.servePass (s : Slice) (g : List (Nat × BitVec 8)) : Slice := s.serveLoop g (s.port.trks.length + 1) []

/-- Let everything move that can: transactions, requests of clusters, trackers, fence sweeps, ABORTs that waited, bulk commands that are
over, upkeep, and the grant of credits. -/
def Slice.settle (s : Slice) (g : List (Nat × BitVec 8)) : Slice :=
  let round := fun (s : Slice) => ((s.evictEnds.killsEnd.advanceAll g).readWaiters.orderWaiters g 64).servePass g
  (((((((round (round (round s))).sweepsDone g).abortsDue g).grpResume g).closeLoans g).bulkEnds).maint g).grantCredits g

/-! ### Data that arrives for a tracker (R68, R70, R88, R106, R367) -/

/-- A request that goes on from a way of its own: an arrival waits to be combined, a write or an atomic for its grant (R475), and a read is
served at once. -/
def Slice.resume (s : Slice) (g : List (Nat × BitVec 8)) (t : Trk) : Slice :=
  match t.op with
  | .redc | .redn => s.setStage t.id .combine
  | _ =>
    let s := s.setStage t.id .ready
    if ({ t with stage := .ready } : Trk).point.isSome then s else s.advanceTrk g t.id

/-- The data of a tracker's line has arrived from memory. -/
def Slice.fillArrived (s : Slice) (g : List (Nat × BitVec 8)) (id : Nat) (d : LineData) (pz : BitVec 12) : Slice :=
  match s.trk? id with
  | none => s
  | some t =>
    if t.stage != .fill then s
    else
      let set := setOf t.req.line
      match t.way with
      | some w =>
        let loss := s.lossOf (15 - tagSV (s.tag w set))
        let s := s.urgentCount (s.trkJob t)
        ((s.fillWay w set d pz).modTrk id fun u => { u with loss := loss }).resume g t
      | none =>
        match t.op with
        | .pxrd => s.sendData g t 0 [(d, pz)]
        | .pxwr | .wr | .wrrel | .cntwr =>
          let (nd, nz, lost) := mergePoisoned d pz t.req.data t.req.mask (reqCauses t.req.pois t.req.pcause) t.converted
          let s := if lost then s.bump NS_ECC_EVT2.POISWR 1 else s
          s.writeMemory g t nd nz
        | .atom a _ => s.atomMemory g { t with loss := s.lossOf 15 } a d pz
        | _ => s.sendFree g t d (addCauses pz (s.lossOf 15))

end Sys2Proof.Machine
end

