-- ==== Sys2Proof/Machine/RegView.lean ====
section
/-! DEFINITION. Register accesses up to their effect: the word a register reads as, the privilege an access needs (R721), the field
behaviour of R15 and R723 to R729, and the rules by which a register ignores a write (R726). -/

namespace Sys2Proof.Machine

/-! ### Registers that show other state -/

/-- Put a value into a field of a word. -/
def putFld (w : Word) (f : Fld) (v : Nat) : Word := setBits w f.lo f.w v

/-- A region is in use (R135); only an enabled one covers granules (R132). -/
def Slice.regionBusy (s : Slice) (n : Nat) : Bool :=
  s.flag (NS_VT_REGION.EN n) &&
  let a := s.fld (NS_VT_REGION.BASE n) * 4096
  let z := (s.fld (NS_VT_REGION.LIMIT n) + 1) * 4096
  let hits := fun (r : Nat × Nat) => overlap a (z - a) r.1 r.2
  (s.bulk.cmds.any (fun c => (bVt c.desc).any hits) || s.grps.any (fun p => (s.gRanges p.desc).any hits))

/-- NS_BLK_STAT (R190). -/
def Slice.blkStat (s : Slice) (w : Word) : Word :=
  let act := s.activeCmd
  let w := putFld w NS_BLK_STAT.ACTOPC ((act.map fun c => bOPC c.desc).getD 0)
  let w := putFld w NS_BLK_STAT.QDEPTH s.bulk.cmds.length
  let w := putFld w NS_BLK_STAT.PAUSED (b2n (s.flag NS_BLK_CTL.PAUSE && s.bulkStill))
  let w := putFld w NS_BLK_STAT.HOLDING (b2n s.snapHold)
  let w := putFld w NS_BLK_STAT.URGACT (b2n ((act.map fun c => bURG c.desc).getD false))
  putFld w NS_BLK_STAT.ACTIVE (b2n act.isSome)

/-- Directory entries not in I (R417). -/
def Slice.dirEntries (s : Slice) : Nat :=
  (((s.mem.dir.map fun p => p.1 / 2).dedup).filter fun i => (s.mem.ent (i / 8) (i % 8)).state != 0).length

/-- The word a register of the slice reads as; what it shows of the generation table and the provenance log is put in by
`State.view`. -/
def Slice.view (s : Slice) (off : Nat) : Word :=
  let w := s.rd off
  if off = Reg.NS_BLK_STAT then s.blkStat w
  else if 0x2200 ≤ off && off < 0x2400 then
    let n := (off - 0x2200) / 8
    putFld w (NS_VT_REGION.BUSY n) (b2n (s.regionBusy n))
  else if off = Reg.NS_GRP_OPENMASK then BitVec.ofNat 64 (s.grps.foldl (fun n p => n + 2 ^ p.num) 0)
  else if off = Reg.NS_BALANCE then putFld w NS_BALANCE.VALID (b2n (s.flag NS_BALANCE.VALID && s.balanceDue))
  else if off = Reg.NS_CH_STAT then putFld w NS_CH_STAT.HELD s.heldReqs
  else if off = Reg.NS_ECC_STAT then
    putFld w NS_ECC_STAT.SCRUBON (b2n (s.fld NS_ECC_CTL.SCRUBINT != 0 && s.sys.sclkRuns))
  else if off = Reg.NS_ECC_QUAR then
    putFld w NS_ECC_QUAR.QCOUNT ((s.mem.tags.filter fun p => tagQUAR p.2).length)
  else if off = Reg.NS_DIR_STAT then putFld w NS_DIR_STAT.ENTRIES s.dirEntries
  else if off = Reg.NS_RC_BLK then putFld w NS_RC_BLK.IDLE (b2n (s.flag NS_RC_BLK.IDLEREQ && s.quiescent))
  else w

/-- The word of NS_PV_HEAD0 to 3 (R696, R718). -/
def PvEntry.word (e : PvEntry) (i : Nat) : Word :=
  match i with
  | 0 => e.stamp
  | 1 => e.old
  | 2 => e.new
  | _ => setBits (setBits (setBits (setBits (setBits 0 32 32 e.seq.toNat) 29 3 e.kind.toNat) 27 2 e.priv.toNat) 19 8
      e.origin.toNat) 0 16 e.offset.toNat

/-- The word a register reads as. -/
def State.view (s : State) (off : Nat) : Word :=
  let w := s.sl.view off
  if off = Reg.NS_RC_GEN then
    putFld w NS_RC_GEN.GEN (genOf s.gentab (BitVec.ofNat 12 (s.sl.fld NS_RC_GEN.CTX))).toNat
  else if off = Reg.NS_PV_STAT then
    putFld (putFld w NS_PV_STAT.SEQNEXT s.prov.seqNext.toNat) NS_PV_STAT.HELD s.prov.held.length
  else if off = Reg.NS_PV_LOST then putFld w NS_PV_LOST.LOST s.prov.lost.toNat
  else if 0xB040 ≤ off && off < 0xB060 then
    match s.prov.held with
    | [] => 0
    | e :: _ => e.word ((off - 0xB040) / 8)
  else w

/-! ### Judging an access (R720, R721) -/

/-- PRIV: 0 user, 1 supervisor, 2 firmware, 3 debug. -/
abbrev Priv.user : Nat := 0
abbrev Priv.sup : Nat := 1
abbrev Priv.fw : Nat := 2

/-- The lowest privilege for a page. -/
def pagePriv (page : Nat) (write : Bool) : Nat :=
  if page = 12 then Priv.fw
  else if write && (page = 1 || page = 5 || page = 7 || page = 8 || page = 9 || page = 11) then Priv.fw
  else Priv.sup

/-- The data of a write in its place in the register (R14): a 32-bit access carries it in the low half. -/
def ctWord (a : CtAcc) : Word := if a.half then (if a.upper then a.data <<< 32 else a.data &&& 0xFFFFFFFF) else a.data

/-- The bits an access touches (R723). -/
def ctMask (a : CtAcc) : Word :=
  if a.half then (if a.upper then (0xFFFFFFFF : Word) <<< 32 else 0xFFFFFFFF) else BitVec.allOnes 64

/-- The lowest privilege for an access (R721, R591, R595, R658, R692). -/
def Slice.needPriv (s : Slice) (off : Nat) (write : Bool) (a : CtAcc) : Nat :=
  let p := pagePriv (off / 4096) write
  let fw := write && (off = Reg.NS_ID || off = Reg.NS_ID_PKG || off = Reg.NS_CTL || off = Reg.NS_CLKCTL || off = Reg.NS_FWIF ||
    off = Reg.NS_VT_CTL || off = Reg.NS_CNT_PRIV)
  let win := write && 0x4100 ≤ off && off < 0x4200 &&
    (s.flag (NS_FP_WINA.KIND ((off - 0x4100) / 16)) || ((off - 0x4100) % 16 == 0 && bitAt (ctWord a &&& ctMask a) 62))
  if fw || win then max p Priv.fw else p

/-! ### Fields (R15, R723, R724, R729) -/

/-- The bits of a field. -/
def FieldRow.bits (f : FieldRow) : Word := setBits 0 f.lo f.w (2 ^ f.w - 1)

/-- The lock bit that governs the RWL fields of a register (the table of locks). -/
def lockOf (off : Nat) : Fld := if off < 0x1000 then NS_ID.LOCK else NS_PL_HBMBASE.LOCK

/-- One field of a word after a write of the bits `m` with data `d`. -/
def FieldRow.write (f : FieldRow) (locked : Bool) (d m v : Word) : Word :=
  let k := f.bits &&& m
  match f.acc with
  | .ro | .rc => v
  | .rw => (v &&& ~~~k) ||| (d &&& k)
  | .w1c => v &&& ~~~(d &&& k)
  | .w1s => v ||| (d &&& k)
  | .rwl => if locked then v else (v &&& ~~~k) ||| (d &&& k)

/-- A register's word after a write, each field by its access code. -/
def writeFields (fs : List FieldRow) (locked : Bool) (d m v : Word) : Word := fs.foldl (fun v f => f.write locked d m v) v

/-- The W1S bits that the slice takes, so that they read 0: every one but the two lock bits. -/
def takenBits (off : Nat) (fs : List FieldRow) : Word :=
  if off = Reg.NS_ID || off = Reg.NS_PL_HBMBASE then 0
  else fs.foldl (fun w f => match f.acc with
    | .w1s => w ||| f.bits
    | _ => w) 0

/-- The RC fields that a read of the bits `m` clears, each whole (R723). -/
def readClears (fs : List FieldRow) (m : Word) : Word :=
  fs.foldl (fun w f => match f.acc with
    | .rc => if f.bits &&& m = 0 then w else w ||| f.bits
    | _ => w) 0

/-! ### Rules by which a write is ignored -/

/-- What a register's own rules make of a write: it applies as given; one field keeps its value, and the event is recorded; or the whole
write is ignored and recorded (R726). -/
inductive WriteJudge where
  | ok
  | but (new : Word)
  | ignored (code : Nat)
  deriving DecidableEq, Repr

/-- A field of a word. -/
def fldOf (w : Word) (f : Fld) : Nat := getBits w f.lo f.w

/-- Granules [a, z] all lie in V ways, none of them draining (R756). -/
def Slice.granulesV (s : Slice) (a z : Nat) : Bool :=
  (List.range 16).all (fun w => w < a / 256 || z / 256 < w || s.isV w) && decide (z < 4096)

/-- A region write must not enable this region (R133). -/
def Slice.regionBad (s : Slice) (n : Nat) (w : Word) : Bool :=
  let a := fldOf w (NS_VT_REGION.BASE n)
  let z := fldOf w (NS_VT_REGION.LIMIT n)
  z < a || !s.granulesV a z || (List.range 64).any (fun k => k != n && s.flag (NS_VT_REGION.EN k) &&
    decide (s.fld (NS_VT_REGION.BASE k) ≤ z) && decide (a ≤ s.fld (NS_VT_REGION.LIMIT k)))

/-- A window write must not enable this window (R324, R650). -/
def Slice.windowBad (s : Slice) (n : Nat) (w : Word) : Bool :=
  let f := fldOf w (NS_FP_WINA.SFMT n)
  let mem := fldOf w (NS_FP_WINA.KIND n) == 1
  let a := fldOf w (NS_FP_WINA.DBASE n)
  let z := s.fld (NS_FP_WINB.DLIMIT n)
  let mx := f.testBit 4
  let others := (List.range 16).filter fun k => k != n && s.flag (NS_FP_WINA.EN k)
  let data := fun k => (s.fld (NS_FP_WINA.DBASE k), s.fld (NS_FP_WINB.DLIMIT k))
  let meets := fun (p q : Nat × Nat) => decide (p.1 ≤ q.2) && decide (q.1 ≤ p.2)
  let base := s.fld NS_PL_HBMBASE.BASE
  let sa := fldOf w (NS_FP_WINA.SBASE n)
  let sz := sa + cdiv (z + 1 - a) 16 - 1
  !storedOk f || (mx && s.disabled 2) || z < a ||
  others.any (fun k => s.flag (NS_FP_WINA.KIND k) == mem && meets (a, z) (data k)) ||
  (if mem then mx || a / 2 ^ 28 != base || z / 2 ^ 28 != base ||
      (List.range 8).any (fun k =>
        let h := s.rd (Reg.NS_HOSTWIN k)
        bitAt h 63 && getBits h 0 31 ≤ getBits h 32 31 && meets (a / 512, z / 512) (getBits h 0 31, getBits h 32 31))
    else 4096 ≤ a || 4096 ≤ z || !s.granulesV a z ||
      (mx && (!s.granulesV sa sz || meets (sa, sz) (a, z) ||
        others.any (fun k => !s.flag (NS_FP_WINA.KIND k) && meets (sa, sz) (data k)))))

/-- A write of NS_CH_MAPLIST is accepted (R572). -/
def Slice.mapListOk (s : Slice) (w : Word) : Bool :=
  let n := fldOf w NS_CH_MAPLIST.COUNT
  let ch := fun i => getBits w (8 * i) 5
  decide (n ≤ 4) && (List.range (n - 1)).all (fun i => decide (ch i < ch (i + 1))) && !s.flag NS_CH_MAPCTL.BUSY &&
  ((s.fld NS_CH_MAPLIST.COUNT == 0 && n == 1 && s.flag NS_PORTSTAT.MEMRDY) || !s.flag NS_PORTSTAT.MEMRDY)

/-- The area of the spill ring lies inside one enabled region whose granules all lie in V ways, and is not empty (R701). -/
def Slice.spillOk (s : Slice) (a z : Nat) : Bool :=
  decide (a ≤ z) && (List.range 64).any (fun n => s.flag (NS_VT_REGION.EN n) && decide (s.fld (NS_VT_REGION.BASE n) ≤ a) &&
    decide (z ≤ s.fld (NS_VT_REGION.LIMIT n)) && s.granulesV (s.fld (NS_VT_REGION.BASE n)) (s.fld (NS_VT_REGION.LIMIT n)))

/-- The rules of the registers (R49, R133, R134, R313, R324, R325, R410, R413, R419, R468, R469, R484, R554, R572, R595, R610, R652,
R660, R665, R680, R701, R728, R747): `old` is the register before the write and `new` after it, W1S bits included. -/
def Slice.judgeWrite (s : Slice) (off : Nat) (a : CtAcc) (old new : Word) : WriteJudge :=
  let bad := WriteJudge.ignored ErrCode.REGVAL
  let set := fun (f : Fld) => fldOf new f == 1
  let touches := fun (f : Fld) => getBits (ctMask a) f.lo f.w != 0
  if off = Reg.NS_WAYMAP_NEXT then (if s.flag NS_WAYCHG.BUSY then bad else .ok)
  else if off = Reg.NS_WAYCHG then (if s.flag NS_WAYCHG.BUSY && set NS_WAYCHG.GO then bad else .ok)
  else if 0x2200 ≤ off && off < 0x2400 then
    let n := (off - 0x2200) / 8
    if s.regionBusy n then bad
    else if set (NS_VT_REGION.EN n) && s.regionBad n new then bad
    else .ok
  else if off = Reg.NS_GRPOPEN || (0x3100 ≤ off && off < 0x3180) then (if s.flag NS_GRPOPEN.BUSY then bad else .ok)
  else if 0x4100 ≤ off && off < 0x4200 then
    let n := (off - 0x4100) / 16
    let en := s.flag (NS_FP_WINA.EN n)
    if (off - 0x4100) % 16 = 8 then (if en && old != new then bad else .ok)
    else if en then (if (old ^^^ new) &&& 0x7FFFFFFFFFFFFFFF = 0 then .ok else bad)
    else if touches (NS_FP_WINA.SFMT n) && (fldOf new (NS_FP_WINA.SFMT n) % 16 = 15 ||
        (s.disabled 2 && (fldOf new (NS_FP_WINA.SFMT n)).testBit 4)) then bad
    else if set (NS_FP_WINA.EN n) && s.windowBad n new then bad
    else .ok
  else if off = Reg.NS_UU_CTL then
    if touches NS_UU_CTL.HMODE && fldOf new NS_UU_CTL.HMODE = 3 then .but (putFld new NS_UU_CTL.HMODE (fldOf old NS_UU_CTL.HMODE))
    else .ok
  else if off = Reg.NS_DIR_RECLAIM then (if s.flag NS_DIR_STAT.RECLBUSY && set NS_DIR_RECLAIM.GO then bad else .ok)
  else if off = Reg.NS_DIR_DEADMASK then
    match s.coh.reclaim with
    | some c => if s.flag NS_DIR_STAT.RECLBUSY && bitAt old c && !bitAt new c then bad else .ok
    | none => .ok
  else if 0x6800 ≤ off && off < 0x7000 then
    let k := (off - 0x6800) / 8
    if fldOf old (NS_ACCN_TARGET.EN k) = 1 && (fldOf old (NS_ACCN_TARGET.CTX k) != fldOf new (NS_ACCN_TARGET.CTX k) ||
        fldOf old (NS_ACCN_TARGET.COUNT k) != fldOf new (NS_ACCN_TARGET.COUNT k)) then bad
    else .ok
  else if 0x7040 ≤ off && off < 0x7080 then
    let n := (off - 0x7040) / 8
    let b := fldOf new (NS_REG_CLASS.BASEPRI n)
    if touches (NS_REG_CLASS.BASEPRI n) && (b = 0 || 12 < b) then bad else .ok
  else if off = Reg.NS_CLKCTL then
    if touches NS_CLKCTL.SCLKDIV && fldOf new NS_CLKCTL.SCLKDIV = 3 then
      .but (putFld new NS_CLKCTL.SCLKDIV (fldOf old NS_CLKCTL.SCLKDIV))
    else .ok
  else if off = Reg.NS_FWIF then
    if s.flag NS_FWIF.RESULT && (fldOf old NS_FWIF.FWMAJ != fldOf new NS_FWIF.FWMAJ ||
        fldOf old NS_FWIF.FWMIN != fldOf new NS_FWIF.FWMIN || set NS_FWIF.GO) then bad
    else .ok
  else if off = Reg.NS_CH_MAPLIST then (if s.mapListOk new then .ok else bad)
  else if off = Reg.NS_ECC_CBCTL then
    let raw := set NS_ECC_CBCTL.RAWRD || set NS_ECC_CBCTL.RAWWR
    if raw && !s.flag NS_ECC_CTL.CBEN then .ignored ErrCode.RAWOFF
    else if fldOf new NS_ECC_CBCTL.TARGET = 3 then bad
    else .ok
  else if off = Reg.NS_RC_BLK then (if s.flag NS_RC_BLK.BUSY && set NS_RC_BLK.GO then bad else .ok)
  else if off = Reg.NS_RC_WB then (if s.flag NS_RC_WB.BUSY && set NS_RC_WB.GO then bad else .ok)
  else if 0xA0C0 ≤ off && off < 0xA100 then
    let i := (off - 0xA0C0) / 8
    if touches (NS_CNT_SEL.EVENT i) && 0x28 < fldOf new (NS_CNT_SEL.EVENT i) then bad else .ok
  else if off = Reg.NS_PV_SPILL then
    if touches NS_PV_SPILL.EN && set NS_PV_SPILL.EN && !s.spillOk (fldOf new NS_PV_SPILL.BASE) (fldOf new NS_PV_SPILL.LIMIT) then
      .but (putFld new NS_PV_SPILL.EN 0)
    else .ok
  else if off = Reg.NS_DG_SEL then
    if s.flag NS_DG_SEL.BUSY then bad
    else if touches NS_DG_SEL.TARGET && 8 < fldOf new NS_DG_SEL.TARGET then bad
    else .ok
  else .ok

end Sys2Proof.Machine
end

