-- ==== Sys2Proof/Machine/Effect.lean ====
section
/-! DEFINITION. The step of a command: its effect on the slice, the entries it makes in the provenance log (R18, R693 to R697), its place
in the cycle (R741), and the reset that a bookkeeping error in it makes (R598). -/

namespace Sys2Proof.Machine

/-! ### The generation table and the log under a reset -/

/-- What a reset of a level leaves of the generation table and the provenance log (R615, R633, R698, R703). -/
def State.tables (s : State) (lvl : Level) : State :=
  let s := { s with prov := { s.prov with noted := [] } }
  match lvl with
  | .por => { s with gentab := [], prov := Prov.empty }
  | .pkg => { s with gentab := [] }
  | .cmp => s

/-- The FREEZE entry of a capture (R686, R697). -/
def freezeEntry (sl : Slice) : PvEntry :=
  let seq := BitVec.ofNat 64 (sl.fld NS_CNT_CTL.CAPSEQ)
  { stamp := sl.rd Reg.NS_CNT_SNAP_CYCLE, old := (seq - 1) &&& BitVec.ofNat 64 (2 ^ NS_CNT_CTL.CAPSEQ.w - 1), new := seq, seq := 0,
    kind := 3, priv := 0, origin := 0, offset := 0xA000 }

/-- A capture made in this step takes the log's next sequence number and enters its FREEZE entry (R685, R686). -/
def State.freezeNote (s : State) : State :=
  if !s.sl.sys.captured then s
  else
    let t := (s.sl.setFld NS_CNT_SNAP_PVSEQ.SEQ s.prov.seqNext.toNat).modSys fun y => { y with captured := false }
    { s with sl := t, prov := s.prov.enter (t.flag NS_PV_CTL.MODE) (freezeEntry t) }

/-! ### SLICE entries (R693 to R696) -/

/-- Enter a register's change by the slice; a second change of it in one cycle is part of the first one's entry (R694), or lost with it (R702).
`Prov.noted` names the registers whose entry of the cycle is held or lost; a spilled entry is neither. -/
def Prov.sliceEntry (p : Prov) (mode : Bool) (stamp : Word) (off : Nat) (old new : Word) : Prov :=
  let e : PvEntry := { stamp := stamp, old := old, new := new, seq := 0, kind := 1, priv := 0, origin := 0, offset := BitVec.ofNat 16 off }
  if p.noted.contains off then
    { p with held := p.held.map fun x => if x.kind == e.kind && x.offset == e.offset && x.stamp == stamp then { x with new := new } else x }
  else { p.enter mode e with noted := p.noted ++ [off] }

/-- The log with an entry for each register that the slice changed from `s` on, in order of offset: the words are those the register reads
as (R696). -/
def State.changes (s t : State) : Prov :=
  if s.sl.regs = t.sl.regs then t.prov
  else (regKeys s.sl.regs t.sl.regs).foldl (fun p off =>
    if (s.sl.rd off ^^^ t.sl.rd off) &&& provMask off = 0 then p
    else p.sliceEntry (t.sl.flag NS_PV_CTL.MODE) (s.sl.rd Reg.NS_CNT_CYCLE) off (s.view off) (({ t with prov := p } : State).view off)) t.prov

/-- A change of the slice, with its entries. -/
def State.into (s : State) (sl : Slice) : State := { s with sl := sl, prov := s.changes { s with sl := sl } }

/-- What a reset leaves: the entries it makes are for the fields that it does not reset (R694). -/
def State.afterReset (s : State) (t : Slice) (lvl : Level) (cause : Nat) : State :=
  ({ s with sl := t, prov := s.changes { s with sl := s.sl.resetMarks lvl cause } } : State).tables lvl

/-- While SCLK stands there are no cycles, and each event is entered in the log by itself (R694; DEDUCED, assumption 16). -/
def State.eachAlone (s : State) : State := if s.sl.sys.sclkRuns then s else { s with prov := { s.prov with noted := [] } }

/-- An effect on the slice, with the changes it makes to registers entered in the provenance log (R18). A bookkeeping error met in it
resets the block domain, which makes no entry for what it resets (R694). -/
def State.effect (s : State) (f : List (Nat × BitVec 8) → Slice → Slice) : State :=
  let s := (s.eachAlone.into (f s.gentab s.sl).atFail).freezeNote
  if !s.sl.sys.bkFail then s else s.afterReset s.sl.bkReset s.sl.bkReset.sys.applied 4

/-! ### The order of a cycle (R741) -/

/-- A cycle's commands in the order of R741: a register access, the even pipe's request, the odd pipe's, a control message, the slice's own
events. -/
abbrev Turn.access : Nat := 1
abbrev Turn.even : Nat := 2
abbrev Turn.odd : Nat := 3
abbrev Turn.message : Nat := 4
abbrev Turn.own : Nat := 5

/-- The cycle ends; what its end decides is decided by the register values `regs`, which held in it (R727). -/
def State.cycleBy (s : State) (regs : List (Nat × Word)) : State :=
  let t := s.effect fun _ sl => sl.tick { sl with regs := regs }
  { t with turn := 0, prov := { t.prov with noted := [] } }

/-- The cycle ends. -/
def State.cycle (s : State) : State := s.cycleBy s.sl.regs

/-- A command of turn `k` begins: one that comes when its turn is past, or while the cycle has no room for it, is a command of the next
cycle. -/
def State.turnTo (s : State) (k : Nat) (full : Bool) : State :=
  { (if k ≤ s.turn || full then s.cycle else s) with turn := k }

/-- A request enters a pipe. -/
def State.pipeTurn (s : State) (odd full : Bool) : State := s.turnTo (if odd then Turn.odd else Turn.even) full

/-- A command's meaning: its effect on the slice, answered with a next state. -/
def State.run (s : State) (f : List (Nat × BitVec 8) → Slice → Slice) : Host.Outcome State Fault Refusal :=
  .next (({ s with turn := Turn.own } : State).effect f)

end Sys2Proof.Machine
end

