-- ==== Sys2Proof/Machine/Port.lean ====
section
/-! DEFINITION. The request port (R396 to R400, R480, R491, R515 to R520, R759): a presented request is accepted, retried or left
where it is, and an accepted one is judged, answered, joined to an open read or given a tracker. -/

namespace Sys2Proof.Machine

/-! ### Accept or retry (R517 to R520) -/

/-- What the port answers a presented request. -/
inductive Answer where
  /-- accepted; `credited` when it used its reserved credit -/
  | acc (credited : Bool)
  | credit (res : CRes)
  | hold
  | tracker
  /-- `keep` under R520: it keeps its credit -/
  | dataport (keep : Bool)
  deriving DecidableEq, Repr

/-- A resend matches a granted credit (R400). -/
def creditMatch (c : Credit) (op : Op) (vsp : Bool) (pa : BitVec 52) (ctx : BitVec 12) (gen : BitVec 8) : Bool :=
  c.msg.isNone && c.op == op && c.pa == pa && c.ctx == ctx && c.gen == gen && (!op.readsVsp || c.vsp == vsp)

/-- The granted credit a presented request uses. -/
def Slice.useCredit (s : Slice) (cred : Bool) (reqid : BitVec 8) (op : Op) (vsp : Bool) (pa : BitVec 52) (ctx : BitVec 12)
    (gen : BitVec 8) : Option Credit :=
  if !cred then none
  else match s.credit? reqid.toNat with
    | some c => if c.granted && creditMatch c op vsp pa ctx gen then some c else none
    | none => none

/-- The other pipe takes the data port (R517, R520); `some keep` for the loser. Where the other pipe's request has been judged in this
cycle already, what it got decides. -/
def Slice.losesPort (s : Slice) (op : Op) (r : Req) (mine : Option Credit) : Option Bool :=
  match r.peer with
  | none => none
  | some p =>
    if !op.hasData then none
    else if s.port.dataTaken then some mine.isSome
    else if (if r.odd then s.port.slotE else s.port.slotO) == some .dataport then none
    else
      let theirs := s.useCredit p.cred p.reqid p.op p.vsp p.pa p.ctx p.gen
      let parity := s.now % 2 == 1
      match mine, theirs with
      | some _, none => none
      | none, some _ => some false
      | none, none => if r.odd == parity then none else some false
      | some c, some d =>
        match c.lost, d.lost with
        | some a, some b => if a < b || (a = b && r.odd == parity) then none else some true
        | some _, none => none
        | none, some _ => some true
        | none, none => if r.odd == parity then none else some true

/-- The tracker, slot or sweep entry a request needs is missing (R87, R117, R151, R441, R519). A read that joins an open tracker needs
none, and a command write that an exit slice forwards needs no slot here. -/
def Slice.noTracker (s : Slice) (op : Op) (r : Req) (pass joins : Bool) : Bool :=
  (match op with
   | .cmdwr => !(s.place op r).isExit &&
       decide (16 ≤ s.bulk.cmds.length + (s.port.trks.filter (fun t => t.op == .cmdwr && t.stage == .queued &&
         s.place t.op t.req == .here)).length)
   | .fence => 2 ≤ r.scope.toNat && 64 ≤ s.port.sweeps.length + (s.port.trks.filter (fun t => t.op == .fence)).length
   | _ => opTrk op != .none && !joins && !s.trkFree (opTrk op)) ||
  (pass && !joins && s.place op r == .here && s.noEvictTrk op r)

/-- The port's answer to a request at one of its pipes. -/
def Slice.answerOf (s : Slice) (op : Op) (r : Req) (pass joins : Bool) (cvt : Option (BitVec 5 × Nat)) : Answer :=
  let mine := s.useCredit r.cred r.reqid op r.vsp r.pa r.ctx r.gen
  let loses := s.losesPort op r mine
  match mine with
  | some _ => if loses.isSome then .dataport true else .acc true
  | none =>
    match (if pass && s.place op r == .here then s.busyRes op r joins cvt else none) with
    | some res => .credit res
    | none =>
      if s.holdsReq op r cvt then .hold
      else if s.noTracker op r pass joins then .tracker
      else if loses.isSome then .dataport false
      else .acc false

/-! ### Retry -/

/-- What a retry leaves: its event, its slot, and its reservation (R398, R520). -/
def Slice.retried (s : Slice) (op : Op) (r : Req) (a : Answer) : Slice :=
  let cls := r.cls.toNat
  match a with
  | .acc _ => s
  | .hold => s.ev Ev.RTY_HOLD 1 (some r.odd) (some cls)
  | .tracker => s.ev Ev.RTY_TRACKER 1 (some r.odd) (some cls)
  | .dataport keep =>
    let s := s.ev Ev.RTY_DATAPORT 1 (some r.odd) (some cls)
    let mark := fun (c : Credit) => { c with since := s.now, lost := some (c.lost.getD s.now) }
    if keep then s.modPort fun p => { p with credits := replaceFirst (fun c => c.reqid == r.reqid) mark p.credits } else s
  | .credit res =>
    let s := s.ev Ev.RTY_CREDIT 1 (some r.odd) (some cls)
    if (s.credit? r.reqid.toNat).isSome then s.bump NS_DIR_EVT.RETRYNC 1
    else
      let s := if res == .chan then s.bump NS_CH_STALL.RTRETRY 1 else s
      let s := s.bump NS_DIR_EVT.RETRYCR 1
      let s := match res with
        | .set _ _ => s.bump NS_RET_EVT2.RETRYALLOC 1
        | _ => s
      s.addCredit { reqid := r.reqid, res := res, op := op, vsp := r.vsp, pa := r.pa, ctx := r.ctx, gen := r.gen, tag := r.tag,
                    srcdie := r.srcdie, msg := none, granted := false, since := s.now, lost := none }

/-- The census class of an answer (R683). -/
def Answer.slot (a : Answer) (replay : Bool) : SlotCls :=
  match a with
  | .acc _ => if replay then .replay else .served
  | .credit _ => .credit
  | .hold => .hold
  | .tracker => .tracker
  | .dataport _ => .dataport

/-! ### Acceptance -/

/-- Lines charged to the master (R480). -/
def linesCharged (op : Op) (r : Req) (cvt : Option (BitVec 5 × Nat)) : Nat :=
  match op with
  | .fence | .accinc | .flush | .tinv | .other _ => 0
  | .crd | .vcrd => match cvt with
    | some (sf, _) => if fpPair sf.toNat r.fmt.toNat then cvtParts sf.toNat r.fmt.toNat else 1
    | none => 1
  | _ => 1

/-- Charges and counts of an accepted request (R480, R483, R491). -/
def Slice.charge (s : Slice) (op : Op) (r : Req) (cvt : Option (BitVec 5 × Nat)) : Slice :=
  let s := (s.bump (NS_REG_BUDGET.USED r.reqid.toNat) (linesCharged op r cvt)).noteBudget r.reqid.toNat
  if !op.hasData then s
  else
    let s := s.ev Ev.WR_ACCEPT 1 (some r.odd) (some r.cls.toNat)
    let s := if r.via == .mq then s.modPort fun p => { p with dataTaken := true } else s
    if s.frozen then s
    else (s.count48 (NS_REG_WRBYTES.COUNT r.cls.toNat) (NS_REG_WRBYTES.OVF r.cls.toNat) 128).1

/-- The most readers of one tracker (R103). -/
def Slice.combMax (s : Slice) : Nat := min 16 (s.fld NS_RET_CTL.COMBMAX)

/-- The tracker's read was answered with an error status. -/
def Slice.readFailed (s : Slice) (u : Trk) : Bool :=
  let bad := fun (b : Beat) => b.trk == some u.id && !b.isData
  (s.port.beats ++ s.port.granted).any bad || s.out.outq.any fun i => match i.msg with
    | .rep b => bad b
    | _ => false

/-- A read that would be answered as another read of its line is: a converting read passes the checks of R323, a vitrine read is permitted
(R136, R280). The slice named by a vitrine address of another slice judges there, by context (assumption 65). -/
def Slice.readsLike (s : Slice) (op : Op) (r : Req) (cvt : Option (BitVec 5 × Nat)) (u : Trk) : Bool :=
  match u.key with
  | .far _ => u.req.ctx == r.ctx && (!isCvt op || u.req.off == r.off)
  | _ =>
    if isCvt op then passThrough op r && s.place op r != .here && u.req.off == r.off ||
      s.cvtCheck op r cvt == 0 && s.cvtCheck u.op u.req u.cvt == 0
    else op != .vrd || (s.vtAllowed r && s.vtAllowed u.req)

/-- A read may join tracker `u` (R98, R107). -/
def Slice.joinable (s : Slice) (op : Op) (r : Req) (cvt : Option (BitVec 5 × Nat)) (u : Trk) : Bool :=
  u.kind == .read && u.key != .none && u.key == s.keyOf op r && u.op == op && (!isCvt op || u.req.fmt == r.fmt) && u.cvt == cvt &&
    (s.place op r == .here || Req.vt op r || passThrough op r == passThrough u.op u.req) && u.cl.isNone && op != .pxrd && !u.closed && !u.anew &&
    (!s.purgeWait r || u.stage == .queued && s.purgeWait u.req) &&
    u.joined.length + 1 < s.combMax && !(u.stage == .done && s.readFailed u) && s.readsLike op r cvt u

def Slice.joinTo (s : Slice) (op : Op) (r : Req) (cvt : Option (BitVec 5 × Nat)) : Option Trk :=
  s.port.trks.find? (s.joinable op r cvt)

/-- Add a destination to the queued beats of a tracker at a port; with it the beat serves one more request (R489). -/
def addDest (id : Nat) (port : Option (BitVec 3)) (d : Dest) (c : Claim) (b : Beat) : Beat :=
  if b.trk == some id && b.dd == port then { b with dests := b.dests ++ [d], job := { b.job with others := b.job.others ++ [c] } } else b

/-- The beats of a tracker that have not left the slice. -/
def Slice.trkBeats (s : Slice) (id : Nat) : List Beat :=
  (s.port.beats ++ s.port.granted ++ s.out.outq.filterMap fun i => match i.msg with
    | .rep b => some b
    | _ => none).filter fun b => b.trk == some id

/-- Add a destination to the beats that have not left the slice; at a port where none waits, they are sent to it as well. -/
def Slice.joinBeats (s : Slice) (g : List (Nat × BitVec 8)) (id : Nat) (port : Option (BitVec 3)) (d : Dest) (k : Claim) : Slice :=
  let bs := s.trkBeats id
  if bs.any (fun b => b.dd == port) then
    (s.modPort fun p => { p with beats := p.beats.map (addDest id port d k), granted := p.granted.map (addDest id port d k) }).modOut
      fun o => { o with outq := o.outq.map fun i => match i.msg with
        | .rep b => { i with msg := .rep (addDest id port d k b) }
        | _ => i }
  else match bs with
    | [] => s
    | b :: _ => (bs.filter (fun c => c.dd == b.dd)).foldl (fun s c => s.reply g { c with dd := port, dests := [d] }) s

/-- A message that waits to leave is work of the tracker (R477): its forward, the proxy or host request of its fill, and the invalidations and
snoops that it waits for. -/
def Slice.workOf (s : Slice) (u : Trk) (ops : List MemOp) (m : OutMsg) : Bool :=
  match m with
  | .req q => q.why == .fwd u.id || ops.any fun o => q.why == .proxy o.id
  | .dd (.inv _ l) => u.key == .pa u.req.line && (match u.stage, u.way with
    | .loanAck, _ => l == u.req.line
    | .victim, some w => l == tagTAG (s.tag w (setOf u.req.line))
    | _, _ => false)
  | .lw w => (w.name == .memRd && ops.any fun o => o.sent == some (.host w.line)) || (w.name.cls == 1 &&
      s.coh.txns.any fun t => t.who == .tracker u.id && (t.line == w.line || t.waitVictim == some w.line))
  | _ => false

/-- What a tracker has under way for its readers serves one more (R477, R489): its fill, its victim's writeback, and what waits to leave for
it. -/
def Slice.joinWork (s : Slice) (u : Trk) (k : Claim) : Slice :=
  let add := fun (j : Job) => { j with others := j.others ++ [k] }
  let mine := fun (o : MemOp) => o.why == .trk u.id || (u.stage == .victim && (match u.way with
    | some w => o.why == .evict w (setOf u.req.line)
    | none => false))
  let s := s.modChan fun c => { c with ops := c.ops.map fun o => if mine o then { o with job := add o.job } else o }
  let ops := s.chan.ops.filter mine
  s.modOut fun o => { o with outq := o.outq.map fun i => if s.workOf u ops i.msg then { i with job := add i.job } else i }

/-- A read of another die joins a tracker whose data is in hand, while no L way holds the line: its own data waits until the die has confirmed
that it keeps no copy (`Slice.unlend`, R39, R40), in an entry that holds no tracker of its own. -/
def Slice.joinLate (s : Slice) (g : List (Nat × BitVec 8)) (op : Op) (r : Req) (u : Trk) : Slice :=
  match (s.trkBeats u.id).find? (·.isData) with
  | none => s
  | some b =>
    let (s, t) := s.openTrk op { r with data := b.data, pcause := b.pz } .loanAck none
    (s.modTrk t.id fun v => { v with kind := .none, miss := u.miss }).unlend g r.line (loanDie op r).toList (s.reqJob op r s.now u.miss false)

/-- A read of another die joins a tracker whose data has not left: it is lent the line, or has none of it to keep (R39, R40). -/
def Slice.joinDone (s : Slice) (g : List (Nat × BitVec 8)) (op : Op) (r : Req) (u : Trk) (c : Claim) : Slice :=
  let beats := fun (s : Slice) => (s.joinBeats g u.id r.via.dd? (reqDest op r s.now) c).joinWork u c
  match (if Req.vt op r || s.useOf r.line != Use.L then none else loanDie op r) with
  | none => beats s
  | some d => match s.lookup Use.L r.line with
    | some w => ((beats s).lend w (setOf r.line) [d]).invAgain r.line [d]
    | none => s.joinLate g op r u

/-- A read joins an open tracker (R98 to R104): it takes part in what the tracker has been counted for already, and in what it has under
way (R489). -/
def Slice.join (s : Slice) (g : List (Nat × BitVec 8)) (op : Op) (r : Req) (u : Trk) : Slice :=
  let pipe := some r.odd
  let cls := some r.cls.toNat
  let s := s.ev Ev.COMBINED 1 pipe cls
  let s := s.modTrk u.id fun t => { t with joined := t.joined ++ [(r, s.now)] }
  let set := setOf r.line
  let s := if !u.miss then s
    else
      let s := s.ev Ev.RD_MISS 1 pipe cls
      let s := if u.noalloc then (s.bump NS_RET_EVT2.NOALLOC 1).ev Ev.NOALLOC 1 pipe cls else s
      match u.way with
      | some w => if u.stage == .fill && tagSV (s.tag w set) != 0 then s.ev Ev.RD_SECTMISS 1 pipe cls else s
      | none => s
  let c : Claim := ⟨r.cls.toNat, r.reqid.toNat, s.now, r.slack.toNat⟩
  if u.stage != .done then
    let s := s.joinWork u c
    if u.stage == .loanAck then s.unlend g r.line (loanDie op r).toList (s.reqJob op r s.now u.miss false) else s
  else
    let s := s.joinDone g op r u c
    let vt := Req.vt op r
    let s := if u.miss || passThrough op r && s.place op r != .here then s else s.ev Ev.RD_HIT 1 pipe cls
    if vt then
      if u.uninit then s.bump NS_VT_EVT.UNINITRD 1 else s
    else
      let use := s.useOf r.line
      match s.lookup use r.line with
      | some w =>
        let s := s.hitHint use w set r
        if use == Use.O && !u.miss then s.ev Ev.LOAN_HIT 1 pipe cls else s
      | none => s

/-- A request in the form in which it is served: what R508 has the slice ignore is zero. -/
def Req.taken (op : Op) (r : Req) : Req :=
  let r := { r with peer := none, cred := false, vsp := r.vsp && op.readsVsp }
  if op.hasData then r else { r with pois := 0, pcause := 0, mask := if op == .pxrd then r.mask else 0, data := 0 }

/-- A request is accepted. A credited resend that meets a hold waits in its tracker, to be judged when the hold ends (R519). What is
granted at a service point waits there for its grant, the settling's (R475). -/
def Slice.accept (s : Slice) (g : List (Nat × BitVec 8)) (op : Op) (r : Req) (v : Verdict) (cvt : Option (BitVec 5 × Nat))
    (join : Option Trk) (res : Option CRes := none) : Slice :=
  let held := r.cred && s.holdsReq op r cvt && opTrk op != .none
  let r := Req.taken op r
  let s := s.charge op r cvt
  if held then
    let (s, t) := s.openTrk op r .queued cvt
    (s.modTrk t.id fun u => { u with anew := true, res := res }).closeReads t
  else match v with
  | .stale => s.acceptStale op r
  | .error st code => s.acceptError g op r st code
  | .pass =>
    match join with
    | some u => s.join g op r u
    | none =>
      let (s, t) := s.openTrk op r .queued cvt
      let s := (s.modTrk t.id fun u => { u with res := res }).closeReads t
      if t.point.isSome then s else s.advanceTrk g t.id

/-- A resend that carries a credit which does not match releases it (R400); one that uses it takes it out of the table. -/
def Slice.creditUsed (s : Slice) (op : Op) (r : Req) (a : Answer) : Slice :=
  match a with
  | .acc true => s.dropCredit r.reqid.toNat
  | _ =>
    match (if r.cred then s.credit? r.reqid.toNat else none) with
    | some c => if creditMatch c op r.vsp r.pa r.ctx r.gen then s else s.dropCredit r.reqid.toNat
    | none => s

/-- The pipe's slot of this cycle is used, or the data port is: the request is then presented in the next cycle. -/
def Slice.slotUsed (s : Slice) (op : Op) (r : Req) : Bool :=
  (if r.odd then s.port.slotO else s.port.slotE).isSome || (op.hasData && r.peer.isNone && s.port.dataTaken)

/-- A request to a host-class line served here reads the line's directory set (R378, R397, R597), unless a raw access or a diagnostic read of the
set comes before it (R596, R746). -/
def Slice.readHost (s : Slice) (op : Op) (r : Req) : Slice :=
  match reqKey op r with
  | .pa l => if s.place op r == .here && s.isHost l then s.readSet (setOf l) s.port.nextId else s
  | _ => s

/-- A request at a pipe of MQ (R515). -/
def Slice.present (s : Slice) (g : List (Nat × BitVec 8)) (op : Op) (r : Req) : Slice :=
  if !s.mqRdy then s
  else
    let s := s.stir
    let v := s.verdict g op r
    let s := if v == .pass then s.readHost op r else s
    let cvt := if isCvt op then s.cvtWindow op r else none
    let join := if v == .pass && opTrk op == .read then s.joinTo op r cvt else none
    let a := s.answerOf op r (v == .pass) (join.isSome) cvt
    let res := (s.useCredit r.cred r.reqid op r.vsp r.pa r.ctx r.gen).map (·.res)
    let s := s.creditUsed op r a
    let slot := some (a.slot (v != .pass))
    let rcr := (match a with
      | .credit _ => true
      | _ => false) && (s.credit? r.reqid.toNat).isNone
    let s := s.modPort fun p => if r.odd then { p with slotO := slot, rcrO := rcr } else { p with slotE := slot, rcrE := rcr }
    match a with
    | .acc _ => (s.accept g op r v cvt join res).settle g
    | _ => (s.retried op r a).settle g

/-- A request forwarded over DD (R538): one that the port would retry is not taken and stays where it is. -/
def Slice.presentDD (s : Slice) (g : List (Nat × BitVec 8)) (op : Op) (r : Req) : Slice :=
  if !s.flag NS_PORTSTAT.DDRDY || !s.sys.sclkRuns then s
  else
    let r := { r with cred := false, peer := none, odd := pipeIn op r }
    let s := s.stir
    let v := s.verdict g op r
    let s := if v == .pass then s.readHost op r else s
    let cvt := if isCvt op then s.cvtWindow op r else none
    let join := if v == .pass && opTrk op == .read then s.joinTo op r cvt else none
    match s.answerOf op r (v == .pass) (join.isSome) cvt with
    | .acc _ => ((s.ddRxBack (r.via.dd?.getD 0).toNat DdCls.dreq.num).accept g op r v cvt join).settle g
    | _ => s

/-- A request of opcode `op` is presented. -/
def Slice.request (op : Op) (r : Req) (g : List (Nat × BitVec 8)) (s : Slice) : Slice :=
  match r.via with
  | .mq => s.present g op r
  | .dd _ => s.presentDD g op r

/-- The state in whose cycle a request is presented: a pipe takes one a cycle, after the register access and the other pipe as R741 has
them. -/
def State.slotFor (s : State) (op : Op) (r : Req) : State :=
  match r.via with
  | .mq => if s.sl.mqRdy then s.pipeTurn r.odd (s.sl.slotUsed op r) else s
  | .dd _ => if s.sl.flag NS_PORTSTAT.DDRDY && s.sl.sys.sclkRuns then s.pipeTurn (pipeIn op r) false else s

/-- A request of opcode `op` is presented: its meaning. -/
def State.request (s : State) (op : Op) (r : Req) : Host.Outcome State Fault Refusal :=
  .next ((s.slotFor op r).effect fun g sl => sl.request op r g)

end Sys2Proof.Machine
end

