-- ==== Sys2Proof/Machine/Coherence.lean ====
section
/-! DEFINITION. The messages of host-class coherence (R369 to R405): requests, snoop answers, data and acknowledgements of the
clusters, the wing bridge they may cross (R33 to R37, R403, R550), and the timeouts of snoops and credits. -/

namespace Sys2Proof.Machine

/-- LW is released and host coherence is ready (R644, R645). -/
def Slice.lwReady (s : Slice) : Bool := s.flag NS_PORTSTAT.LWRDY && s.flag NS_READY.HOSTCOH && s.sys.sclkRuns

/-! ### Requests of clusters -/

/-- A resend matches the credit reserved for a message: in the message, the opcode of an ATOM and the address (R400). -/
def BridgeMsg.matches (b : BridgeMsg) (c : Credit) : Bool := c.msg == some b.num && c.op == b.op && c.pa == b.pa

/-- The granted credit a resend uses (R400). -/
def Slice.clCredit (s : Slice) (b : BridgeMsg) : Bool :=
  b.cl.cred && (match s.credit? (clusterId b.cl) with
    | some c => c.granted && b.matches c
    | none => false)

/-- A resend that carries a credit which does not match releases it (R400). -/
def Slice.clMismatch (s : Slice) (b : BridgeMsg) : Slice :=
  if !b.cl.cred then s
  else match s.credit? (clusterId b.cl) with
    | some c => if b.matches c then s else s.dropCredit (clusterId b.cl)
    | none => s

/-- RETRY, with a credit for `res` unless the cluster holds one already (R397, R398). -/
def Slice.clRetry (s : Slice) (g : List (Nat × BitVec 8)) (b : BridgeMsg) (res : Option CRes) : Slice :=
  let m := b.cl
  let msg := lwMsg .retry m.cluster.toNat m.line
  match res with
  | none => s.sendLW g msg
  | some res =>
    if (s.credit? (clusterId m)).isSome then (s.bump NS_DIR_EVT.RETRYNC 1).sendLW g msg
    else
      let s := if res == .chan then s.bump NS_CH_STALL.RTRETRY 1 else s
      let s := (s.bump NS_DIR_EVT.RETRYCR 1).addCredit
        { reqid := BitVec.ofNat 8 (clusterId m), res := res, op := b.op, vsp := false, pa := b.pa, ctx := 0, gen := 0, tag := 0,
          srcdie := 0, msg := some b.num, granted := false, since := s.now, lost := none }
      s.sendLW g { msg with flag := true }

/-- A cluster's request needs an operation of this slice's channel (R559): the home copy is read from memory for it, where no owner supplies
the line and the cluster is no holder that asks for no data; a near ATOM or a writeback may also have a victim to write back, and a
writeback that finds no H way, or a draining one, goes through to memory (R386). -/
def Slice.clNeedsChan (s : Slice) (b : BridgeMsg) (near : Bool) : Bool :=
  let l := b.cl.line
  let c := b.cl.cluster.toNat
  let set := setOf l
  let own := (s.memTgt l).isChan
  let way := s.lookup Use.H l
  let victim := way.isNone && s.hasUse Use.H && s.victimToChan Use.H set (clusterId b.cl)
  let lacks := own && (match way with
    | some w => tagSV (s.tag w set) != 15
    | none => true)
  let owned := match s.findEnt l with
    | some (_, d) => d.state == Dir.X
    | none => false
  let holds := match s.findEnt l with
    | some (_, d) => bitAt d.sharers c
    | none => false
  match b with
  | .req _ .wb => match way with
    | some w => own && s.draining w
    | none => victim || (own && (s.safe || (s.victimWay Use.H set).isNone))
  | .req _ .upg => lacks && !owned && !holds
  | .req _ _ => lacks && !owned
  | .atom _ _ => if near then lacks || victim else lacks && !owned
  | _ => false

/-- The resource a cluster's request finds taken (R86, R397, R560). -/
def Slice.clBusy (s : Slice) (b : BridgeMsg) (near : Bool) : Option CRes :=
  let l := b.cl.line
  let id := clusterId b.cl
  if s.lineTaken true l id || s.lineInUse l then some (.line l)
  else if near && s.hasUse Use.H && s.setFull l Use.H id then some (.set (setOf l) Use.H)
  else if b.entry && (s.findEnt l).isNone && s.entsLeft true (setOf l) id = 0 then some (.dirset (setOf l))
  else if s.clNeedsChan b near && s.chanLeft true id = 0 then some .chan
  else none

/-- The lines charged to the cluster as master of an accepted message (R478, R480): a read's line, the line a writeback brings, the line of
an ATOM. An UPG from a holder is delivered none. -/
def Slice.clCharge (s : Slice) (m : ClMsg) (k : Nat) : Slice :=
  (s.bump (NS_REG_BUDGET.USED (clusterId m)) k).noteBudget (clusterId m)

/-- A request accepted with its credit: ordered at once, or as soon as its line and its set permit (R379, R400). One that waits takes its
number in the order of acceptance now. -/
def Slice.clAccept (s : Slice) (g : List (Nat × BitVec 8)) (b : BridgeMsg) (res : Option CRes) : Slice :=
  if s.clHeld b || s.lineInUse b.cl.line || s.awaited b.cl.line s.port.nextId || s.rawAhead (setOf b.cl.line) s.port.nextId then
    let w : Waiter := { msg := b, since := s.port.nextId, born := s.now, res := res }
    (s.modCoh fun q => { q with waiters := q.waiters ++ [w] }).modPort fun p => { p with nextId := p.nextId + 1 }
  else s.clStart g b s.now none res

/-- The trackers a request takes. -/
def BridgeMsg.trks (near : Bool) : BridgeMsg → List TrkKind
  | .req _ .wb => [.write]
  | .evc _ => []
  | .atom _ _ => if near then [.atom] else [.read]
  | _ => [.read]

/-- The lines an accepted request is charged (R480). -/
def Slice.clLines (s : Slice) (b : BridgeMsg) : Nat :=
  match b with
  | .evc _ => 0
  | .req m .upg => match s.findEnt m.line with
    | some (_, d) => if bitAt d.sharers m.cluster.toNat then 0 else 1
    | none => 1
  | _ => 1

/-- A request of a live cluster to a line that this slice homes: RETRY, or with everything free or with its credit it is accepted
(R397 to R400). -/
def Slice.clOrder (s : Slice) (g : List (Nat × BitVec 8)) (b : BridgeMsg) : Slice :=
  let m := b.cl
  let near := match b with
    | .atom _ _ => s.atomNear m
    | _ => false
  let take := fun (s : Slice) (res : Option CRes) => (s.clCharge m (s.clLines b)).clAccept g b res
  if s.clCredit b then take (s.dropCredit (clusterId m)) ((s.credit? (clusterId m)).map (·.res))
  else
    let s := s.clMismatch b
    match s.clBusy b near with
    | some res => s.clRetry g b (some res)
    | none =>
      if (b.trks near).all s.trkFree && !(near && s.evictBlocked m.line Use.H (clusterId m) 0) then take s none
      else s.clRetry g b none

/-- A REQ that the slice takes from LW. What waits for a raw access or a diagnostic read of its set leaves the set as it is (R119, R746). -/
def Slice.clServe (s : Slice) (g : List (Nat × BitVec 8)) (b : BridgeMsg) : Slice :=
  let m := b.cl
  s.clLive g m s.now fun s =>
    let s := if s.rawAhead (setOf m.line) s.port.nextId then s else s.readDir g m.line
    match b with
    | .req _ .wb | .evc _ =>
      -- R394: answered at once, whether or not the line is busy
      if s.ownerNow m then s.clOrder g b
      else (if s.clCredit b then s.dropCredit (clusterId m) else s.clMismatch b).clStart g b s.now
    | _ => s.clOrder g b

/-! ### Answers of clusters (R386, R391 to R395, R407, R411) -/

/-- An RSP or DAT that matches no open transaction. -/
def Slice.clLate (s : Slice) (m : ClMsg) : Slice :=
  let s := s.bump NS_DIR_EVT.LATEDROP 1
  if s.dead m.cluster.toNat || s.coh.recover.any (fun p => p.1 == m.line) then s else s.setFld NS_DIR_STAT.PROTERR 1

/-- A transaction's snoops ask for dirty data at the home: SNP_S, SNP_INV and SNP_HOME do, SNP_X does not (R387). A snoop of a
request for an exclusive copy goes to an owner as SNP_X. -/
def Slice.dataToHome (s : Slice) (t : Txn) : Bool :=
  match t.kind with
  | .rdX | .upg | .far => !(match s.findEnt t.line with
      | some (_, d) => d.state == Dir.X
      | none => false)
  | _ => true

/-- The data of a transaction comes from the owner (R382). -/
def Slice.ownerSupplies (s : Slice) (t : Txn) (c : Nat) : Bool :=
  (t.kind == .rdS || t.kind == .rdX || t.kind == .upg || t.kind == .far) &&
    (match s.findEnt t.line with
     | some (_, d) => d.state == Dir.X && d.owner == c
     | none => false)

/-- SNP_ACK. -/
def Slice.snpAck (s : Slice) (g : List (Nat × BitVec 8)) (m : ClMsg) (had : Had) (d wbp : Bool) : Slice :=
  let c := m.cluster.toNat
  match s.txn? m.line with
  | none => s.clLate m
  | some t =>
    if !t.snoops.any (fun p => p.1 == c) then s.clLate m
    else
      let due : Int := if d && s.dataToHome t then 1 else 0
      let own := s.ownerSupplies t c && had != .none
      let s := s.modTxn m.line fun u => { u with
        snoops := u.snoops.filter (fun p => p.1 != c), dataDue := u.dataDue + due, fromOwner := u.fromOwner || own,
        hadX := u.hadX || had == .x, wbp := if wbp then u.wbp ||| oneCluster c else u.wbp }
      let s := if !wbp then s
        else match s.credit? (clusterId m) with
          | some k => if k.msg == some 3 && k.pa == clPa m then s.dropCredit (clusterId m) else s
          | none => s
      s.settle g

/-- COMP_ACK. -/
def Slice.compAck (s : Slice) (g : List (Nat × BitVec 8)) (m : ClMsg) : Slice :=
  match s.txn? m.line with
  | none => s.clLate m
  | some t =>
    if t.who != .cluster m.cluster.toNat || !t.granted || !t.compDue || t.kind == .wb then s.clLate m
    else (s.modTxn m.line fun u => { u with compDue := false }).settle g

/-- The causes of data that comes from the LCL without one (R523). -/
def externOf (pois : BitVec 4) : BitVec 12 := reqCauses pois 0

/-- SNP_DATA. What a cluster had of a withdrawn line is discarded (R574). -/
def Slice.snpData (s : Slice) (g : List (Nat × BitVec 8)) (m : ClMsg) (d : LineData) (pois : BitVec 4) : Slice :=
  let c := m.cluster.toNat
  match s.txn? m.line with
  | none => s.clLate m
  | some t =>
    if !bitAt t.snooped c || !s.dataToHome t || !(t.snoops.any (fun p => p.1 == c) || 0 < t.dataDue) then s.clLate m
    else
      let s := if t.kind == .victim && s.withdrawn m.line then s else s.writeHome g m.line d (externOf pois) (s.txnJob t)
      (s.modTxn m.line fun u => { u with dataDue := u.dataDue - 1 }).settle g

/-- WB_DATA. -/
def Slice.wbData (s : Slice) (g : List (Nat × BitVec 8)) (m : ClMsg) (d : LineData) (pois : BitVec 4) : Slice :=
  match s.txn? m.line with
  | none => s.clLate m
  | some t =>
    if t.who != .cluster m.cluster.toNat || t.kind != .wb || !t.compDue then s.clLate m
    else ((s.writeHome g m.line d (externOf pois) (s.txnJob t)).modTxn m.line fun u => { u with compDue := false }).settle g

/-! ### The wing bridge (R33 to R37, R403, R534, R550) -/

/-- The class of a message, in the order of `LwCls`. -/
def BridgeMsg.cls (b : BridgeMsg) : Nat := if b.num < 6 then 0 else if b.num < 8 then 2 else 3

/-- The class of a message by its number. -/
def numCls (n : Nat) : Nat := if n < 6 then 0 else if n < 8 then 2 else 3

/-- Bridge entries toward this slice in use: of a class's reserved ones, and of the shared ones; a granted credit holds its entry
(R35, R403). -/
def Slice.ownUsed (s : Slice) (cls : Nat) : Nat :=
  (s.coh.bridge.filter (fun e => e.slot == .own && e.msg.cls == cls)).length +
    (s.coh.portCred.filter (fun c => c.granted && c.slot == .own && numCls c.msg == cls)).length
def Slice.sharedUsed (s : Slice) : Nat :=
  (s.coh.bridge.filter (fun e => e.slot == .shared)).length +
    (s.coh.portCred.filter (fun c => c.granted && c.slot == .shared)).length

/-- The entry a message of a class takes (R35): a reserved one of its class while one is free, else a shared one. -/
def Slice.bridgeSlot (s : Slice) (cls : Nat) : Option BridgeSlot :=
  if s.ownUsed cls < 8 then some .own else if s.sharedUsed < 32 then some .shared else none

/-- The LCL port grants what it can, in the order of its retries (R403). -/
def Slice.portGrants (s : Slice) : Slice :=
  s.coh.portCred.foldl (fun s c =>
    match (if c.granted then none else s.bridgeSlot (numCls c.msg)) with
    | none => s
    | some slot => (s.modCoh fun q => { q with
        portCred := replaceFirst (fun d => d.cluster == c.cluster) (fun d => { d with granted := true, slot := slot, since := s.now })
          q.portCred }).modOut fun o => { o with sentPort := o.sentPort ++ [.credit c.cluster c.line] }) s

def Slice.portCred? (s : Slice) (c : Nat) : Option PortCred := s.coh.portCred.find? (fun d => d.cluster == c)
def Slice.dropPortCred (s : Slice) (c : Nat) : Slice :=
  s.modCoh fun q => { q with portCred := q.portCred.filter (fun d => d.cluster != c) }

/-- The LCL port turns a message back (R37, R403). Its retry counts in RETRYCR or RETRYNC of the slice the message was for (DEDUCED, assumption
82: R398 applies to the port). -/
def Slice.portRetry (s : Slice) (b : BridgeMsg) : Slice :=
  let c := b.cl.cluster.toNat
  let cr := (s.portCred? c).isNone
  let s := s.modOut fun o => { o with sentPort := o.sentPort ++ [.retry c b.cl.line cr] }
  let s := if s.sys.sclkRuns then s.bump (if cr then NS_DIR_EVT.RETRYCR else NS_DIR_EVT.RETRYNC) 1
    else s.modCoh fun q => if cr then { q with portCr := q.portCr + 1 } else { q with portNc := q.portNc + 1 }
  if !cr then s
  else s.modCoh fun q => { q with
    portCred := q.portCred ++ [{ cluster := c, msg := b.num, op := b.op, pa := b.pa, line := b.cl.line, granted := false, slot := .own, since := s.now }] }

/-- The message with its credit used up at the port. -/
def BridgeMsg.uncred : BridgeMsg → BridgeMsg
  | .req m k => .req { m with cred := false } k
  | .evc m => .evc { m with cred := false }
  | .atom m a => .atom { m with cred := false } a
  | b => b

/-- How a message enters: by the entry its credit holds, by a free entry, by the LW crossing of its own wing, or not at all (none: the port
turns it back or its sender holds it). A credit that does not match the port's reservation releases it, unless the home has reserved one
for the cluster, whose credit it may be (R400, R403). -/
def Slice.enters (s : Slice) (b : BridgeMsg) : Slice × BridgeMsg × Option BridgeSlot :=
  let m := b.cl
  if !s.crosses m.cluster.toNat then
    (s, b, if (s.coh.bridge.filter (fun e => e.slot == .crossing && e.msg.cls == b.cls)).length < 8 then some .crossing else none)
  else match (if m.cred then s.portCred? m.cluster.toNat else none) with
    | some c =>
      if c.msg == b.num && c.op == b.op && c.pa == b.pa then
        (if c.granted then (s.dropPortCred m.cluster.toNat, b.uncred, some c.slot) else (s, b, s.bridgeSlot b.cls))
      else
        let s := if (s.credit? (clusterId m)).isSome then s else (s.dropPortCred m.cluster.toNat).portGrants
        (s, b, s.bridgeSlot b.cls)
    | none => (s, b, s.bridgeSlot b.cls)

/-- A message is taken from LW: its receive credit goes back (R537), and it is handled. -/
def Slice.clHandle (s : Slice) (g : List (Nat × BitVec 8)) (b : BridgeMsg) : Slice :=
  let s := s.lwRxBack b.cls
  match b with
  | .snpAck m had d wbp => s.snpAck g m had d wbp
  | .compAck m => s.compAck g m
  | .snpData m d pois => s.snpData g m d pois
  | .wbData m d pois => s.wbData g m d pois
  | b => s.clServe g b

/-- A message of a cluster. While SCLK stands it waits in its bridge entry or in the LW crossing, and WAKE rises (R550); a message that finds
no entry is turned back at the LCL port (R37). While LW is not released it is left where it is, and so is a request while host coherence is
not ready; an RSP or a DAT is accepted without condition (R390). -/
def Slice.clTake (s : Slice) (g : List (Nat × BitVec 8)) (b : BridgeMsg) : Slice :=
  if !s.flag NS_PORTSTAT.LWRDY || (s.sys.sclkRuns && b.cls == 0 && !s.flag NS_READY.HOSTCOH) then s
  else
    match s.enters b with
    | (s, b, none) => if s.crosses b.cl.cluster.toNat then s.portRetry b else s
    | (s, b, some slot) =>
      if s.sys.sclkRuns then ((s.clHandle g b).settle g).portGrants
      else
        (s.modCoh fun q => { q with bridge := q.bridge ++ [{ msg := b, slot := slot }] }).modSys fun y =>
          { y with sleepAck := false, waking := true }

/-- What waited for the slice to wake is delivered in order, and each freed entry is granted (R36, R550). -/
def Slice.bridgeRuns (s : Slice) (g : List (Nat × BitVec 8)) : Slice :=
  let ms := s.coh.bridge
  let s := (s.bump NS_DIR_EVT.RETRYCR s.coh.portCr).bump NS_DIR_EVT.RETRYNC s.coh.portNc
  let s := s.modCoh fun q => { q with bridge := [], portCr := 0, portNc := 0 }
  (ms.foldl (fun s e => (s.clHandle g e.msg).settle g) s).portGrants

/-- The state in whose cycle a request of a cluster is handled: it enters the pipe of its line's set (R26, R379, R741), unless it is turned
back, waits for the slice to wake or is left where it is. -/
def State.clFor (s : State) (b : BridgeMsg) : State :=
  if s.sl.lwReady && (s.sl.enters b).2.2.isSome then s.pipeTurn (setOf b.cl.line % 2 == 1) false else { s with turn := Turn.own }

/-- A request of a cluster: its meaning. -/
def State.clRequest (s : State) (b : BridgeMsg) : Host.Outcome State Fault Refusal := .next ((s.clFor b).effect fun g sl => sl.clTake g b)

/-- RD_S (R382). -/
def execRdS (m : ClMsg) (s : State) : Host.Outcome State Fault Refusal := s.clRequest (.req m .rdS)

/-- RD_X (R382). -/
def execRdX (m : ClMsg) (s : State) : Host.Outcome State Fault Refusal := s.clRequest (.req m .rdX)

/-- UPG (R382, R383). -/
def execUpg (m : ClMsg) (s : State) : Host.Outcome State Fault Refusal := s.clRequest (.req m .upg)

/-- WB (R393, R394). -/
def execWb (m : ClMsg) (s : State) : Host.Outcome State Fault Refusal := s.clRequest (.req m .wb)

/-- EVC (R393, R394). -/
def execEvc (m : ClMsg) (s : State) : Host.Outcome State Fault Refusal := s.clRequest (.evc m)

/-- ATOM (R369 to R374). -/
def execAtom (m : ClMsg) (a : ClAtom) (s : State) : Host.Outcome State Fault Refusal := s.clRequest (.atom m a)

/-- SNP_ACK (R387, R391). -/
def execSnpAck (m : ClMsg) (had : Had) (d wbp : Bool) (s : State) : Host.Outcome State Fault Refusal :=
  s.run fun g sl => sl.clTake g (.snpAck m had d wbp)

/-- COMP_ACK (R392). -/
def execCompAck (m : ClMsg) (s : State) : Host.Outcome State Fault Refusal := s.run fun g sl => sl.clTake g (.compAck m)

/-- SNP_DATA (R386). -/
def execSnpData (m : ClMsg) (data : LineData) (pois : BitVec 4) (s : State) : Host.Outcome State Fault Refusal :=
  s.run fun g sl => sl.clTake g (.snpData m data pois)

/-- WB_DATA (R393). -/
def execWbData (m : ClMsg) (data : LineData) (pois : BitVec 4) (s : State) : Host.Outcome State Fault Refusal :=
  s.run fun g sl => sl.clTake g (.wbData m data pois)

/-! ### Timeouts (R401, R405, R416) -/

/-- A field of NS_DIR_CTL as an exponent: below 12 it acts as 12. -/
def Slice.snpTimeout (s : Slice) : Nat := 2 ^ max 12 (s.fld NS_DIR_CTL.SNPTOEXP)
def Slice.credTimeout (s : Slice) : Nat := 2 ^ max 12 (s.fld NS_DIR_CTL.CREDTOEXP)

/-- A snoop of the line to the cluster has been unanswered for the snoop timeout. -/
def Slice.snoopTimedOut (s : Slice) (m : ClMsg) : Slice :=
  let c := m.cluster.toNat
  match s.txn? m.line with
  | none => s
  | some t =>
    if bitAt t.timedOut c || !t.snoops.any (fun p => p.1 == c && s.snpTimeout ≤ s.now - p.2) then s
    else
      let s := (s.setFld NS_DIR_STAT.SNPTO 1).setFld NS_DIR_STAT.TOCLUSTER c
      (s.irqSet NS_IRQ_STAT.DIR).modTxn m.line fun u => { u with timedOut := u.timedOut ||| oneCluster c }

/-- A credit of the LCL port has not been used within the credit timeout (R401, R403). -/
def Slice.portExpired (s : Slice) (c : Nat) : Slice :=
  match s.portCred? c with
  | some d =>
    if d.granted && s.credTimeout ≤ s.now - d.since then ((s.dropPortCred c).bump NS_DIR_EVT.CREDLOST 1).portGrants else s
  | none => s

/-- A granted credit has not been used within the credit timeout; no counter advances while SCLK stands (R547). -/
def Slice.creditExpired (s : Slice) (g : List (Nat × BitVec 8)) (id : Nat) : Slice :=
  if !s.sys.sclkRuns then s
  else
    let s := if 144 ≤ id then s.portExpired (id - 144) else s
    match s.credit? id with
    | some c =>
      if c.granted && s.credTimeout ≤ s.now - c.since then ((s.dropCredit id).bump NS_DIR_EVT.CREDLOST 1).settle g else s
    | none => s

/-- SNOOP_TIMEOUT (R405). -/
def execSnoopTimeout (m : ClMsg) (s : State) : Host.Outcome State Fault Refusal := s.run fun _ sl => sl.snoopTimedOut m

/-- CREDIT_TIMEOUT (R401). -/
def execCreditTimeout (reqid : BitVec 8) (s : State) : Host.Outcome State Fault Refusal :=
  s.run fun g sl => sl.creditExpired g reqid.toNat

end Sys2Proof.Machine
end

