-- ==== Sys2Proof/Machine/Engine.lean ====
section
/-! DEFINITION. The commands of the bulk engine, one meaning a row: the next line of each opcode, the start, pre-emption and
translation of commands, and completion records (R153 to R186). -/

namespace Sys2Proof.Machine

/-- The active FILL writes its next line (R175). -/
def execFill (s : State) : Host.Outcome State Fault Refusal :=
  s.run fun g sl => (sl.bulkIssue g (some BOp.FILL) none).settle g

/-- The active COPY issues its next line (R176, R177). -/
def execCopy (s : State) : Host.Outcome State Fault Refusal :=
  s.run fun g sl => (sl.bulkIssue g (some BOp.COPY) none).settle g

/-- The active snapshot save writes its next image line (R180 to R184, R186). -/
def execSnapshotSave (s : State) : Host.Outcome State Fault Refusal :=
  s.run fun g sl => (sl.bulkIssue g (some BOp.SNAPSHOT) (some false)).settle g

/-- The active snapshot restore reads its next image line (R180, R183). -/
def execSnapshotRestore (s : State) : Host.Outcome State Fault Refusal :=
  s.run fun g sl => (sl.bulkIssue g (some BOp.SNAPSHOT) (some true)).settle g

/-- The active scatter-reduce issues its next line (R158, R177). -/
def execScatterReduce (s : State) : Host.Outcome State Fault Refusal :=
  s.run fun g sl => (sl.bulkIssue g (some BOp.SCATTER) none).settle g

/-- The active broadcast-invalidate sends its next page (R111, R115, R179). -/
def execBinv (s : State) : Host.Outcome State Fault Refusal :=
  s.run fun g sl => (sl.bulkIssue g (some BOp.BINV) none).settle g

/-- The engine issues the next line of its active command, whatever its opcode (R162, R163). -/
def execBulkLineIssue (s : State) : Host.Outcome State Fault Refusal :=
  s.run fun g sl => (sl.bulkIssue g none none).settle g

/-- The engine makes the next command active and checks it (R153, R159 to R161). -/
def execBulkCommandStart (s : State) : Host.Outcome State Fault Refusal := s.run fun g sl => sl.bulkStart.settle g

/-- An urgent command pre-empts the active one (R154). -/
def execBulkPreempt (s : State) : Host.Outcome State Fault Refusal := s.run fun g sl => sl.bulkPreempt.settle g

/-- The IOMMU maps a page of the active command (R162). -/
def execTranslationDone (va pa : BitVec 64) (s : State) : Host.Outcome State Fault Refusal :=
  s.run fun g sl => (sl.bulkMapped va pa).settle g

/-- The IOMMU faults at a page of the active command (R164). -/
def execIommuFault (va : BitVec 64) (s : State) : Host.Outcome State Fault Refusal :=
  s.run fun g sl => (sl.bulkFault va).settle g

/-- The next completion record is written or dropped (R171 to R174, R310). -/
def execCompletionRecord (cpl : Option (BitVec 52)) (s : State) : Host.Outcome State Fault Refusal :=
  s.run fun g sl => (sl.writeRecord g cpl).settle g

end Sys2Proof.Machine
end

