-- ==== Sys2Proof/Machine/Replies.lean ====
section
/-! DEFINITION. What reaches the slice from outside in answer to what it sent: replies to issued requests (R617 to R620), channel and
host data (R385, R532, R571, R584), loan invalidations and confirmations (R40, R43, R106), tile acknowledgements (R530) and credits. -/

namespace Sys2Proof.Machine

/-! ### Memory operations end -/

/-- The data of a memory read goes where it was wanted. -/
def Slice.opData (s : Slice) (g : List (Nat × BitVec 8)) (o : MemOp) (d : LineData) (pz : BitVec 12) : Slice :=
  let s := s.dropOp o.id
  match o.why with
  | .trk id => s.fillArrived g id d pz
  | .txn l => s.txnData g l d pz
  | .restore c vl => s.restoreLine g c vl o.line d pz
  | .fill w n => if tagBUSY (s.tag w n) && tagTAG (s.tag w n) == o.line then s.fillWay w n d pz else s
  | .image _ | .save | .wb | .home _ | .evict _ _ | .none => s

/-- Causes of a proxy read of a reserve line: a sector its channel could not read is delivered with cause MAPOUT (R571). -/
def reserveCauses (pz : BitVec 12) : BitVec 12 :=
  (List.range 4).foldl (fun z i => if causeAt z i = Cause.ECC then setCause z i Cause.MAPOUT else z) pz

/-- A proxy is answered (R569). One answered with an error status returned no data, and its sectors are poisoned with cause MAPOUT
or ECC. -/
def Slice.proxyDone (s : Slice) (g : List (Nat × BitVec 8)) (id : Nat) (m : RepMsg) : Slice :=
  match s.chan.ops.find? (fun o => o.id == id) with
  | none => s
  | some o =>
    if o.write then s.dropOp id
    else
      let pz := if m.status.toNat = Stat.ACK then reqCauses m.pois m.pcause else allCause Cause.ECC
      let pz := if s.inHbm o.line && chanSlice o.line == (s.die, s.num) then reserveCauses pz else pz
      s.opData g o m.data pz

/-! ### Replies (R617, R620) -/

/-- The message is the last of its request: not HELD, not the die-level acknowledgement alone, and the last part (R434, R457,
R525). -/
def repFinal (m : RepMsg) : Bool :=
  m.status.toNat != Stat.HELD && m.acklvl != 1 && (m.npart.toNat ≤ m.part.toNat + 1)

/-- A reply whose entry is not open is dropped (R620). -/
def Slice.lateReply (s : Slice) : Slice := (s.bump NS_RC_STALE.LATE 1).ev Ev.STALE 1

/-- Close an issue entry. -/
def Slice.closeEntry (s : Slice) (e : Nat) : Slice := s.modOut fun o => { o with issue := o.issue.filter (fun i => i.entry != e) }

/-- What the reply does, by why its request was issued; true when the entry closes. A COPY's line write that is answered with an error status is
done with it (DESIGN CHOICE, assumption 143). -/
def Slice.answerWhy (s : Slice) (g : List (Nat × BitVec 8)) (i : Issue) (m : RepMsg) : Slice × Bool :=
  let st := m.status.toNat
  match i.why with
  | .fwd id =>
    match s.trk? id with
    | some t => s.forwardReply g t m
    | none => (s, repFinal m)
  | .proxy op => if repFinal m then (s.proxyDone g op m, true) else (s, false)
  | .arrival n => (s.fwdAnswer g n st, true)
  | .seal k n => if repFinal m then (s.releaseAnswer g k n st, true) else (s, false)
  | .bulkRd c o => (s.bulkReadDone g c o m, true)
  | .bulkWr c o => if repFinal m then (s.bulkDone c o, true) else (s, false)
  | .bulkRed c o => (s.bulkArrived c o st, true)
  | .record id => if repFinal m then (s.recordDone id, true) else (s, false)
  | .incr => (s, true)
  | .tinv _ _ => (s, false)

/-- A reply reaches the slice on MI or DD: the tag's entry and epoch say which request it answers. -/
def Slice.replyIn (s : Slice) (g : List (Nat × BitVec 8)) (m : RepMsg) : Slice :=
  match s.out.answering m.tag with
  | none => s.lateReply
  | some i =>
    if i.orphan then (if repFinal m then s.lateReply.closeEntry i.entry else s.lateReply)
    else
      let (s, done) := s.answerWhy g i m
      if done then s.closeEntry i.entry else s

/-- MI takes a beat once the mesh port is released; it accepts every beat as it arrives (R529, R552). -/
def Slice.miTakes (s : Slice) : Bool := s.flag NS_PORTSTAT.MESHRDY && s.sys.sclkRuns
/-- DD takes a message once it is released. -/
def Slice.ddTakes (s : Slice) : Bool := s.flag NS_PORTSTAT.DDRDY && s.sys.sclkRuns

def Slice.miReply (s : Slice) (g : List (Nat × BitVec 8)) (m : RepMsg) : Slice :=
  if s.miTakes then (s.stir.replyIn g m).settle g else s

def Slice.ddReplyIn (s : Slice) (g : List (Nat × BitVec 8)) (m : RepMsg) : Slice :=
  if !s.ddTakes then s
  else
    -- the command names the reply's tag alone: the credit goes back to the die that its open entry names
    let s := match s.out.answering m.tag with
      | some i => s.ddRxBack i.die DdCls.drsp.num
      | none => s.stir
    (s.replyIn g m).settle g

/-- A home's reply or acknowledgement to a forwarded request (R29, R41, R430, R434, R538). -/
def execDdReply (m : RepMsg) (s : State) : Host.Outcome State Fault Refusal := s.run fun g sl => sl.ddReplyIn g m

/-- The answer to a forward arrival (R302). -/
def execForwardReply (m : RepMsg) (s : State) : Host.Outcome State Fault Refusal := s.run fun g sl => sl.miReply g m

/-- The home's answer to a released sealed write (R458, R462). -/
def execSealReleaseReply (m : RepMsg) (s : State) : Host.Outcome State Fault Refusal := s.run fun g sl => sl.miReply g m

/-- The reply to a proxy access (R569, R571). -/
def execProxyReply (m : RepMsg) (s : State) : Host.Outcome State Fault Refusal := s.run fun g sl => sl.miReply g m

/-- A destination's answer to a bulk line request (R172, R178). -/
def execBulkLineReply (m : RepMsg) (s : State) : Host.Outcome State Fault Refusal := s.run fun g sl => sl.miReply g m

/-- A reply to another request the slice issued (R620). -/
def execIssuedReply (m : RepMsg) (s : State) : Host.Outcome State Fault Refusal := s.run fun g sl => sl.miReply g m

/-! ### Tile acknowledgements (R112, R530) -/

/-- A tile acknowledges a range invalidation; the page's entry closes with its last tile. -/
def Slice.tileAcked (s : Slice) (g : List (Nat × BitVec 8)) (tile : Nat) (tag : BitVec 12) : Slice :=
  if !s.miTakes then s
  else
    let s := s.stir
    match s.out.answering tag with
    | none => s.lateReply
    | some i =>
      match i.why with
      | .tinv c page =>
        let left := i.acks - 1
        let s := s.modOut fun o => { o with issue := replaceFirst (fun j => j.entry == i.entry) (fun j => { j with acks := left }) o.issue }
        if i.orphan then (if left = 0 then s.lateReply.closeEntry i.entry else s.lateReply)
        else
          let (s, done) := s.tileAck c page ((1 : BitVec 144) <<< tile)
          (if done then s.closeEntry i.entry else s).settle g
      | _ => s.lateReply

/-- A tile acknowledges a range invalidation. -/
def execTileInvAck (tile : BitVec 8) (tag : BitVec 12) (s : State) : Host.Outcome State Fault Refusal :=
  s.run fun g sl => sl.tileAcked g tile.toNat tag

/-! ### Channel and host data -/

/-- The causes of channel data: a sector with HC_RERR has cause ECC (R584). -/
def rerrCauses (rerr : BitVec 4) : BitVec 12 :=
  (List.range 4).foldl (fun z i => if bitAt rerr i then setCause z i Cause.ECC else z) 0

/-- The two beats of one channel read arrive, the first with the line's bytes 0 to 63 (R531, R532; `hcLine`). Data that no operation waits
for is discarded. -/
def Slice.channelData (s : Slice) (g : List (Nat × BitVec 8)) (otag : Nat) (d : LineData) (rerr : BitVec 4) : Slice :=
  if !s.flag NS_PORTSTAT.MEMRDY || !s.sys.sclkRuns then s
  else
    let s := s.stir
    match s.chan.ops.find? (fun o => o.otag == some otag) with
    | none => s
    | some o =>
      let n := ((List.range 4).filter (fun i => bitAt rerr i)).length
      let s := if n = 0 then s else (s.bump NS_ECC_EVT.CHUE n).setFld NS_ECC_STAT.CHUE 1
      (s.opData g o d (rerrCauses rerr)).settle g

/-- Read beats arrive from the channel. -/
def execHcReadBeat (otag : BitVec 7) (data : LineData) (rerr : BitVec 4) (s : State) : Host.Outcome State Fault Refusal :=
  s.run fun g sl => sl.channelData g otag.toNat data rerr

/-- Host DRAM data arrives on the MEM class for the oldest read of the line (R385, R536). -/
def Slice.hostData (s : Slice) (g : List (Nat × BitVec 8)) (l : LineAddr) (d : LineData) (pois : BitVec 4) : Slice :=
  if !s.flag NS_PORTSTAT.LWRDY || !s.sys.sclkRuns then s
  else
    let s := s.lwRxBack LwCls.mem.num
    match s.chan.ops.find? (fun o => !o.write && o.sent == some (.host l)) with
    | none => s
    | some o => (s.opData g o d (reqCauses pois 0)).settle g

/-- Host DRAM data arrives. -/
def execMemData (line : LineAddr) (data : LineData) (pois : BitVec 4) (s : State) : Host.Outcome State Fault Refusal :=
  s.run fun g sl => sl.hostData g line data pois

/-! ### Loan invalidations -/

/-- A home invalidates this slice's loan copy of a line: the copy goes, a pending fill is served but not allocated, and the
invalidation is confirmed whether or not there was a copy (R43, R106, R108, R109). In safe mode no O way is looked at (R47). -/
def Slice.invalidated (s : Slice) (g : List (Nat × BitVec 8)) (die : Nat) (l : LineAddr) : Slice :=
  if !s.ddTakes then s
  else
    let set := setOf l
    let s := (s.ddRxBack die DdCls.dinv.num).checkSetTags set
    let s := (if s.safe then [] else s.waysOf Use.O).foldl (fun s w =>
      if tagSV (s.tag w set) != 0 && tagTAG (s.tag w set) == l then s.setTag w set (setSV (s.tag w set) 0) else s) s
    let mark := fun (t : Trk) => if t.key != .pa l || t.kind != .read then t
      else { t with closed := true, noAlloc := t.noAlloc || t.stage == .fwd }
    let s := s.modPort fun p => { p with trks := p.trks.map mark }
    (s.emit g (.dd (.confirm die l)) (s.bgJob (.pa l))).settle g

/-- A loan invalidation arrives. -/
def execDinv (die : BitVec 3) (line : LineAddr) (s : State) : Host.Outcome State Fault Refusal :=
  s.run fun g sl => sl.invalidated g die.toNat line

/-- Clear a die's bit in the loan vector of a line's L way. -/
def Slice.clearLoan (s : Slice) (l : LineAddr) (die : Nat) : Slice :=
  let set := setOf l
  (s.waysOf Use.L).foldl (fun s w =>
    if tagSV (s.tag w set) != 0 && tagTAG (s.tag w set) == l then
      s.modMem fun m => m.setLoan w set (m.loanAt w set &&& ~~~((1 : BitVec 8) <<< die))
    else s) s

/-- A die that has asked for the line since it was told to invalidate it is told once more, and its confirmation stays due (R40;
`Slice.invAgain`). -/
def Slice.resendInv (s : Slice) (g : List (Nat × BitVec 8)) (die : Nat) (l : LineAddr) : Slice :=
  let left := fun (v : BitVec 8) => v &&& ~~~((1 : BitVec 8) <<< die)
  (s.modPort fun p => { p with again := (p.again.map fun q => if q.1 == l then (l, left q.2) else q).filter (·.2 != 0) }).emit g
    (.dd (.inv die l)) (s.bgJob (.pa l))

/-- An exit slice confirms an invalidation: the die's loan bit is cleared, and with the last confirmation what waited goes on (R40 to
R42, R84). A confirmation that is not due is taken and changes nothing. -/
def Slice.confirmed (s : Slice) (g : List (Nat × BitVec 8)) (die : Nat) (l : LineAddr) : Slice :=
  let due := s.invDue l
  if !s.ddTakes then s
  else if !bitAt due die then s.ddRxBack die DdCls.drsp.num
  else if s.port.again.any (fun q => q.1 == l && bitAt q.2 die) then ((s.ddRxBack die DdCls.drsp.num).resendInv g die l).settle g
  else
    let left := due &&& ~~~((1 : BitVec 8) <<< die)
    let s := (s.ddRxBack die DdCls.drsp.num).clearLoan l die
    let s := s.modPort fun p => { p with
      invs := if left = 0 then p.invs.filter (fun q => q.1 != l) else replaceFirst (fun q => q.1 == l) (fun _ => (l, left)) p.invs }
    let s := if left = 0 then s.modBulk fun b => { b with left := b.left.filter (· != l) } else s
    s.settle g

/-- A loan invalidation is confirmed. -/
def execInvConfirm (die : BitVec 3) (line : LineAddr) (s : State) : Host.Outcome State Fault Refusal :=
  s.run fun g sl => sl.confirmed g die.toNat line

/-! ### Credits (R527, R528, R531, R535, R539, R553) -/

/-- Count a credit up to the port's full number. -/
def Slice.creditBack (s : Slice) (f : Fld) (full : Nat) : Slice := s.stir.setFld f (min full (s.fld f + 1))

/-- HC_CRRET. -/
def execHcCreditReturn (s : State) : Host.Outcome State Fault Refusal :=
  s.run fun _ sl => if sl.flag NS_PORTSTAT.MEMRDY then sl.creditBack NS_PORTSTAT.HCCRED 96 else sl

/-- MR_CRRET. -/
def execMrCreditReturn (s : State) : Host.Outcome State Fault Refusal :=
  s.run fun _ sl => if sl.flag NS_PORTSTAT.MESHRDY then sl.creditBack NS_PORTSTAT.MRCRED 32 else sl

/-- MO_CRRET. -/
def execMoCreditReturn (s : State) : Host.Outcome State Fault Refusal :=
  s.run fun _ sl => if sl.flag NS_PORTSTAT.MESHRDY then sl.creditBack NS_PORTSTAT.MOCRED 32 else sl

/-- One LW transmit credit. -/
def execLwCreditReturn (cls : LwCls) (s : State) : Host.Outcome State Fault Refusal :=
  s.run fun _ sl => if sl.flag NS_PORTSTAT.LWRDY then sl.stir.modOut fun o => { o with lwCred := addAt o.lwCred cls.num 1 8 } else sl

/-- One DD credit. -/
def execDdCreditReturn (die : BitVec 3) (cls : DdCls) (s : State) : Host.Outcome State Fault Refusal :=
  s.run fun _ sl =>
    if sl.flag NS_PORTSTAT.DDRDY then sl.stir.modOut fun o => { o with ddCred := addAt o.ddCred (die.toNat * 3 + cls.num) 1 16 } else sl

end Sys2Proof.Machine
end

