-- ==== Sys2Proof/Machine/RegAccess.lean ====
section
/-! DEFINITION. Register accesses at the control port (R14 to R18, R689 to R695, R720 to R729): what a write starts, the write itself with
its provenance entry, the read, and the alias page of user code. -/

namespace Sys2Proof.Machine

/-! ### The control port -/

/-- CT takes accesses and control messages (R540, R552, R642). -/
def Slice.ctTakes (s : Slice) : Bool := s.flag NS_PORTSTAT.CTRDY && s.sys.sclkRuns && s.sys.inReset.isNone

/-- A response: its code, the access's tag and, for a read, the data. The access has passed a crossing, so the wait of R549 starts afresh;
the count of R654 goes on, or no read could ever show VALID (assumption 45). -/
def Slice.ctAnswer (s : Slice) (code : Nat) (a : CtAcc) (d : Word) : Slice :=
  (s.modMeas fun q => { q with drowsy := 0 }).modOut fun o => { o with sentCT := o.sentCT ++ [(BitVec.ofNat 2 code, a.tag, d)] }

/-- The data of a read: a 32-bit read returns its half in the low half. -/
def ctData (a : CtAcc) (w : Word) : Word := if a.half then (if a.upper then w >>> 32 else w &&& 0xFFFFFFFF) else w

/-! ### Readiness and the handshake (R644, R648 to R651) -/

/-- The bits of NS_READY that follow the released ports and RESULT. -/
def Slice.readiness (s : Slice) : Slice :=
  let mesh := s.flag NS_PORTSTAT.MESHRDY
  let ok := s.fld NS_FWIF.RESULT == 1 || s.fld NS_FWIF.RESULT == 2
  let s := (s.setFld NS_READY.CACHE (b2n mesh)).setFld NS_READY.UPDATE (b2n mesh)
  let s := (s.setFld NS_READY.VITRINE (b2n (mesh && ok))).setFld NS_READY.REDUCE (b2n (mesh && ok))
  s.setFld NS_READY.HOSTCOH (b2n (s.flag NS_PORTSTAT.LWRDY && ok))

/-- The features of R649 whose level is above `common`. -/
def featuresAbove (common : Nat) : Nat := if common = 0 then 0x1F else if common = 1 then 0x18 else 0

/-- GO of the handshake. -/
def Slice.handshake (s : Slice) : Slice :=
  let s :=
    if s.fld NS_FWIF.FWMAJ != s.fld NS_FWIF.IMGMAJ then
      (((s.setFld NS_FWIF.RESULT 3).setFld NS_FWIF.COMMON 0).setFld NS_FWIF_FEAT.DISABLED (s.fld NS_FWIF_FEAT.PRESENT)).setFld
        NS_READY.SAFE 1
    else
      let fw := s.fld NS_FWIF.FWMIN
      let img := s.fld NS_FWIF.IMGMIN
      ((s.setFld NS_FWIF.RESULT (if fw = img then 1 else 2)).setFld NS_FWIF.COMMON (min fw img)).setFld NS_FWIF_FEAT.DISABLED
        (featuresAbove (min fw img))
  s.readiness

/-! ### What a write starts -/

/-- The request of a command submitted through NS_GRPOPEN (R265); its data are the staged descriptor. -/
def Slice.stagedReq (s : Slice) (g : List (Nat × BitVec 8)) (a : CtAcc) : Req :=
  let ctx := BitVec.ofNat 12 (s.fld NS_GRPOPEN.CTX)
  { Req.zero with
    ctx := ctx, gen := genOf g ctx, cls := BitVec.ofNat 3 (s.fld NS_GRPOPEN.CLASS), reqid := BitVec.ofNat 8 (192 + s.num),
    srcdie := BitVec.ofNat 3 s.die, priv := a.priv, mask := fullMask, group := BitVec.ofNat 6 (s.fld NS_GRPOPEN.GROUP),
    data := (List.range 16).foldl (fun (d : LineData) i => d ||| ((s.rd (Reg.NS_GRPDESC i)).setWidth 1024 <<< (64 * i))) 0 }

/-- GO of NS_GRPOPEN (R312). Without the reduction function it is answered as R645 answers a request. -/
def Slice.submitGroup (s : Slice) (g : List (Nat × BitVec 8)) (a : CtAcc) : Slice :=
  let s := s.setFld NS_GRPOPEN.BUSY 1
  let who : GrpAsker := { staged := true, req := s.stagedReq g a, born := s.now, ord := s.port.nextId }
  if s.flag NS_READY.REDUCE then (s.grpCommand g who).settle g else s.grpAnswer g who Stat.NOT_READY

/-- Take mapped-out tiles out of a range invalidation that has not left. -/
def pruneOut (m : BitVec 144) (q : OReq) : OReq :=
  match q.why with
  | .tinv _ _ => { q with req := { q.req with
      mask := q.req.mask &&& ~~~(m.extractLsb' 0 128),
      aux := q.req.aux &&& ~~~((m.extractLsb' 128 16).setWidth 64) } }
  | _ => q

/-- Tiles whose distance entry has become 0xFF are awaited no longer (R115). -/
def Slice.pruneTiles (s : Slice) : Slice :=
  let m := s.mappedOut
  let prune := fun (i : OutItem) => match i.msg with
    | .req q => { i with msg := .req (pruneOut m q) }
    | _ => i
  let s := s.modOut fun o => { o with outq := o.outq.map prune }
  s.bulk.cmds.foldl (fun s c => c.tiles.foldl (fun s p =>
    let (s, done) := s.tileAck c.id p.1 m
    if !done then s
    else
      let mine := fun (w : Why) => w == .tinv c.id p.1
      s.modOut fun o => { o with
        issue := o.issue.filter (fun i => i.orphan || !mine i.why)
        outq := o.outq.filter (fun i => match i.msg with
          | .req q => !mine q.why
          | _ => true) }) s) s

/-- GO of a reclaim (R406 to R408). -/
def Slice.reclaimStart (s : Slice) (g : List (Nat × BitVec 8)) : Slice :=
  let c := s.fld NS_DIR_RECLAIM.CLUSTER
  let s := (s.setFld ⟨Reg.NS_DIR_DEADMASK, c, 1⟩ 1).setFld NS_DIR_STAT.RECLBUSY 1
  let s := s.modCoh fun q => { q with
    reclaim := some c, reclCleared := 0, reclPoisoned := 0, portCred := q.portCred.filter (fun d => d.cluster != c) }
  ((s.reapTxns g c).dropCredit (144 + c)).settle g

/-- NS_RST_CAUSE.CLR (R634, R670). -/
def Slice.clearCauses (s : Slice) : Slice :=
  ((s.setFld NS_RST_CAUSE.SEEN 0).wr Reg.NS_RST_CNT0 0).wr Reg.NS_RST_CNT1 0

/-- GO of a diagnostic read (R746): it takes its number in the order of acceptance. -/
def Slice.diagStart (s : Slice) : Slice :=
  ((s.setFld NS_DG_SEL.BUSY 1).modWalk fun q => { q with diag := some s.port.nextId }).modPort fun p => { p with nextId := p.nextId + 1 }

/-- GO of a block reset (R639). -/
def Slice.blockStart (s : Slice) : Slice :=
  ((s.setFld NS_RC_BLK.BUSY 1).setFld NS_RC_BLK.IDLEREQ 1).modSys fun y => { y with blockSince := some s.now }

/-- Raw accesses asked for by a write of NS_ECC_CBCTL. -/
def Slice.rawAsked (s : Slice) (rd wr : Bool) : Slice :=
  let s := if rd then s.rawStart false else s
  if wr then s.rawStart true else s

/-- What a write of the register does beside its fields: `old` and `new` are the register before and after it, W1S bits included. -/
def Slice.writeEffect (s : Slice) (g : List (Nat × BitVec 8)) (off : Nat) (a : CtAcc) (old new : Word) : Slice :=
  let set := fun (f : Fld) => fldOf new f == 1
  if off = Reg.NS_IRQ_SET then s.wr Reg.NS_IRQ_STAT (s.rd Reg.NS_IRQ_STAT ||| new)
  else if off = Reg.NS_FWIF then (if set NS_FWIF.GO then s.handshake else s)
  else if off = Reg.NS_CLKCTL then
    (if set NS_CLKCTL.SLEEP then s else s.modSys fun y => { y with woken := false })
  else if off = Reg.NS_WAYCHG then (if set NS_WAYCHG.GO then s.wayStart else s)
  else if off = Reg.NS_DIST_CTL then
    (if fldOf old NS_DIST_CTL.BUSY != fldOf new NS_DIST_CTL.BUSY then
      s.setFld NS_DIST_CTL.SEQ (s.fld NS_DIST_CTL.SEQ + 1) else s)
  else if 0x1100 ≤ off && off < 0x1190 then s.pruneTiles.settle g
  else if off = Reg.NS_BLK_CTL then (if set NS_BLK_CTL.ABORT then s.bulkAbort.settle g else s)
  else if off = Reg.NS_GRPOPEN then (if set NS_GRPOPEN.GO then s.submitGroup g a else s)
  else if off = Reg.NS_UU_CTL then (if set NS_UU_CTL.PREDCLR then s.modMem fun m => { m with pred := [] } else s)
  else if off = Reg.NS_DIR_RECLAIM then (if set NS_DIR_RECLAIM.GO then s.reclaimStart g else s)
  else if 0x6800 ≤ off && off < 0x7000 then
    let k := (off - 0x6800) / 8
    (if fldOf old (NS_ACCN_TARGET.EN k) = 1 && getBits (~~~(ctWord a) &&& ctMask a) 63 1 == 1 then s.disableCounter g k else s)
  else if 0x7800 ≤ off && off < 0x8000 then s.noteBudget ((off - 0x7800) / 8)
  else if off = Reg.NS_CH_MAPLIST then s.setFld NS_PL_STACKLIM.VISCH (32 - s.fld NS_CH_MAPLIST.COUNT)
  else if off = Reg.NS_CH_MAPCTL then
    let s := if set NS_CH_MAPCTL.PREP then (s.prepStart g).settle g else s
    (if set NS_CH_MAPCTL.SAVE then (s.saveStart g).settle g else s)
  else if off = Reg.NS_ECC_QUAR then
    let s := if set NS_ECC_QUAR.QSET then (s.quarSet g).settle g else s
    (if set NS_ECC_QUAR.QCLR then s.quarClear.settle g else s)
  else if off = Reg.NS_ECC_CBCTL then (s.rawAsked (set NS_ECC_CBCTL.RAWRD) (set NS_ECC_CBCTL.RAWWR)).settle g
  else if off = Reg.NS_RC_BLK then (if set NS_RC_BLK.GO then s.blockStart else s)
  else if off = Reg.NS_RC_WB then (if set NS_RC_WB.GO then s.wbStart else s)
  else if off = Reg.NS_RC_CREDREL then
    (if set NS_RC_CREDREL.GO then (s.dropCredit (s.fld NS_RC_CREDREL.REQID)).settle g else s)
  else if off = Reg.NS_RST_CAUSE then (if set NS_RST_CAUSE.CLR then s.clearCauses else s)
  else if 0xA080 ≤ off && off < 0xA0C0 then
    let i := (off - 0xA080) / 8
    let clears := fldOf (ctWord a &&& ctMask a) (NS_CNT_PMC.OVF i) == 1
    s.modMeas fun q => { q with
      pmcWritten := q.pmcWritten ++ [(i, if clears then some (fldOf old (NS_CNT_PMC.COUNT i)) else none)] }
  else if off = Reg.NS_PV_SPILL then (s.wr Reg.NS_PV_SPILLWP 0).wr Reg.NS_PV_SPILLRP 0
  else if off = Reg.NS_DG_SEL then (if set NS_DG_SEL.GO then s.diagStart else s)
  else s

/-! ### The write (R693, R694, R723, R724, R726, R729) -/

/-- The bits that writes may change. -/
def writableBits (fs : List FieldRow) : Word :=
  fs.foldl (fun w f => match f.acc with
    | .ro | .rc => w
    | _ => w ||| f.bits) 0

/-- A write of 0 to EN of a counter that is RELEASING takes effect when the release ends (R469). -/
def Slice.keepEnable (s : Slice) (off : Nat) (old new : Word) : Word :=
  if 0x6800 ≤ off && off < 0x7000 && fldOf old (NS_ACCN_TARGET.EN ((off - 0x6800) / 8)) = 1 &&
      s.accState ((off - 0x6800) / 8) = AccSt.RELEASING then
    putFld new (NS_ACCN_TARGET.EN ((off - 0x6800) / 8)) 1
  else new

/-- A write that changes the register makes an entry, but for POP and NS_PV_SPILLRP (R693). -/
def loggedWrite (off : Nat) (old new : Word) : Bool :=
  off != Reg.NS_PV_SPILLRP && (old ^^^ new) &&& (if off = Reg.NS_PV_CTL then ~~~1 else BitVec.allOnes 64) != 0

/-- The WRITE entry of a register write (R696). -/
def Slice.writeEntry (s : Slice) (off : Nat) (a : CtAcc) (old new : Word) : PvEntry :=
  { stamp := s.rd Reg.NS_CNT_CYCLE, old := old, new := new, seq := 0, kind := 0, priv := a.priv, origin := a.origin,
    offset := BitVec.ofNat 16 off }

/-- A write takes effect: its entry, its fields, then what it starts, with the slice's own changes entered after it (R695). `err` is an
event that is recorded beside it. A write of NS_PV_CTL with POP = 1 that changes MODE makes its entry first and pops then (assumption
122). -/
def State.storeReg (s : State) (off : Nat) (a : CtAcc) (fs : List FieldRow) (old new : Word) (err : Option Nat) : State :=
  let wm := writableBits fs
  let word := ((s.sl.rd off &&& ~~~wm) ||| (new &&& wm)) &&& ~~~(takenBits off fs)
  let p := if loggedWrite off old new then s.prov.enter (s.sl.flag NS_PV_CTL.MODE) (s.sl.writeEntry off a old new) else s.prov
  let p := if off = Reg.NS_PV_CTL && bitAt new 0 then { p with held := p.held.tail } else p
  { s with sl := s.sl.wr off word, prov := p }.effect fun g sl =>
    let sl := match err with
      | some c => sl.errReg c off a
      | none => sl
    (sl.writeEffect g off a old new).ctAnswer 0 a 0

/-- Step 4 of R720 for a write. -/
def State.writeReg (s : State) (off : Nat) (a : CtAcc) (fs : List FieldRow) : State :=
  let old := s.view off
  let lock := s.sl.flag (lockOf off)
  let locked := lock && fs.any fun f => f.acc == .rwl && f.bits &&& ctMask a != 0
  let new := s.sl.keepEnable off old (writeFields fs lock (ctWord a) (ctMask a) old)
  match s.sl.judgeWrite off a old new with
  | .ignored c => s.effect fun _ sl => (sl.errReg c off a).ctAnswer 0 a 0
  | .but w => s.storeReg off a fs old w (some ErrCode.REGVAL)
  | .ok => s.storeReg off a fs old new (if locked then some ErrCode.LOCKED else none)

/-- A register write is judged in the order of R720. -/
def State.writeJudged (s : State) (off : Nat) (a : CtAcc) : State :=
  if off % 8 != 0 then s.effect fun _ sl => (sl.errReg ErrCode.ACCESS off a).ctAnswer 1 a 0
  else if a.priv.toNat < s.sl.needPriv off true a then s.effect fun _ sl => (sl.errReg ErrCode.PRIV off a).ctAnswer 2 a 0
  else match regFields off with
    | none => s.effect fun _ sl => sl.ctAnswer 0 a 0
    | some fs => s.writeReg off a fs

/-- The state in whose cycle a register access is judged, where CT takes it: CT takes one access a cycle, before everything else of the
cycle (R540, R695, R725, R741). -/
def State.ctFor (s : State) : State := if s.sl.ctTakes then s.turnTo Turn.access false else s

/-- A register write at CT. It ends its cycle, by the register values that held in it: all that comes next belongs to the next cycle, where
the written value governs (R501, R727, assumption 16). -/
def State.ctWrite (s : State) (off : Nat) (a : CtAcc) : State :=
  if !s.ctFor.sl.ctTakes then s.ctFor else (s.ctFor.writeJudged off a).cycleBy s.ctFor.sl.regs

/-! ### The read (R723) -/

/-- Step 4 of R720 for a read: the RC fields it touches are cleared. -/
def State.readReg (s : State) (off : Nat) (a : CtAcc) (fs : List FieldRow) : State :=
  let w := s.view off
  let clr := readClears fs (ctMask a)
  let p := if off = Reg.NS_PV_LOST && clr != 0 then { s.prov with lost := 0 } else s.prov
  { s with prov := p }.effect fun _ sl =>
    (if clr = 0 then sl else sl.wr off (sl.rd off &&& ~~~clr)).ctAnswer 0 a (ctData a w)

/-- A register read is judged in the order of R720. -/
def State.readJudged (s : State) (off : Nat) (a : CtAcc) : State :=
  if off % 8 != 0 then s.effect fun _ sl => (sl.errReg ErrCode.ACCESS off a).ctAnswer 1 a 0
  else if a.priv.toNat < s.sl.needPriv off false a then s.effect fun _ sl => (sl.errReg ErrCode.PRIV off a).ctAnswer 2 a 0
  else match regFields off with
    | none => s.effect fun _ sl => sl.ctAnswer 0 a 0
    | some fs => s.readReg off a fs

/-- A register read at CT. -/
def State.ctRead (s : State) (off : Nat) (a : CtAcc) : State :=
  if !s.ctFor.sl.ctTakes then s.ctFor else s.ctFor.readJudged off a

/-! ### The alias page (R689 to R691) -/

/-- The register an alias offset reads. -/
def aliasOf (off : Nat) : Option Nat :=
  if off < 0x200 then some (0xA000 + off) else if off < 0x280 then some (0x7100 + (off - 0x200)) else none

/-- Registers that a user reads under a bit of UPMC: counters, selectors and their snapshots. -/
def perCounter (t : Nat) : Bool := (0xA080 ≤ t && t < 0xA100) || (0xA140 ≤ t && t < 0xA180)

/-- A read of user privilege is answered. -/
def Slice.userReads (s : Slice) (t : Option Nat) : Bool :=
  s.flag NS_CNT_PRIV.UREAD && (match t with
    | some t => !perCounter t || (s.fld NS_CNT_PRIV.UPMC).testBit (t % 64 / 8)
    | none => true)

/-- A read of the alias page is judged. -/
def State.aliasReadJudged (s : State) (off : Nat) (a : CtAcc) : State :=
  let t := aliasOf off
  if off % 8 != 0 then s.effect fun _ sl => (sl.errReg ErrCode.ACCESS off a).ctAnswer 1 a 0
  else if a.priv.toNat = Priv.user && !s.sl.userReads t then
    s.effect fun _ sl => (sl.errReg ErrCode.PRIV off a).ctAnswer 2 a 0
  else match t, t.bind regFields with
    | some t, some fs => s.readReg t a fs
    | _, _ => s.effect fun _ sl => sl.ctAnswer 0 a 0

/-- A read of the alias page. -/
def State.aliasRead (s : State) (off : Nat) (a : CtAcc) : State :=
  if !s.ctFor.sl.ctTakes then s.ctFor else s.ctFor.aliasReadJudged off a

/-- A write to the alias page is judged: it is ignored and recorded. -/
def State.aliasWriteJudged (s : State) (off : Nat) (a : CtAcc) : State :=
  if off % 8 != 0 then s.effect fun _ sl => (sl.errReg ErrCode.ACCESS off a).ctAnswer 1 a 0
  else s.effect fun _ sl => (sl.errReg ErrCode.ALIASWR off a).ctAnswer 0 a 0

/-- A write to the alias page. -/
def State.aliasWrite (s : State) (off : Nat) (a : CtAcc) : State :=
  if !s.ctFor.sl.ctTakes then s.ctFor else s.ctFor.aliasWriteJudged off a

end Sys2Proof.Machine
end

