-- ==== Sys2Proof/Machine/Power.lean ====
section
/-! DEFINITION. Clock, sleep and capture (R542, R545 to R550, R685, R686), resets (R633 to R641) and the release sequence (R642 to R646). -/

namespace Sys2Proof.Machine

/-! ### Clock and sleep -/

/-- SCLK takes the divisor that is set (R545); a slice that sleeps runs again at the divisor in force before (R548). -/
def Slice.divChange (s : Slice) : Slice :=
  let d := s.fld NS_CLKCTL.SCLKDIV
  if s.sys.released = 0 || !s.sys.sclkRuns || d = s.fld NS_PORTSTAT.DIVNOW then s
  else (s.modMeas fun q => { q with divs := (s.now, s.sclkDiv) :: q.divs }).setFld NS_PORTSTAT.DIVNOW d

/-- SCLK takes the divisor of NS_CLKCTL. -/
def execSclkDivChange (s : State) : Host.Outcome State Fault Refusal := s.run fun _ sl => sl.divChange

/-- SLEEP_ACK rises and SCLK stops. -/
def Slice.stopClock (s : Slice) : Slice :=
  (s.modSys fun y => { y with sleepAck := true, sclkRuns := false, waking := false }).setFld NS_PORTSTAT.AWAKE 0

/-- The slice may sleep now (R546). -/
def Slice.sleepReady (s : Slice) : Bool :=
  s.clocked && s.flag NS_CLKCTL.SLEEP && s.sys.released == 6 && s.maySleep

/-- The slice sleeps (R546). -/
def execSleepEnter (s : State) : Host.Outcome State Fault Refusal :=
  s.run fun _ sl => if sl.sleepReady && !sl.sys.woken then sl.stopClock else sl

/-- A woken slice sleeps again (R549). -/
def execResleep (s : State) : Host.Outcome State Fault Refusal :=
  s.run fun _ sl => if sl.sleepReady && sl.sys.woken && decide (4096 ≤ sl.meas.drowsy) then sl.stopClock else sl

/-- WAKE reaches a slice that sleeps: SLEEP_ACK falls (R548). -/
def Slice.wakeUp (s : Slice) : Slice :=
  if s.sys.sclkRuns then s else s.modSys fun y => { y with sleepAck := false, waking := true }

/-- WAKE rises. -/
def execWake (s : State) : Host.Outcome State Fault Refusal := s.run fun _ sl => sl.wakeUp

/-- SCLK runs again; what waits in the wing bridge and in the LW crossing is delivered in order (R548, R550). -/
def Slice.clockRuns (s : Slice) (g : List (Nat × BitVec 8)) : Slice :=
  if s.sys.sclkRuns || !s.sys.waking then s
  else
    let nap := s.flag NS_CLKCTL.SLEEP
    let s := s.modSys fun y => { y with sclkRuns := true, waking := false, woken := nap }
    let s := (s.setFld NS_PORTSTAT.AWAKE 1).modMeas fun q => { q with drowsy := 0 }
    let s := if s.sys.frzEdge == some 0 then s.capture else s
    let s := match s.chan.hcLate with
      | some v => (s.modChan fun c => { c with hcLate := none }).hcState g v
      | none => s
    (s.bridgeRuns g).settle g

/-- SCLK runs again after a wake. -/
def execSclkRunsAgain (s : State) : Host.Outcome State Fault Refusal := s.run fun g sl => sl.clockRuns g

/-! ### Capture (R542, R685 to R688) -/

/-- FRZ rises: the capture follows on the third SCLK edge. A slice that sleeps wakes, and captures what it held at the rise as soon as SCLK
runs, since nothing has advanced meanwhile. -/
def Slice.freeze (s : Slice) : Slice :=
  if s.sys.released = 0 || s.sys.inReset.isSome || s.sys.frz then s
  else
    ((s.setFld NS_CNT_CTL.FRZ 1).modSys fun y => { y with frz := true, frzEdge := some (if y.sclkRuns then 3 else 0) }).wakeUp

/-- FRZ rises. -/
def execFrz (s : State) : Host.Outcome State Fault Refusal := s.run fun _ sl => sl.freeze

/-- FRZ falls (R688). -/
def execFrzFall (s : State) : Host.Outcome State Fault Refusal :=
  s.run fun _ sl => if sl.sys.frz then (sl.modSys fun y => { y with frz := false }).setFld NS_CNT_CTL.FRZ 0 else sl

/-! ### Resets (R633 to R641) -/

/-- A reset input takes effect (R633, R635 to R637). The RESET entry made at the release stands for what it resets (R694). -/
def State.resetBy (s : State) (lvl : Level) (cause : Nat) : State :=
  let s := s.eachAlone
  let held := (s.sl.sys.inReset.map lvl.max).getD lvl
  let t := (s.sl.resetTo lvl cause).modSys fun y => { y with inReset := some held }
  s.afterReset t t.sys.applied cause

/-- RST_POR_N takes effect. -/
def execPowerOnReset (s : State) : Host.Outcome State Fault Refusal := .next (s.resetBy .por 0)

/-- RST_PKG_N takes effect. -/
def execPackageReset (s : State) : Host.Outcome State Fault Refusal := .next (s.resetBy .pkg 1)

/-- RST_CMP_N takes effect. -/
def execComputeReset (s : State) : Host.Outcome State Fault Refusal := .next (s.resetBy .cmp 2)

/-- A pulse shorter than 32 edges ends: it is ignored and counted (R635). -/
def execGlitch (s : State) : Host.Outcome State Fault Refusal := s.run fun _ sl => sl.countCause 5

/-- No reset input remains in effect (R636). -/
def execResetEnd (s : State) : Host.Outcome State Fault Refusal := s.run fun _ sl => sl.modSys fun y => { y with inReset := none }

/-- The standby supply comes up (R634): every register has its Reset column, and nothing is kept. -/
def execStandbyPowerUp (s : State) : Host.Outcome State Fault Refusal :=
  .next { s with sl := Slice.start, gentab := [], prov := Prov.empty, turn := 0 }

/-- A block reset may proceed: the slice is quiescent, or the idle wait is over (R639, R659). -/
def Slice.blockDue (s : Slice) : Bool :=
  match s.sys.blockSince with
  | none => false
  | some c => s.flag NS_RC_BLK.BUSY && (s.quiescent || decide (2 ^ max 12 (s.fld NS_RC_CTL.IDLETOEXP) ≤ s.now - c))

/-- The block domain is reset as a compute reset would reset it; BUSY and IDLEREQ stand until the release sequence ends. -/
def State.blockReset (s : State) : State :=
  if !s.sl.blockDue then s
  else
    let s := s.effect fun _ sl => if sl.quiescent then sl else sl.setFld NS_RC_BLK.TIMEOUT 1
    let t := ((s.sl.resetTo .cmp 3).setFld NS_RC_BLK.BUSY 1).setFld NS_RC_BLK.IDLEREQ 1
    s.afterReset t t.sys.applied 3

/-- The block domain is reset (R639). -/
def execBlockResetProceed (s : State) : Host.Outcome State Fault Refusal := .next s.blockReset

/-! ### The release sequence (R642 to R646) -/

/-- Release step `n` is the next one, and no reset is in effect. -/
def Slice.releases (s : Slice) (n : Nat) : Bool := s.sys.inReset.isNone && s.sys.released + 1 == n

/-- Step 1: CT takes accesses and SCLK runs; the RESET entry is the first of the sequence (R697). -/
def State.clockIsland (s : State) : State :=
  if !s.sl.releases 1 then s
  else
    let e : PvEntry := { stamp := s.sl.rd Reg.NS_CNT_CYCLE, old := 0, new := s.sl.rd Reg.NS_RST_CAUSE, seq := 0, kind := 2, priv := 0,
                         origin := 0, offset := 0x9100 }
    { s with prov := s.prov.enter (s.sl.flag NS_PV_CTL.MODE) e }.effect fun _ sl =>
      ((sl.setFld NS_PORTSTAT.CTRDY 1).setFld NS_PORTSTAT.AWAKE 1).modSys fun y => { y with released := 1, sclkRuns := true }

/-- Release step 1. -/
def execClockIslandRelease (s : State) : Host.Outcome State Fault Refusal := .next { s.clockIsland with turn := Turn.own }

/-- The sweep corrects a bookkeeping word (R597, R643): true when it cannot be corrected. `p` is the word's key and its deviation. -/
def Slice.sweepWord (s : Slice) (p : Nat × BitVec 8) : Slice × Bool :=
  let kind := p.1 / 2 ^ 20
  let ix := p.1 % 2 ^ 20
  match decBk p.2 with
  | .good => (s, false)
  | .single b =>
    let s := s.modMem fun m => (if b < 64 then m.flipBk kind ix b else m).setBk kind ix 0
    let s := (s.bump NS_ECC_EVT.BKCE 1).setFld NS_ECC_STAT.BKCE 1
    let (way, set, word) := if kind = 3 then (ix / 2 % 8, ix / 16, ix % 2) else (ix / 8192, ix % 8192, 0)
    ((s.logCorrection (if kind = 3 then 2 else 1) way set word b).ev Ev.ECC_CE 1, false)
  | _ => (s, true)

/-- Every bookkeeping word is read; true when one is uncorrectable or a directory entry is broken (R378). -/
def Slice.sweepWords (s : Slice) : Slice × Bool :=
  let (s, bad) := s.mem.bkchk.foldl (fun (q : Slice × Bool) p =>
    let (s, b) := q.1.sweepWord p
    (s, q.2 || b)) (s, false)
  (s, bad || (s.mem.dir.map (fun p => p.1 / 2)).any fun i =>
    dirBroken (s.mem.dirWord (i / 8) (i % 8) 0) (s.mem.dirWord (i / 8) (i % 8) 1))

/-- R599, with what can be corrected corrected: L, O and H entries are invalid, every directory entry is I, and V and X entries that decode
keep INIT and QUAR. -/
def Slice.sweepLoss (s : Slice) : Slice :=
  let bad := fun (ix : Nat) => decBk (s.mem.bkAt 0 ix) == .bad || decBk (s.mem.bkAt 0 ix) == .poison
  let left := fun (ix : Nat) (t : Word) =>
    let use := s.wayCode (ix / 8192)
    if bad ix then (0 : Word)
    else if use = Use.V || use = Use.X then setBUSY (setGRP t false) false
    else setQUAR 0 (tagQUAR t)
  let tags := Sparse.setAll (fun _ => 0) s.mem.tags (s.mem.tags.map fun p => (p.1, left p.1 p.2))
  s.modMem fun m => { m with tags := tags, glw := [], loan := [], dir := [], bkchk := [] }

/-- The sweep after a compute or block reset: BUSY, GRP and group-line words are cleared, and the actions of R641 are queued: the lines
whose directory entries were busy stand in `Coh.recover` until they are recovered. -/
def Slice.sweepKeep (s : Slice) : Slice :=
  let again := (s.mem.tags.filter fun p => tagBUSY p.2 && s.wayCode (p.1 / 8192) == Use.L &&
    s.mem.loanAt (p.1 / 8192) (p.1 % 8192) != 0).map (·.1)
  let tags := Sparse.setAll (fun _ => 0) s.mem.tags (s.mem.tags.map fun p => (p.1, setGRP (setBUSY p.2 false) false))
  let ixs := ((s.mem.dir.map fun p => p.1 / 2).dedup).filter fun i => (s.mem.ent (i / 8) (i % 8)).busy
  let busy := ixs.map fun i => ((s.mem.ent (i / 8) (i % 8)).tag, (s.mem.ent (i / 8) (i % 8)).state == Dir.X)
  let s := s.modMem fun m => { m with tags := tags, glw := [] }
  let s := ixs.foldl (fun s i => s.putEnt (i / 8) (i % 8) { s.mem.ent (i / 8) (i % 8) with busy := false }) s
  let s := s.modCoh fun c => { c with recover := busy, recoverAt := s.now }
  let s := s.modSys fun y => { y with reinv := again }
  (s.setFld NS_RC_RSTREC.REINV (min 0xFFFF again.length)).setFld NS_RC_RSTREC.RSNOOP (min 0xFFFF busy.length)

/-- Step 2 (R643). After power-on or package reset every entry is written invalid. -/
def Slice.sweep (s : Slice) : Slice :=
  if !s.releases 2 then s
  else
    let s := s.modSys fun y => { y with released := 2 }
    if s.sys.applied != .cmp then
      (s.modMem fun m => { Mem.empty with tier := m.tier, chk := m.chk }).modSys fun y => { y with bkLost := false }
    else if s.sys.bkLost then s.sweepWords.1.sweepLoss.modSys fun y => { y with bkLost := false }
    else
      let (s, bad) := s.sweepWords
      if bad then ((s.setFld NS_ECC_STAT.BKUE 1).setFld NS_ECC_STAT.BKLOSS 1).sweepLoss else s.sweepKeep

/-- Release step 2. -/
def execTagDirectorySweep (s : State) : Host.Outcome State Fault Refusal := s.run fun _ sl => sl.sweep

/-- Step 3: array reads and writes, and scrubbing. -/
def execDataTierPortRelease (s : State) : Host.Outcome State Fault Refusal :=
  s.run fun _ sl => if sl.releases 3 then sl.modSys fun y => { y with released := 3 } else sl

/-- Step 4: HC; a channel in the map-out list is MAPPED (R556). -/
def Slice.memRelease (s : Slice) : Slice :=
  if !s.releases 4 then s
  else
    let s := (s.setFld NS_PORTSTAT.MEMRDY 1).modSys fun y => { y with released := 4 }
    if s.chanListed then s.setCstate CState.MAPPED else s

/-- Release step 4. -/
def execMemoryPortRelease (s : State) : Host.Outcome State Fault Refusal := s.run fun _ sl => sl.memRelease

/-- Step 5: MQ, MR, MO, MI and DD, with 16 receive credits announced for each class and die (R553); loan copies that a reset left in doubt
are invalidated again (R641). -/
def Slice.meshRelease (s : Slice) (g : List (Nat × BitVec 8)) : Slice :=
  if !s.releases 5 then s
  else
    let again := s.sys.reinv
    let s := (s.setFld NS_PORTSTAT.MESHRDY 1).setFld NS_PORTSTAT.DDRDY 1
    let s := (s.modSys fun y => { y with released := 5, reinv := [] }).readiness
    let s := s.modOut fun o => { o with ddRx := o.ddRx.map (· + 16) }
    let s := again.foldl (fun s ix =>
      let l := tagTAG (s.tag (ix / 8192) (ix % 8192))
      s.invStart g l (s.mem.loanAt (ix / 8192) (ix % 8192)) (s.bgJob (.pa l))) s
    s.settle g

/-- Release step 5. -/
def execMeshPortRelease (s : State) : Host.Outcome State Fault Refusal := s.run fun g sl => sl.meshRelease g

/-- Step 6: LW, with 8 receive credits announced for each class (R553); the release is complete, and so is a block reset (R636, R639). -/
def Slice.lclRelease (s : Slice) : Slice :=
  if !s.releases 6 then s
  else
    let s := (s.setFld NS_PORTSTAT.LWRDY 1).modSys fun y => { y with released := 6, applied := .cmp }
    let s := s.modOut fun o => { o with lwRx := o.lwRx.map (· + 8) }
    let s := s.readiness.modCoh fun c => { c with recoverFrom := some s.now }
    if s.flag NS_RC_BLK.BUSY then (s.setFld NS_RC_BLK.IDLEREQ 0).setFld NS_RC_BLK.BUSY 0 else s

/-- Release step 6. -/
def execLclPortRelease (s : State) : Host.Outcome State Fault Refusal := s.run fun _ sl => sl.lclRelease

/-- Directory entries that were busy at the reset are recovered by snoop, once the snoop timeout has passed since LW was released
(R641), as NS_DIR_CTL has it now (R727). -/
def Slice.recoverEnts (s : Slice) (g : List (Nat × BitVec 8)) : Slice :=
  match s.coh.recoverFrom with
  | none => s
  | some c =>
    if s.now < c + s.snpTimeout || !s.sys.sclkRuns then s
    else (s.coh.recover.foldl (fun s p =>
      if (s.txn? p.1).isSome then s else s.beginTxn g p.1 .recovery .recovery) s).settle g

/-- Directory entries busy at the reset are recovered. -/
def execSnoopRecovery (s : State) : Host.Outcome State Fault Refusal := s.run fun g sl => sl.recoverEnts g

end Sys2Proof.Machine
end

