-- ==== Sys2Proof/Machine/RegRows.lean ====
section
/-! DEFINITION. Register accesses, one meaning a row: the writes that the table lists by name, and the write and read of any
register. -/

namespace Sys2Proof.Machine

/-- A write of NS_BLK_CTL: PAUSE stops the engine at a line boundary (R167). -/
def execBlkCtlPause (a : CtAcc) (s : State) : Host.Outcome State Fault Refusal :=
  .next (s.ctWrite Reg.NS_BLK_CTL a)

/-- A write of NS_BLK_CTL: ABORT ends every command (R168). -/
def execBlkCtlAbort (a : CtAcc) (s : State) : Host.Outcome State Fault Refusal :=
  .next (s.ctWrite Reg.NS_BLK_CTL a)

/-- A write of NS_WAYCHG: GO checks and starts a way change (R48, R49). -/
def execWaychgGo (a : CtAcc) (s : State) : Host.Outcome State Fault Refusal :=
  .next (s.ctWrite Reg.NS_WAYCHG a)

/-- A write of NS_DIST_CTL: each change of BUSY advances SEQ (R55). -/
def execDistCtlWrite (a : CtAcc) (s : State) : Host.Outcome State Fault Refusal :=
  .next (s.ctWrite Reg.NS_DIST_CTL a)

/-- A write of a vitrine region register (R133 to R135). -/
def execVtRegionWrite (n : BitVec 6) (a : CtAcc) (s : State) : Host.Outcome State Fault Refusal :=
  .next (s.ctWrite (Reg.NS_VT_REGION n.toNat) a)

/-- A write of a format window register (R324, R325). -/
def execFpWinWrite (n : BitVec 4) (b : Bool) (a : CtAcc) (s : State) : Host.Outcome State Fault Refusal :=
  .next (s.ctWrite (if b then Reg.NS_FP_WINB n.toNat else Reg.NS_FP_WINA n.toNat) a)

/-- A write of NS_UU_CTL: PREDCLR clears the predictor (R370, R413). -/
def execPredclr (a : CtAcc) (s : State) : Host.Outcome State Fault Refusal :=
  .next (s.ctWrite Reg.NS_UU_CTL a)

/-- A write of NS_DIR_RECLAIM: GO declares a cluster dead (R406 to R408, R419). -/
def execDirReclaimGo (a : CtAcc) (s : State) : Host.Outcome State Fault Refusal :=
  .next (s.ctWrite Reg.NS_DIR_RECLAIM a)

/-- A write of NS_DIR_DEADMASK re-admits clusters (R410). -/
def execDeadmaskWrite (a : CtAcc) (s : State) : Host.Outcome State Fault Refusal :=
  .next (s.ctWrite Reg.NS_DIR_DEADMASK a)

/-- A write of an accession counter (R468, R469). -/
def execAccnTargetWrite (k : BitVec 8) (a : CtAcc) (s : State) : Host.Outcome State Fault Refusal :=
  .next (s.ctWrite (Reg.NS_ACCN_TARGET k.toNat) a)

/-- A write of a master's budget (R500, R501). -/
def execBudgetWrite (m : BitVec 8) (a : CtAcc) (s : State) : Host.Outcome State Fault Refusal :=
  .next (s.ctWrite (Reg.NS_REG_BUDGET m.toNat) a)

/-- A write of NS_RC_BLK: IDLEREQ requests idle (R638). -/
def execIdlereq (a : CtAcc) (s : State) : Host.Outcome State Fault Refusal :=
  .next (s.ctWrite Reg.NS_RC_BLK a)

/-- A write of NS_RC_BLK: GO starts a block reset (R639, R660). -/
def execBlockResetGo (a : CtAcc) (s : State) : Host.Outcome State Fault Refusal :=
  .next (s.ctWrite Reg.NS_RC_BLK a)

/-- A write of NS_RC_WB: GO starts the write-back (R657, R665). -/
def execRcWbGo (a : CtAcc) (s : State) : Host.Outcome State Fault Refusal :=
  .next (s.ctWrite Reg.NS_RC_WB a)

/-- A write of NS_RC_CREDREL: GO releases a requester's credits (R631). -/
def execCredrel (a : CtAcc) (s : State) : Host.Outcome State Fault Refusal :=
  .next (s.ctWrite Reg.NS_RC_CREDREL a)

/-- A write of NS_FWIF: GO performs the handshake (R648 to R652). -/
def execFwifGo (a : CtAcc) (s : State) : Host.Outcome State Fault Refusal :=
  .next (s.ctWrite Reg.NS_FWIF a)

/-- A write of the map-out list (R566, R572). -/
def execMaplistWrite (a : CtAcc) (s : State) : Host.Outcome State Fault Refusal :=
  .next (s.ctWrite Reg.NS_CH_MAPLIST a)

/-- A write of NS_CH_MAPCTL: PREP (R573, R574). -/
def execPrep (a : CtAcc) (s : State) : Host.Outcome State Fault Refusal :=
  .next (s.ctWrite Reg.NS_CH_MAPCTL a)

/-- A write of NS_CH_MAPCTL: SAVE (R573, R575). -/
def execSave (a : CtAcc) (s : State) : Host.Outcome State Fault Refusal :=
  .next (s.ctWrite Reg.NS_CH_MAPCTL a)

/-- A write of NS_ECC_QUAR: QSET quarantines a place (R592). -/
def execQset (a : CtAcc) (s : State) : Host.Outcome State Fault Refusal :=
  .next (s.ctWrite Reg.NS_ECC_QUAR a)

/-- A write of NS_ECC_QUAR: QCLR lifts a quarantine (R593). -/
def execQclr (a : CtAcc) (s : State) : Host.Outcome State Fault Refusal :=
  .next (s.ctWrite Reg.NS_ECC_QUAR a)

/-- A write of NS_ECC_CBCTL: RAWRD reads a word with its check bits (R595, R596). -/
def execRawrd (a : CtAcc) (s : State) : Host.Outcome State Fault Refusal :=
  .next (s.ctWrite Reg.NS_ECC_CBCTL a)

/-- A write of NS_ECC_CBCTL: RAWWR writes a word with given check bits (R595, R596). -/
def execRawwr (a : CtAcc) (s : State) : Host.Outcome State Fault Refusal :=
  .next (s.ctWrite Reg.NS_ECC_CBCTL a)

/-- A write of NS_PV_CTL: POP removes the oldest held entry (R699). -/
def execPop (a : CtAcc) (s : State) : Host.Outcome State Fault Refusal :=
  .next (s.ctWrite Reg.NS_PV_CTL a)

/-- A write of NS_PV_SPILL (R701, R717). -/
def execPvSpillWrite (a : CtAcc) (s : State) : Host.Outcome State Fault Refusal :=
  .next (s.ctWrite Reg.NS_PV_SPILL a)

/-- A write of NS_IRQ_SET sets interrupts (R738). -/
def execIrqSet (a : CtAcc) (s : State) : Host.Outcome State Fault Refusal :=
  .next (s.ctWrite Reg.NS_IRQ_SET a)

/-- A write of NS_DG_SEL: GO starts a diagnostic read (R746, R747). -/
def execDiagGo (a : CtAcc) (s : State) : Host.Outcome State Fault Refusal :=
  .next (s.ctWrite Reg.NS_DG_SEL a)

/-- A register write at an offset of the slice's space, or of its alias page (R691, R720). -/
def execRegisterWrite (off : BitVec 16) (userPage : Bool) (a : CtAcc) (s : State) : Host.Outcome State Fault Refusal :=
  .next (if userPage then s.aliasWrite off.toNat a else s.ctWrite off.toNat a)

/-- A register read at an offset of the slice's space, or of its alias page (R690, R720). -/
def execRegisterRead (off : BitVec 16) (userPage : Bool) (a : CtAcc) (s : State) : Host.Outcome State Fault Refusal :=
  .next (if userPage then s.aliasRead off.toNat a else s.ctRead off.toNat a)

/-! ### Group control (R265 to R269, R758) -/

/-- A group-control command: a request of MQ or DD, or a write of NS_GRPOPEN with the descriptor that is staged. -/
def State.grpControl (s : State) (q : GrpReq) : Host.Outcome State Fault Refusal :=
  match q with
  | .mesh r => s.request .grpctl r
  | .staged a => .next (s.ctWrite Reg.NS_GRPOPEN a)

/-- OPEN (R268, R269). -/
def execOpenGrp (q : GrpReq) (s : State) : Host.Outcome State Fault Refusal := s.grpControl q

/-- CLOSE (R758). -/
def execCloseGrp (q : GrpReq) (s : State) : Host.Outcome State Fault Refusal := s.grpControl q

/-- ABORT (R269, R307, R758). -/
def execAbortGrp (q : GrpReq) (s : State) : Host.Outcome State Fault Refusal := s.grpControl q

end Sys2Proof.Machine
end

