-- ==== Sys2Proof/Machine/Requests.lean ====
section
/-! DEFINITION. The requests of MQ and DD, one meaning an opcode (R512). -/

namespace Sys2Proof.Machine

/-- A read request (R67). -/
def execRd (r : Req) (s : State) : Host.Outcome State Fault Refusal := s.request .rd r

/-- A read whose reply the tile may keep (R448, R512). -/
def execRdc (r : Req) (s : State) : Host.Outcome State Fault Refusal := s.request .rdc r

/-- An acquire read (R431, R437). -/
def execRdacq (r : Req) (s : State) : Host.Outcome State Fault Refusal := s.request .rdacq r

/-- A write (R69 to R72). -/
def execWr (r : Req) (s : State) : Host.Outcome State Fault Refusal := s.request .wr r

/-- A release write (R436). -/
def execWrrel (r : Req) (s : State) : Host.Outcome State Fault Refusal := s.request .wrrel r

/-- A fence sweep (R440 to R442). -/
def execFence (r : Req) (s : State) : Host.Outcome State Fault Refusal := s.request .fence r

/-- A flush (R74, R304, R757). -/
def execFlush (r : Req) (s : State) : Host.Outcome State Fault Refusal := s.request .flush r

/-- An addressed converting read (R322). -/
def execCrd (r : Req) (s : State) : Host.Outcome State Fault Refusal := s.request .crd r

/-- An addressed converting write (R322, R334). -/
def execCwr (r : Req) (s : State) : Host.Outcome State Fault Refusal := s.request .cwr r

/-- A vitrine read (R136, R146). -/
def execVrd (r : Req) (s : State) : Host.Outcome State Fault Refusal := s.request .vrd r

/-- A vitrine write (R140 to R142). -/
def execVwr (r : Req) (s : State) : Host.Outcome State Fault Refusal := s.request .vwr r

/-- A vitrine converting read (R322). -/
def execVcrd (r : Req) (s : State) : Host.Outcome State Fault Refusal := s.request .vcrd r

/-- A vitrine converting write (R335). -/
def execVcwr (r : Req) (s : State) : Host.Outcome State Fault Refusal := s.request .vcwr r

/-- A bulk command write (R149 to R152). -/
def execCmdwr (r : Req) (s : State) : Host.Outcome State Fault Refusal := s.request .cmdwr r

/-- An arrival that routers may combine (R272). -/
def execRedc (r : Req) (s : State) : Host.Outcome State Fault Refusal := s.request .redc r

/-- An arrival that routers never combine (R272). -/
def execRedn (r : Req) (s : State) : Host.Outcome State Fault Refusal := s.request .redn r

/-- A counted write (R454, R455). -/
def execCntwr (r : Req) (s : State) : Host.Outcome State Fault Refusal := s.request .cntwr r

/-- A sealed write (R456 to R459). -/
def execSealwr (r : Req) (s : State) : Host.Outcome State Fault Refusal := s.request .sealwr r

/-- An increment (R458). -/
def execAccinc (r : Req) (s : State) : Host.Outcome State Fault Refusal := s.request .accinc r

/-- A proxy read (R22, R569). -/
def execPxrd (r : Req) (s : State) : Host.Outcome State Fault Refusal := s.request .pxrd r

/-- A proxy write (R22, R569). -/
def execPxwr (r : Req) (s : State) : Host.Outcome State Fault Refusal := s.request .pxwr r

/-- A reserved opcode, or a TINV on MQ (R513, R618). -/
def execReservedOpcode (code : BitVec 6) (r : Req) (s : State) : Host.Outcome State Fault Refusal :=
  s.request (if code = 0x16 then .tinv else .other code) r

/-- The returning atomic SWAP (R357, R363). -/
def execSwap (r : Req) (s : State) : Host.Outcome State Fault Refusal := s.request (.atom .swap false) r

/-- The returning atomic CAS (R357, R363). -/
def execCas (r : Req) (s : State) : Host.Outcome State Fault Refusal := s.request (.atom .cas false) r

/-- The returning atomic ADD (R357, R363). -/
def execAdd (r : Req) (s : State) : Host.Outcome State Fault Refusal := s.request (.atom .add false) r

/-- The returning atomic SMAX (R357, R363). -/
def execSmax (r : Req) (s : State) : Host.Outcome State Fault Refusal := s.request (.atom .smax false) r

/-- The returning atomic SMIN (R357, R363). -/
def execSmin (r : Req) (s : State) : Host.Outcome State Fault Refusal := s.request (.atom .smin false) r

/-- The returning atomic UMAX (R357, R363). -/
def execUmax (r : Req) (s : State) : Host.Outcome State Fault Refusal := s.request (.atom .umax false) r

/-- The returning atomic UMIN (R357, R363). -/
def execUmin (r : Req) (s : State) : Host.Outcome State Fault Refusal := s.request (.atom .umin false) r

/-- The returning atomic AND (R357, R363). -/
def execBand (r : Req) (s : State) : Host.Outcome State Fault Refusal := s.request (.atom .band false) r

/-- The returning atomic OR (R357, R363). -/
def execBor (r : Req) (s : State) : Host.Outcome State Fault Refusal := s.request (.atom .bor false) r

/-- The returning atomic XOR (R357, R363). -/
def execBxor (r : Req) (s : State) : Host.Outcome State Fault Refusal := s.request (.atom .bxor false) r

/-- The returning atomic FADD (R357, R363). -/
def execFadd (r : Req) (s : State) : Host.Outcome State Fault Refusal := s.request (.atom .fadd false) r

/-- The returning atomic LSWAP (R357, R363). -/
def execLswap (r : Req) (s : State) : Host.Outcome State Fault Refusal := s.request (.atom .lswap false) r

/-- The returning atomic LCSTORE (R357, R363). -/
def execLcstore (r : Req) (s : State) : Host.Outcome State Fault Refusal := s.request (.atom .lcstore false) r

/-- The returning atomic LADD (R357, R363). -/
def execLadd (r : Req) (s : State) : Host.Outcome State Fault Refusal := s.request (.atom .ladd false) r

/-- The returning atomic LAND (R357, R363). -/
def execLand (r : Req) (s : State) : Host.Outcome State Fault Refusal := s.request (.atom .land false) r

/-- The returning atomic LOR (R357, R363). -/
def execLor (r : Req) (s : State) : Host.Outcome State Fault Refusal := s.request (.atom .lor false) r

/-- The returning atomic LXOR (R357, R363). -/
def execLxor (r : Req) (s : State) : Host.Outcome State Fault Refusal := s.request (.atom .lxor false) r

/-- The posted atomic ADD.P (R357, R363). -/
def execAddP (r : Req) (s : State) : Host.Outcome State Fault Refusal := s.request (.atom .add true) r

/-- The posted atomic SMAX.P (R357, R363). -/
def execSmaxP (r : Req) (s : State) : Host.Outcome State Fault Refusal := s.request (.atom .smax true) r

/-- The posted atomic SMIN.P (R357, R363). -/
def execSminP (r : Req) (s : State) : Host.Outcome State Fault Refusal := s.request (.atom .smin true) r

/-- The posted atomic UMAX.P (R357, R363). -/
def execUmaxP (r : Req) (s : State) : Host.Outcome State Fault Refusal := s.request (.atom .umax true) r

/-- The posted atomic UMIN.P (R357, R363). -/
def execUminP (r : Req) (s : State) : Host.Outcome State Fault Refusal := s.request (.atom .umin true) r

/-- The posted atomic AND.P (R357, R363). -/
def execBandP (r : Req) (s : State) : Host.Outcome State Fault Refusal := s.request (.atom .band true) r

/-- The posted atomic OR.P (R357, R363). -/
def execBorP (r : Req) (s : State) : Host.Outcome State Fault Refusal := s.request (.atom .bor true) r

/-- The posted atomic XOR.P (R357, R363). -/
def execBxorP (r : Req) (s : State) : Host.Outcome State Fault Refusal := s.request (.atom .bxor true) r

/-- The posted atomic FADD.P (R357, R363). -/
def execFaddP (r : Req) (s : State) : Host.Outcome State Fault Refusal := s.request (.atom .fadd true) r

/-- The posted atomic LADD.P (R357, R363). -/
def execLaddP (r : Req) (s : State) : Host.Outcome State Fault Refusal := s.request (.atom .ladd true) r

/-- The posted atomic LAND.P (R357, R363). -/
def execLandP (r : Req) (s : State) : Host.Outcome State Fault Refusal := s.request (.atom .land true) r

/-- The posted atomic LOR.P (R357, R363). -/
def execLorP (r : Req) (s : State) : Host.Outcome State Fault Refusal := s.request (.atom .lor true) r

/-- The posted atomic LXOR.P (R357, R363). -/
def execLxorP (r : Req) (s : State) : Host.Outcome State Fault Refusal := s.request (.atom .lxor true) r

end Sys2Proof.Machine
end

