-- ==== Sys2Proof/Machine/Service.lean ====
section
/-! DEFINITION. The slice's own steps at its service points: group initialisation and epilogue (R269, R286), arrivals that are combined
(R276), grants (R475), reply beats (R527, R617), regulation windows (R479 to R485), slack that runs out (R489) and the cycle. -/

namespace Sys2Proof.Machine

/-! ### Groups -/

/-- Initialisation and preload of an OPENING group end (R269, R270), after the accesses to its storage accepted before its OPEN (R119). -/
def Slice.initEnds (s : Slice) (g : List (Nat × BitVec 8)) (n : Nat) : Slice :=
  match s.grp? n with
  | none => s
  | some p => if s.grpState n = GSt.OPENING && !s.grpAccessed p then (s.initDone g n).settle g else s

/-- Group `g` is initialised. -/
def execGroupInitDone (n : BitVec 6) (s : State) : Host.Outcome State Fault Refusal := s.run fun g sl => sl.initEnds g n.toNat

/-- The next accepted arrival finishes combining (R276). -/
def execArrivalCombined (s : State) : Host.Outcome State Fault Refusal := s.run fun g sl => (sl.combineNext g).settle g

/-- The epilogue of a CLOSING group begins once nothing accepted for it is left to combine or acknowledge, no access to its lines accepted
before is left to apply (R119, R286), and no loan copy of them stands (R42, R428). -/
def Slice.epiBegins (s : Slice) (g : List (Nat × BitVec 8)) (n : Nat) : Slice :=
  match s.grp? n with
  | none => s
  | some p =>
    if s.grpState n = GSt.CLOSING && !s.grpBusy n && !s.grpAccessed p && s.loanFree p && !p.epiDone then (s.runEpilogue g n).settle g else s

/-- Promotion and epilogue of group `g`. -/
def execEpilogueStart (n : BitVec 6) (s : State) : Host.Outcome State Fault Refusal := s.run fun g sl => sl.epiBegins g n.toNat

/-- The epilogue ends: GRP is cleared, and the group forwards or completes (R269, R286). -/
def Slice.epiEnds (s : Slice) (g : List (Nat × BitVec 8)) (n : Nat) : Slice :=
  match s.grp? n with
  | none => s
  | some p => if s.grpState n = GSt.CLOSING && p.epiDone then (s.epiFinish g n).settle g else s

/-- The epilogue of group `g` ends. -/
def execEpilogueDone (n : BitVec 6) (s : State) : Host.Outcome State Fault Refusal := s.run fun g sl => sl.epiEnds g n.toNat

/-! ### Grants and replies -/

/-- The reply port grants one beat (R472, R475). -/
def Slice.grantReply (s : Slice) : Slice :=
  match s.choose Point.reply.num (s.port.beats.map fun b => (b.job, true)) with
  | none => s
  | some i =>
    match s.port.beats[i]? with
    | none => s
    | some b => ((s.modPort fun p => { p with beats := p.beats.eraseIdx i, granted := p.granted ++ [b] }).granted
        Point.reply.num).urgentCount b.job

/-- A service point grants its next unit. The array write port and the update unit choose among what is ready as soon as it is
(`Slice.serveLoop`), so that nothing waits there between two steps (assumption 90). -/
def Slice.grant (s : Slice) (g : List (Nat × BitVec 8)) (p : Point) : Slice :=
  if !s.sys.sclkRuns then s
  else match p with
  | .reply => s.grantReply
  | .arrayWrite | .update => s
  | .accum => (s.combineNext g).settle g
  | .channel => (s.grantChannel g).settle g
  | .outbound => (s.grantOutbound g).settle g

/-- A service point grants its next unit. -/
def execServiceGrant (p : Point) (s : State) : Host.Outcome State Fault Refusal := s.run fun g sl => sl.grant g p

/-- The beat that leaves next is sent under a reply credit, without its stale destinations; one with no destination left is not sent
and spends no credit (R527, R617). -/
def Slice.sendBeat (s : Slice) (g : List (Nat × BitVec 8)) : Slice :=
  if !s.mqRdy || s.fld NS_PORTSTAT.MRCRED = 0 then s
  else
    let s := if s.port.granted.isEmpty then s.grantReply else s
    match s.port.granted with
    | [] => s
    | b :: rest =>
      match (s.modPort fun p => { p with granted := rest }).leave g b with
      | (s, none) => s.settle g
      | (s, some b) =>
        ((s.stir.setFld NS_PORTSTAT.MRCRED (s.fld NS_PORTSTAT.MRCRED - 1)).modOut fun o => { o with sentMR := o.sentMR ++ [b] }).settle g

/-- A reply beat is sent on MR. -/
def execReplyBeat (s : State) : Host.Outcome State Fault Refusal := s.run fun g sl => sl.sendBeat g

/-! ### Slack (R487, R489) -/

/-- Every accepted request that is not answered yet, with its slack at acceptance: the readers of trackers, held sealed writes, fence
sweeps, group commands and status replies that have not left. -/
def Slice.openReqs (s : Slice) : List (Dest × Nat) :=
  let one := fun (op : Op) (r : Req) (born : Nat) => (reqDest op r born, r.slack.toNat)
  let grp := fun (a : GrpAsker) => if a.staged then [] else [one .grpctl a.req a.born]
  s.port.trks.flatMap (fun t => if t.cl.isSome || t.stage == .stale then [] else ((t.req, t.born) :: t.joined).map fun p => one t.op p.1 p.2)
    ++ s.holds.map (fun h => one .sealwr h.req h.born)
    ++ s.port.sweeps.map (fun w => (w.dest, w.slack))
    ++ s.grps.flatMap (fun p => (match p.opener with
        | some a => grp a
        | none => []) ++ p.aborts.flatMap grp) ++ s.grpHeld.flatMap grp
    ++ (s.port.beats ++ s.port.granted ++ s.out.outq.filterMap (fun i => match i.msg with
        | .rep b => some b
        | _ => none)).flatMap (fun b => if b.trk.isNone && b.status != Stat.CREDIT then b.dests.map (fun d => (d, b.job.slack)) else [])

/-- The named request's remaining slack is 0: it is counted once (R489). From now on its priority is 15 (R490). -/
def Slice.slackGone (s : Slice) (reqid : BitVec 8) (srcdie : BitVec 3) (tag : BitVec 12) : Slice :=
  let all := s.openReqs
  if !s.sys.sclkRuns then s
  else match all.find? (fun p => p.1.reqid == reqid && p.1.srcdie == srcdie && p.1.tag == tag && p.2 != 0xFFF &&
      s.slackLeft p.2 p.1.born == 0 && !s.port.late.contains p.1) with
  | none => s
  | some p =>
    (s.bump (NS_REG_SLKEVT.DLMISS p.1.cls) 1).modPort fun q => { q with
      late := q.late.filter (fun d => all.any (fun a => a.1 == d)) ++ [p.1] }

/-- The remaining slack of a request reaches 0. -/
def execSlackZero (reqid : BitVec 8) (srcdie : BitVec 3) (tag : BitVec 12) (s : State) : Host.Outcome State Fault Refusal :=
  s.run fun _ sl => sl.slackGone reqid srcdie tag

/-! ### Regulation windows (R479, R483, R485) -/

/-- BOOST of a class from its target and mean; the divisions are exact (R485). -/
def boostOf (target mean : Nat) : Nat :=
  if target = 0 then 0
  else if 2 * mean < target then 0
  else if 4 * mean < 3 * target then 1
  else if mean < target then 2
  else 3

/-- MEAN and BOOST of class `n` at a window start. -/
def Slice.classWindow (s : Slice) (n : Nat) : Slice :=
  let k := s.meas.latCnt.getD n 0
  let mean := if k = 0 then 0 else min 0xFFFF (s.meas.latSum.getD n 0 / k)
  (s.setFld (NS_REG_CLASS.MEAN n) mean).setFld (NS_REG_CLASS.BOOST n) (boostOf (s.fld (NS_REG_CLASS.TARGET n)) mean)

/-- OVERCNT and USED of master `m` at a window start. -/
def Slice.masterWindow (s : Slice) (m : Nat) : Slice :=
  let s := if bitAt s.meas.overBud m || s.overBudget m then s.bump (NS_REG_BUDGET.OVERCNT m) 1 else s
  s.setFld (NS_REG_BUDGET.USED m) 0

/-- A regulation window begins in the cycles whose count is a multiple of 4096, once in each (R479). -/
def Slice.windowStart (s : Slice) : Slice :=
  if !s.clocked || s.now % 4096 != 0 || s.meas.window == some s.now then s
  else
    let s := (List.range 8).foldl Slice.classWindow s
    let s := (List.range 256).foldl Slice.masterWindow s
    s.modMeas fun q => { q with
      overBud := 0, latSum := List.replicate 8 0, latCnt := List.replicate 8 0, window := some s.now }

/-- A regulation window begins. -/
def execRegWindowStart (s : State) : Host.Outcome State Fault Refusal := s.run fun _ sl => sl.windowStart

/-! ### The cycle -/

/-- One SCLK cycle ends (R676 to R683, R622). -/
def execSclkCycle (s : State) : Host.Outcome State Fault Refusal := .next s.cycle

end Sys2Proof.Machine
end

