-- ==== Sys2Proof/Machine/Teardown.lean ====
section
/-! DEFINITION. Hangs and purges (R615 to R628): control messages, the work of a context that a purge ends, the record of a hang, and
orphaned issue entries. -/

namespace Sys2Proof.Machine

/-! ### Work of an older generation -/

/-- Context `ctx` of a generation other than the purge's. -/
def oldWork (ctx : BitVec 12) (gen : BitVec 8) (c : BitVec 12) (k : BitVec 8) : Bool := c == ctx && k != gen

/-- A reader of a tracker is old work; messages of clusters are never judged so (R618). -/
def Trk.holdsOld (t : Trk) (ctx : BitVec 12) (gen : BitVec 8) : Bool :=
  t.cl.isNone && t.op != .pxrd && t.op != .pxwr && t.op != .tinv && ((t.req :: t.joined.map (·.1)).any fun r => oldWork ctx gen r.ctx r.gen)

/-- Every reader of a tracker is. -/
def Trk.allOld (t : Trk) (ctx : BitVec 12) (gen : BitVec 8) : Bool :=
  t.holdsOld ctx gen && (t.req :: t.joined.map (·.1)).all fun r => oldWork ctx gen r.ctx r.gen

/-- The purge lets the tracker finish (R625, R626): it is applied, or it is a read whose line is on the way from the channel or host memory. A
write, atomic or arrival in that state has not begun its update, and a proxy is no action of the slice. What is written to memory without a
way has begun once an operation of it has left. -/
def Slice.begun (s : Slice) (t : Trk) : Bool :=
  match t.stage with
  | .loanAck | .done => true
  | .drain => t.drains = 0 || (s.chan.ops.filter fun o => o.why == .trk t.id && !s.opLeft o).length < t.drains
  | .fill => t.kind == .read && s.chan.ops.any fun o => o.why == .trk t.id && s.opLeft o && (match o.sent with
    | some (.chan _) | some (.host _) => true
    | _ => false)
  | _ => false

/-- Orphan an issue entry: its epoch advances, and a later reply is dropped (R621). -/
def Slice.orphan (s : Slice) (e : Nat) : Slice :=
  s.modOut fun o =>
    { o.advance e with issue := replaceFirst (fun i => i.entry == e) (fun i => { i with orphan := true, since := s.now }) o.issue }

/-- What a proxy of an abandoned operation counts as while its reply is due: the line request of a bulk command that it serves (R190). -/
def MemOp.left (o : MemOp) : Why :=
  match o.why with
  | .restore c vl => .bulkRd c vl
  | _ => .proxy o.id

/-- A memory operation of discarded work: one that has not been issued is not, one that waits to leave as a proxy or for host memory is not
sent, and a proxy that has been sent is orphaned (R626). What is on the channel or at the host goes on. -/
def Slice.abandonOp (s : Slice) (o : MemOp) : Slice :=
  if !s.opLeft o then (s.modOut fun q => { q with outq := q.outq.eraseP o.waitsIn }).dropOp o.id
  else match o.sent with
  | some (.proxy _ _ _) =>
    let es := s.out.issue.filter (·.why == .proxy o.id)
    let s := es.foldl (fun s i => s.orphan i.entry) s
    (s.modOut fun q => { q with issue := q.issue.map fun i => if i.why == .proxy o.id then { i with why := o.left } else i }).dropOp o.id
  | _ => s

/-- The fill of a discarded request goes on without it where it has been sent for a way, and its victim stays if it has not begun to leave
(R626). Where nothing has been sent, the way is free again, and what was to be written to memory is not. -/
def Slice.leaveFill (s : Slice) (t : Trk) : Slice :=
  let set := setOf t.req.line
  match t.stage, s.chan.ops.find? (fun o => o.why == .trk t.id), t.way with
  | .fill, some o, some w =>
    if s.opLeft o then s.modOp o.id fun o => { o with why := .fill w set }
    else
      let s := s.abandonOp o
      if tagSV (s.tag w set) = 0 then s.clearEntry w set else s.setTag w set (setBUSY (s.tag w set) false)
  | .fill, some o, none => s.abandonOp o
  | .victim, _, some w => if s.evicting w set then s else s.setTag w set (setBUSY (s.tag w set) false)
  | .drain, _, _ => (s.chan.ops.filter (·.why == .trk t.id)).foldl Slice.abandonOp s
  | _, _, _ => s.unclaim t

/-- Free a tracker without a reply. A directory transaction that runs for it goes on without a requester. -/
def Slice.dropTrk (s : Slice) (id : Nat) : Slice :=
  let s := match s.trk? id with
    | some t => s.leaveFill t
    | none => s
  let s := (s.freeTrk id).modPort fun p => { p with
    trks := p.trks.filter (fun t => t.id != id), fwdWr := p.fwdWr.filter (fun q => q.1 != id) }
  let mine := fun (t : Txn) => t.who == TxnWho.tracker id
  let left := fun (t : Txn) =>
    if mine t then { t with who := TxnWho.victim, kind := (if t.kind == TxnKind.near then TxnKind.ncWrite else t.kind) } else t
  s.modCoh fun c => { c with txns := (c.txns.filter fun t => !(mine t && t.waitVictim.isSome)).map left }

/-- Why a request was issued: for a proxy, which carries no context (R618, R626). -/
def Why.isProxy : Why → Bool
  | .proxy _ => true
  | _ => false

/-! ### PURGE (R625, R626) -/

/-- End every group of the context, without a record (R307, R308). Its group-control commands of an older generation that wait are discarded, a
staged one with RSTATUS ABORTED (assumption 119). -/
def Slice.purgeGrps (s : Slice) (g : List (Nat × BitVec 8)) (ctx : BitVec 12) (gen : BitVec 8) : Slice :=
  let mine := s.grpHeld.filter fun a => oldWork ctx gen a.req.ctx a.req.gen
  let s := { s with grpHeld := s.grpHeld.filter fun a => !oldWork ctx gen a.req.ctx a.req.gen }
  let s := (mine.filter (·.staged)).foldl (fun s a => s.grpAnswer g a GS.ABORTED) s
  (s.grps.filter (fun p => p.req.ctx == ctx)).foldl (fun s p => s.endGrp g p.num false) s

/-- Clear the context's accession counters (R463). -/
def Slice.purgeCounters (s : Slice) (ctx : BitVec 12) : Slice :=
  (List.range 256).foldl (fun s k => if s.fld (NS_ACCN_TARGET.CTX k) = ctx.toNat then s.clearCounter k else s) s

/-- Release the context's reserved credits (R402). -/
def Slice.purgeCredits (s : Slice) (ctx : BitVec 12) : Slice :=
  (s.port.credits.filter (fun c => c.msg.isNone && c.ctx == ctx)).foldl (fun s c => s.dropCredit c.reqid.toNat) s

/-- The forward of a combined read that also has readers the purge does not end: its tracker proceeds (R626). -/
def Slice.fwdLive (s : Slice) (ctx : BitVec 12) (gen : BitVec 8) (w : Why) : Bool :=
  match w with
  | .fwd id => match s.trk? id with
    | some t => !t.allOld ctx gen
    | none => false
  | _ => false

/-- A forward that goes on without its first reader is issued for a reader that is left (assumption 120). -/
def Slice.releadReq (s : Slice) (g : List (Nat × BitVec 8)) (ctx : BitVec 12) (gen : BitVec 8) (q : OReq) : OReq :=
  match q.why with
  | .fwd id =>
    match (if oldWork ctx gen q.req.ctx q.req.gen then s.trk? id else none) with
    | some t => { q with req := { q.req with ctx := (t.lead g).ctx, gen := (t.lead g).gen } }
    | none => q
  | _ => q

/-- Discard what waits to be issued: requests, image reads, records and fence sweeps of old work. A proxy is judged with the work it is
for. -/
def Slice.purgeUnsent (s : Slice) (g : List (Nat × BitVec 8)) (ctx : BitVec 12) (gen : BitVec 8) : Slice :=
  let keep := fun (i : OutItem) => match i.msg with
    | .req q => q.why.isProxy || !oldWork ctx gen q.req.ctx q.req.gen || s.fwdLive ctx gen q.why
    | _ => true
  let lead := fun (i : OutItem) => match i.msg with
    | .req q => { i with msg := .req (s.releadReq g ctx gen q) }
    | _ => i
  let s := s.modOut fun o => { o with outq := (o.outq.filter keep).map lead }
  let s := (s.chan.ops.filter fun o => match o.why with
    | .restore _ _ => oldWork ctx gen o.ctx o.gen
    | _ => false).foldl Slice.abandonOp s
  let s := s.modBulk fun b => { b with cpls := b.cpls.filter (fun r => !oldWork ctx gen r.ctx r.gen) }
  s.modPort fun p => { p with sweeps := p.sweeps.filter (fun w => !oldWork ctx gen w.dest.ctx w.dest.gen) }

/-- Free the trackers that have begun nothing, and those that await a reply from outside. -/
def Slice.purgeTrks (s : Slice) (ctx : BitVec 12) (gen : BitVec 8) : Slice :=
  (s.port.trks.filter (fun t => t.allOld ctx gen && !s.begun t)).foldl (fun s t => s.dropTrk t.id) s

/-- Orphan the issue entries of old work. -/
def Slice.purgeIssue (s : Slice) (ctx : BitVec 12) (gen : BitVec 8) : Slice :=
  let es := s.out.issue.filter fun i => !i.orphan && !i.why.isProxy && oldWork ctx gen i.ctx i.gen && !s.fwdLive ctx gen i.why
  es.foldl (fun s i => s.orphan i.entry) s

/-- Orphaned issue entries. -/
def Slice.orphans (s : Slice) : Nat := (s.out.issue.filter (·.orphan)).length

/-- The purge up to its wait; GENTAB names the new generation already. NS_RC_PURGE.ORPHAN shows how many entries it has orphaned. -/
def Slice.purgeStart (s : Slice) (g : List (Nat × BitVec 8)) (ctx : BitVec 12) (gen : BitVec 8) : Slice :=
  let s := ((s.setFld NS_RC_PURGE.BUSY 1).setFld NS_RC_PURGE.CTX ctx.toNat).setFld NS_RC_PURGE.GEN gen.toNat
  let s := s.stir.modWalk fun q => { q with purge := some (ctx, gen) }
  let s := (((s.bulkPurge ctx).purgeGrps g ctx gen).purgeCounters ctx).purgeCredits ctx
  let n := s.orphans
  let s := ((s.purgeUnsent g ctx gen).purgeTrks ctx gen).purgeIssue ctx gen
  (s.setFld NS_RC_PURGE.ORPHAN (s.orphans - n)).settle g

/-- CT_MSG_RDY: control messages are taken, one purge at a time (R541). -/
def Slice.msgReady (s : Slice) : Bool := s.ctTakes && s.walk.purge.isNone

/-- The state in whose cycle a control message is judged, where CT takes it (R741). -/
def State.msgFor (s : State) : State := if s.sl.msgReady then s.turnTo Turn.message false else s

/-- A PURGE control message. -/
def State.purge (s : State) (ctx : BitVec 12) (gen : BitVec 8) : State :=
  let s := s.msgFor
  if !s.sl.msgReady then s
  else
    { s with gentab := Sparse.set (fun _ => 0) s.gentab ctx.toNat gen }.effect fun g sl => sl.purgeStart g ctx gen

/-- No old work is in an array or channel action (R625). -/
def Slice.purgeOver (s : Slice) (ctx : BitVec 12) (gen : BitVec 8) : Bool :=
  !s.port.trks.any (fun t => t.holdsOld ctx gen && t.stage != .done && s.begun t) &&
    !s.chan.ops.any (fun o => match o.why with
      | .restore _ _ => oldWork ctx gen o.ctx o.gen
      | _ => false)

/-- Zero the lines of a region and mark them initialised (R138), but in safe mode, which keeps what V ways hold (R47). -/
def Slice.zeroRegion (s : Slice) (n : Nat) : Slice :=
  if s.safe then s else
  let a := s.fld (NS_VT_REGION.BASE n)
  let z := s.fld (NS_VT_REGION.LIMIT n)
  (List.range (32 * (z + 1 - a))).foldl (fun s i => s.vtPut (32 * a + i) 0 0) s

/-- The regions that a teardown of the context zeroes. -/
def Slice.teardownRegions (s : Slice) (ctx : BitVec 12) : List Nat :=
  (List.range 64).filter fun n => s.flag (NS_VT_REGION.EN n) && s.flag (NS_VT_REGION.TEARDOWN n) &&
    s.fld (NS_VT_REGION.CTX n) == ctx.toNat

/-- The purge ends. -/
def Slice.purgeEnds (s : Slice) (g : List (Nat × BitVec 8)) : Slice :=
  match s.walk.purge with
  | none => s
  | some (ctx, gen) =>
    if !s.sys.sclkRuns || !s.purgeOver ctx gen then s
    else
      let s := (s.teardownRegions ctx).foldl (fun s n => s.zeroRegion n) s
      let s := (s.bump NS_RC_PURGE.COUNT 1).setFld NS_RC_PURGE.BUSY 0
      let s := (s.modSys fun y => { y with msgDone := y.msgDone + 1 }).modWalk fun q => { q with purge := none }
      s.settle g

/-- A control message of a reserved type is ignored and recorded (R541, R742, R743). -/
def Slice.badMessage (s : Slice) (word : BitVec 32) : Slice :=
  if !s.msgReady then s
  else s.stir.err { code := ErrCode.CTMSG, src := 3, priv := 0, opc := 0, who := 0, srcdie := 0, ctx := getBits word 16 12,
                    gen := getBits word 8 8, detail := word.toNat }

/-- A control message of a reserved type (R541). -/
def execCtMsgReserved (word : BitVec 32) (s : State) : Host.Outcome State Fault Refusal :=
  .next (s.msgFor.effect fun _ sl => sl.badMessage word)

/-- A PURGE control message (R625 to R628). -/
def execPurge (ctx : BitVec 12) (gen : BitVec 8) (s : State) : Host.Outcome State Fault Refusal := .next (s.purge ctx gen)

/-- No purged work remains in an action: regions are zeroed and the purge is reported (R138, R625). -/
def execPurgeDone (s : State) : Host.Outcome State Fault Refusal := s.run fun g sl => sl.purgeEnds g

/-! ### Hangs (R622 to R624) -/

/-- A pending unit: the cycle its age counts from, and the requester, context and opcode of the request that started it. -/
structure HangUnit where
  born : Nat
  reqid : Nat
  ctx : Nat
  opc : Nat
  deriving DecidableEq, Repr

def Trk.unit (t : Trk) : HangUnit :=
  { born := t.born, reqid := t.req.reqid.toNat, ctx := t.req.ctx.toNat, opc := if t.cl.isSome then 0 else t.op.code }

/-- The unit of work that a cluster or a tracker's request started, or no request. -/
def Slice.whoUnit (s : Slice) (who : TxnWho) (born : Nat) : HangUnit :=
  match who with
  | .cluster c => { born := born, reqid := 144 + c, ctx := 0, opc := 0 }
  | .tracker id => match s.trk? id with
    | some u => u.unit
    | none => { born := born, reqid := 0, ctx := 0, opc := 0 }
  | .victim | .recovery => { born := born, reqid := 0, ctx := 0, opc := 0 }

/-- The unit of a transaction; a directory victim is taken for the request that waits for its entry. -/
def Slice.txnUnit (s : Slice) (t : Txn) : HangUnit :=
  match (if t.who == .victim then s.coh.txns.find? (fun u => u.waitVictim == some t.line) else none) with
  | some u => s.whoUnit u.who u.born
  | none => s.whoUnit t.who t.born

/-- The unit of a line that is written back (R624): of the request that waits for its way, of the cluster whose request took it, or of
none. -/
def Slice.evictUnit (s : Slice) (o : MemOp) : HangUnit :=
  match o.why with
  | .evict w n => match s.port.trks.find? (fun t => t.victimAt w n) with
    | some t => t.unit
    | none => { born := o.job.born, reqid := if o.job.kind == .request then o.job.master else 0, ctx := 0, opc := 0 }
  | _ => { born := o.job.born, reqid := 0, ctx := 0, opc := 0 }

/-- The pending units of a kind (R622). -/
def Slice.hangUnits (s : Slice) (k : HangKind) : List HangUnit :=
  let trks := fun (q : TrkKind) =>
    (s.port.trks.filter (·.holds q)).map Trk.unit ++
      (s.coh.txns.filter (fun t => txnTrk t == q)).map s.txnUnit ++
      (s.coh.waiters.filter (fun w => (msgTrks w.msg.num).contains q)).map fun w => s.whoUnit (.cluster w.msg.cl.cluster.toNat) w.born
  match k with
  | .read => trks .read
  | .write => trks .write ++ (s.chan.ops.filter (·.why.isEvict)).map s.evictUnit
  | .red => trks .red
  | .atom => trks .atom
  | .bulk => (s.activeCmd.toList).map fun c =>
      { born := c.born, reqid := c.reqid.toNat, ctx := c.ctx.toNat, opc := Op.cmdwr.code }
  | .group => (s.grps.filter (fun p => s.grpState p.num != GSt.OPEN)).map fun p =>
      { born := p.born, reqid := p.req.reqid.toNat, ctx := p.req.ctx.toNat, opc := Op.grpctl.code }
  | .coh => s.coh.txns.map s.txnUnit ++ s.coh.recover.map fun _ => { born := s.coh.recoverAt, reqid := 0, ctx := 0, opc := 0 }
  | .accn => (s.holds.filter (·.issued)).map fun h =>
      { born := h.born, reqid := h.req.reqid.toNat, ctx := h.req.ctx.toNat, opc := Op.sealwr.code }

/-- The unit that has been pending longest. -/
def oldestUnit : List HangUnit → Option HangUnit
  | [] => none
  | u :: us => some (us.foldl (fun b v => if v.born < b.born then v else b) u)

/-- The number of a kind (R622). -/
def HangKind.num : HangKind → Nat
  | .read => 0 | .write => 1 | .red => 2 | .atom => 3 | .bulk => 4 | .group => 5 | .coh => 6 | .accn => 7

/-- A progress counter has reached the window: one stall raises one event (R624). -/
def Slice.hangs (s : Slice) (kind : HangKind) : Slice :=
  let k := HangKind.num kind
  if !s.sys.sclkRuns || s.meas.prog.getD k 0 < s.hangLimit || bitAt s.meas.hung k then s
  else
    let u := (oldestUnit (s.hangUnits kind)).getD { born := s.now, reqid := 0, ctx := 0, opc := 0 }
    let s := (s.setFld ⟨Reg.NS_RC_HANG, 56 + k, 1⟩ 1).setFld NS_RC_HANG.KIND k
    let s := ((s.setFld NS_RC_HANG.REQID u.reqid).setFld NS_RC_HANG.CTX u.ctx).setFld NS_RC_HANG.OPC u.opc
    let s := (s.setFld NS_RC_HANG.AGE (min (2 ^ 27 - 1) (s.now - u.born))).irqSet NS_IRQ_STAT.HANG
    s.modMeas fun q => { q with hung := q.hung ||| ((1 : BitVec 8) <<< k) }

/-- A progress counter reaches the hang window. -/
def execHang (kind : HangKind) (s : State) : Host.Outcome State Fault Refusal := s.run fun _ sl => sl.hangs kind

/-- An orphaned entry becomes reusable after the hang window, if its reply has not arrived (R621). -/
def Slice.orphanExpires (s : Slice) (g : List (Nat × BitVec 8)) (e : Nat) : Slice :=
  if s.sys.sclkRuns && s.out.issue.any (fun i => i.entry == e && i.orphan && decide (s.hangLimit ≤ s.now - i.since)) then
    (s.closeEntry e).settle g
  else s

/-- An orphaned issue entry becomes reusable. -/
def execOrphanEntryExpire (entry : BitVec 9) (s : State) : Host.Outcome State Fault Refusal :=
  s.run fun g sl => sl.orphanExpires g entry.toNat

end Sys2Proof.Machine
end

