-- ==== Sys2Proof/Machine/Diag.lean ====
section
/-! DEFINITION. The diagnostic windows of page 12 (R746 to R753): what a diagnostic read returns of an array or a table. -/

namespace Sys2Proof.Machine

/-- What a diagnostic read writes. -/
structure DiagOut where
  data : List Word
  ue : Nat
  ce : Nat
  range : Bool
  pois : BitVec 12
  deriving DecidableEq, Repr

/-- A read that R749 refuses. -/
def diagRange : DiagOut := { data := [], ue := 0, ce := 0, range := true, pois := 0 }

/-- The result of a table that keeps no check bits. -/
def diagPlain (data : List Word) : DiagOut := { data := data, ue := 0, ce := 0, range := false, pois := 0 }

/-- A bookkeeping word as a diagnostic read returns it, with its decoding (R748). -/
def diagBk (w : Word) (syn : BitVec 8) : Word × WordDec :=
  match decBk syn with
  | .single b => (if b < 64 then w ^^^ ((1 : Word) <<< b) else w, .single b)
  | d => (w, d)

/-- A data word as a diagnostic read returns it. -/
def diagData (w : BitVec 32) (syn : BitVec 7) : BitVec 32 × WordDec :=
  match decData syn with
  | .single b => (if b < 32 then w ^^^ ((1 : BitVec 32) <<< b) else w, .single b)
  | d => (w, d)

/-- The masks of a list of decodings. -/
def ueMask (ds : List WordDec) : Nat := ds.zipIdx.foldl (fun n p => if p.1 == .bad then n + 2 ^ p.2 else n) 0
def ceMask (ds : List WordDec) : Nat := ds.zipIdx.foldl (fun n p => match p.1 with
  | .single _ => n + 2 ^ p.2
  | _ => n) 0

/-- The result of bookkeeping words. -/
def diagWords (ws : List (Word × WordDec)) : DiagOut :=
  { data := ws.map (·.1), ue := ueMask (ws.map (·.2)), ce := ceMask (ws.map (·.2)), range := false, pois := 0 }

/-- LINE: the 32 data words of a way of a set. -/
def Slice.diagLine (s : Slice) (way set : Nat) : DiagOut :=
  let ws := (List.range 32).map fun i =>
    let wi := wordIx way set i
    diagData (s.mem.word wi) (s.mem.chkAt wi)
  let data := (List.range 16).map fun i =>
    let half := fun (j : Nat) => ((ws.getD j (0, .good)).1.setWidth 64 : Word)
    half (2 * i) ||| (half (2 * i + 1) <<< 32)
  { data := data, ue := ueMask (ws.map (·.2)), ce := ceMask (ws.map (·.2)), range := false, pois := s.mem.poisonOf way set 15 }

/-- CREDIT: the entry of a requester identity. -/
def Slice.diagCredit (s : Slice) (i : Nat) : DiagOut :=
  match s.port.credits.find? (fun c => c.reqid.toNat == i) with
  | none => diagPlain [0, 0]
  | some c =>
    let res := match c.res with
      | .line _ => 0 | .set _ _ => 1 | .dirset _ => 2 | .chan => 3
    let w : Word := setBits (setBits (setBits (setBits (setBits (setBits 0 63 1 1) 62 1 (b2n c.granted)) 60 2 res) 54 6 c.op.code)
      42 12 c.ctx.toNat) 34 8 c.gen.toNat
    diagPlain [w, BitVec.ofNat 64 (c.pa.toNat / 128)]

/-- ISSUE: an issue entry. -/
def Slice.diagIssue (s : Slice) (e : Nat) : DiagOut :=
  let ep : Word := setBits 0 59 3 (s.out.epochOf e).toNat
  match s.out.issue.find? (fun i => i.entry == e) with
  | none => diagPlain [ep, 0]
  | some i =>
    let w : Word := setBits (setBits (setBits (setBits (setBits (setBits ep 63 1 1) 62 1 (b2n i.orphan)) 53 6 i.op.code)
      41 12 i.ctx.toNat) 33 8 i.gen.toNat) 30 3 i.die
    diagPlain [w, BitVec.ofNat 64 i.line.toNat]

/-- The result for the target, way, set and index of NS_DG_SEL (R749). -/
def Slice.diagRead (s : Slice) : DiagOut :=
  let way := s.fld NS_DG_SEL.WAY
  let set := s.fld NS_DG_SEL.SET
  let i := s.fld NS_DG_SEL.INDEX
  let ix := wsIx way set
  match s.fld NS_DG_SEL.TARGET with
  | 0 => diagWords [diagBk (s.tagWord way set) (s.mem.bkAt 0 ix)]
  | 1 =>
    if s.wayCode way != Use.L then diagRange
    else
      let p := diagBk ((s.mem.loanAt way set).setWidth 64) (s.mem.bkAt 2 ix)
      diagWords [(p.1 &&& 0xFF, p.2)]
  | 2 =>
    let p := diagBk ((s.mem.glwAt way set).setWidth 64) (s.mem.bkAt 1 ix)
    diagWords [(p.1 &&& 0xFFFFFF, p.2)]
  | 3 =>
    if 7 < i then diagRange
    else diagWords ((List.range 2).map fun k => diagBk (s.mem.dirWord set i k) (s.mem.bkAt 3 (dirIx set i k)))
  | 4 => s.diagLine way set
  | 5 => diagPlain [((Sparse.get (fun _ => 0) s.mem.pred i).setWidth 64)]
  | 6 =>
    if 63 < i then diagRange
    else match s.mem.deacf[i]? with
      | none => diagPlain [0]
      | some l => diagPlain [setBits (BitVec.ofNat 64 l.toNat) 63 1 1]
  | 7 => if 255 < i then diagRange else s.diagCredit i
  | _ => s.diagIssue i

/-- Write a result into the windows: the read is done. -/
def Slice.diagPut (s : Slice) (d : DiagOut) : Slice :=
  let s := (List.range 16).foldl (fun s i => s.wr (Reg.NS_DG_DATA i) (d.data.getD i 0)) s
  let s := (s.setFld NS_DG_STAT.UEMASK d.ue).setFld NS_DG_STAT.CEMASK d.ce
  let s := ((s.setFld NS_DG_STAT2.RANGE (b2n d.range)).setFld NS_DG_STAT2.POIS (poisBits d.pois).toNat).setFld
    NS_DG_STAT2.PCAUSE d.pois.toNat
  ((s.setFld NS_DG_SEL.BUSY 0).setFld NS_DG_SEL.DONE 1).modWalk fun q => { q with diag := none }

/-- The read waits: its target is an array, and an access to its line or directory set accepted before GO is not applied (R746). -/
def Slice.diagWaits (s : Slice) (since : Nat) : Bool :=
  let set := s.fld NS_DG_SEL.SET
  s.fld NS_DG_SEL.TARGET < 5 && s.setInUse (s.fld NS_DG_SEL.WAY) set since

/-- A diagnostic read completes. -/
def Slice.diagEnds (s : Slice) : Slice :=
  match s.walk.diag with
  | none => s
  | some since => if s.diagWaits since || !s.sys.sclkRuns then s else s.diagPut s.diagRead

end Sys2Proof.Machine
end

