-- ==== Sys2Proof/Machine/Upkeep.lean ====
section
/-! DEFINITION. The ends of the slice's walks and the events of its channel, one meaning a row: way changes, reclaim, write-back, map-out,
scrubbing, diagnostics, the books, the spill of the provenance log, and HC_STATE. -/

namespace Sys2Proof.Machine

/-! ### Walks -/

/-- The way-drain walk takes its next set (R49). -/
def execDrainWalkStep (s : State) : Host.Outcome State Fault Refusal := s.run fun g sl => (sl.drainStep g).settle g

/-- Every draining way is empty: the new map is taken (R49). -/
def execWaychgDone (s : State) : Host.Outcome State Fault Refusal := s.run fun g sl => sl.wayEnds.settle g

/-- The reclaim walk ends (R408, R409); it stands still while idle is requested (R638). -/
def Slice.reclaimEnds (s : Slice) (g : List (Nat × BitVec 8)) : Slice :=
  match s.coh.reclaim with
  | none => s
  | some c =>
    if !s.flag NS_DIR_STAT.RECLBUSY || s.flag NS_RC_BLK.IDLEREQ || !s.sys.sclkRuns then s
    else
      let s := s.reapAll g
      let s := (s.setFld NS_DIR_STAT.RECLBUSY 0).setFld NS_DIR_STAT.RECLDONE 1
      let s := (s.setFld NS_DIR_RECLOG.CLUSTER c).setFld NS_DIR_RECLOG.CLEARED (min 0xFFFFFF s.coh.reclCleared)
      let s := (s.setFld NS_DIR_RECLOG.POISONED (min 0xFFFFFF s.coh.reclPoisoned)).errSlice ErrCode.RECLAIM c
      (s.modCoh fun q => { q with reclaim := none }).settle g

/-- The reclaim walk ends. -/
def execReclaimDone (s : State) : Host.Outcome State Fault Refusal := s.run fun g sl => sl.reclaimEnds g

/-- The write-back walk ends (R657). -/
def execRcWbDone (s : State) : Host.Outcome State Fault Refusal := s.run fun g sl => (sl.wbEnds g).settle g

/-- The PREP work ends (R574). -/
def execPrepDone (s : State) : Host.Outcome State Fault Refusal := s.run fun g sl => (sl.prepEnds g).settle g

/-- The SAVE walk ends (R575). -/
def execSaveDone (s : State) : Host.Outcome State Fault Refusal := s.run fun g sl => (sl.saveEnds g).settle g

/-- The patrol scrubber visits its next line (R585 to R588). -/
def execScrubVisit (s : State) : Host.Outcome State Fault Refusal := s.run fun g sl => (sl.scrub g).settle g

/-- A diagnostic read completes (R746). -/
def execDiagDone (s : State) : Host.Outcome State Fault Refusal := s.run fun _ sl => sl.diagEnds

/-- The books are evaluated (R654, R656). -/
def execBalanceValid (s : State) : Host.Outcome State Fault Refusal :=
  s.run fun _ sl => if sl.balanceDue then sl.evalBooks else sl

/-! ### The spill ring (R700, R701) -/

/-- Entries the ring holds. -/
def Slice.spillSize (s : Slice) : Nat := (s.fld NS_PV_SPILL.LIMIT + 1 - s.fld NS_PV_SPILL.BASE) * 128

/-- The vitrine offset of the next spilled entry. -/
def Slice.spillAt (s : Slice) : Nat := s.fld NS_PV_SPILL.BASE * 4096 + 32 * (s.fld NS_PV_SPILLWP.WP % s.spillSize)

/-- The spill may write an entry now: the array port is released, and the vitrine is not kept as it is by safe mode (R47). -/
def Slice.spillMay (s : Slice) : Bool :=
  s.flag NS_PV_SPILL.EN && s.sys.sclkRuns && 3 ≤ s.sys.released && !s.safe

/-- The 32 bytes of an entry, as a line with the entry at offset `o` of it. -/
def PvEntry.line (e : PvEntry) (o : Nat) : LineData :=
  ((List.range 4).foldl (fun (a : LineData) i => a ||| (((e.word i).setWidth 1024) <<< (64 * i))) 0) <<< (8 * (o % 128))

/-- Write an entry into the ring. -/
def Slice.spillWrite (s : Slice) (e : PvEntry) : Slice :=
  let o := s.spillAt
  let line := o / 128
  let s := if s.vtQuar line then s else s.vtStore line (e.line o) (sectorMask (o % 128 / 32)) 0
  (s.closeLine (.vit (BitVec.ofNat 17 line))).setFld NS_PV_SPILLWP.WP (s.fld NS_PV_SPILLWP.WP + 1)

/-- The log without its oldest entry `e`, which has been spilled in cycle `now`. -/
def Prov.spilled (p : Prov) (e : PvEntry) (now : Word) : Prov :=
  { p with held := p.held.tail
           noted := if e.kind == 1 && e.stamp == now then p.noted.filter (· != e.offset.toNat) else p.noted }

/-- The oldest held entry is spilled; a ring that is no longer in a region of V ways ends spilling. An entry whose write meets a bookkeeping
error that resets the slice (R598) stays held. -/
def State.spill (s : State) : State :=
  match s.prov.held with
  | [] => s
  | e :: _ =>
    if !s.sl.spillMay then s
    else if !s.sl.spillOk (s.sl.fld NS_PV_SPILL.BASE) (s.sl.fld NS_PV_SPILL.LIMIT) then
      s.effect fun _ sl => (sl.setFld NS_PV_SPILL.EN 0).setFld NS_PV_STAT.SPILLERR 1
    else if s.sl.spillSize ≤ (s.sl.fld NS_PV_SPILLWP.WP + 2 ^ 32 - s.sl.fld NS_PV_SPILLRP.RP) % 2 ^ 32 ||
        s.sl.lineWaits (.vit (BitVec.ofNat 17 (s.sl.spillAt / 128))) then s
    else { s with prov := if (s.sl.spillWrite e).sys.bkFail then s.prov else s.prov.spilled e (s.sl.rd Reg.NS_CNT_CYCLE) }.effect
      fun _ sl => sl.spillWrite e

/-- The oldest held provenance entry is spilled. -/
def execSpillEntry (s : State) : Host.Outcome State Fault Refusal := .next { s.spill with turn := Turn.own }

/-! ### HC_STATE (R556 to R565) -/

/-- HC_STATE goes to RETRAIN. -/
def execRetrainEnter (s : State) : Host.Outcome State Fault Refusal := s.run fun g sl => (sl.hcState g HcState.RETRAIN).settle g

/-- HC_STATE reads NORMAL. -/
def execChannelNormal (s : State) : Host.Outcome State Fault Refusal := s.run fun g sl => (sl.hcState g HcState.NORMAL).settle g

/-- HC_STATE becomes MAPPED_OUT. -/
def execChannelLost (s : State) : Host.Outcome State Fault Refusal := s.run fun g sl => (sl.hcState g HcState.MAPPED_OUT).settle g

/-- CSTATE has been RETRAIN for the timeout (R564). -/
def execRetrainTimeout (s : State) : Host.Outcome State Fault Refusal := s.run fun _ sl => sl.retrainExpires

end Sys2Proof.Machine
end

