-- ==== Sys2Proof/Machine/Dispatch.lean ====
section
/-! DEFINITION. The dispatch: one arm per command. -/

namespace Sys2Proof.Machine

/-- The meaning of a command (R4, R18): its effect on everything but the queue. -/
def exec (i : Instr) (s : State) : Host.Outcome State Fault Refusal :=
  match i with
  | .rd r => Sys2Proof.Machine.execRd r s
  | .rdc r => Sys2Proof.Machine.execRdc r s
  | .rdacq r => Sys2Proof.Machine.execRdacq r s
  | .wr r => Sys2Proof.Machine.execWr r s
  | .wrrel r => Sys2Proof.Machine.execWrrel r s
  | .fence r => Sys2Proof.Machine.execFence r s
  | .flush r => Sys2Proof.Machine.execFlush r s
  | .crd r => Sys2Proof.Machine.execCrd r s
  | .cwr r => Sys2Proof.Machine.execCwr r s
  | .vrd r => Sys2Proof.Machine.execVrd r s
  | .vwr r => Sys2Proof.Machine.execVwr r s
  | .vcrd r => Sys2Proof.Machine.execVcrd r s
  | .vcwr r => Sys2Proof.Machine.execVcwr r s
  | .cmdwr r => Sys2Proof.Machine.execCmdwr r s
  | .fill => Sys2Proof.Machine.execFill s
  | .copy => Sys2Proof.Machine.execCopy s
  | .snapshotSave => Sys2Proof.Machine.execSnapshotSave s
  | .snapshotRestore => Sys2Proof.Machine.execSnapshotRestore s
  | .scatterReduce => Sys2Proof.Machine.execScatterReduce s
  | .binv => Sys2Proof.Machine.execBinv s
  | .openGrp g => Sys2Proof.Machine.execOpenGrp g s
  | .closeGrp g => Sys2Proof.Machine.execCloseGrp g s
  | .abortGrp g => Sys2Proof.Machine.execAbortGrp g s
  | .redc r => Sys2Proof.Machine.execRedc r s
  | .redn r => Sys2Proof.Machine.execRedn r s
  | .cntwr r => Sys2Proof.Machine.execCntwr r s
  | .sealwr r => Sys2Proof.Machine.execSealwr r s
  | .accinc r => Sys2Proof.Machine.execAccinc r s
  | .pxrd r => Sys2Proof.Machine.execPxrd r s
  | .pxwr r => Sys2Proof.Machine.execPxwr r s
  | .reservedOpcode code r => Sys2Proof.Machine.execReservedOpcode code r s
  | .swap r => Sys2Proof.Machine.execSwap r s
  | .cas r => Sys2Proof.Machine.execCas r s
  | .add r => Sys2Proof.Machine.execAdd r s
  | .smax r => Sys2Proof.Machine.execSmax r s
  | .smin r => Sys2Proof.Machine.execSmin r s
  | .umax r => Sys2Proof.Machine.execUmax r s
  | .umin r => Sys2Proof.Machine.execUmin r s
  | .band r => Sys2Proof.Machine.execBand r s
  | .bor r => Sys2Proof.Machine.execBor r s
  | .bxor r => Sys2Proof.Machine.execBxor r s
  | .fadd r => Sys2Proof.Machine.execFadd r s
  | .lswap r => Sys2Proof.Machine.execLswap r s
  | .lcstore r => Sys2Proof.Machine.execLcstore r s
  | .ladd r => Sys2Proof.Machine.execLadd r s
  | .land r => Sys2Proof.Machine.execLand r s
  | .lor r => Sys2Proof.Machine.execLor r s
  | .lxor r => Sys2Proof.Machine.execLxor r s
  | .addP r => Sys2Proof.Machine.execAddP r s
  | .smaxP r => Sys2Proof.Machine.execSmaxP r s
  | .sminP r => Sys2Proof.Machine.execSminP r s
  | .umaxP r => Sys2Proof.Machine.execUmaxP r s
  | .uminP r => Sys2Proof.Machine.execUminP r s
  | .bandP r => Sys2Proof.Machine.execBandP r s
  | .borP r => Sys2Proof.Machine.execBorP r s
  | .bxorP r => Sys2Proof.Machine.execBxorP r s
  | .faddP r => Sys2Proof.Machine.execFaddP r s
  | .laddP r => Sys2Proof.Machine.execLaddP r s
  | .landP r => Sys2Proof.Machine.execLandP r s
  | .lorP r => Sys2Proof.Machine.execLorP r s
  | .lxorP r => Sys2Proof.Machine.execLxorP r s
  | .rdS m => Sys2Proof.Machine.execRdS m s
  | .rdX m => Sys2Proof.Machine.execRdX m s
  | .upg m => Sys2Proof.Machine.execUpg m s
  | .wb m => Sys2Proof.Machine.execWb m s
  | .evc m => Sys2Proof.Machine.execEvc m s
  | .atom m a => Sys2Proof.Machine.execAtom m a s
  | .snpAck m had d wbp => Sys2Proof.Machine.execSnpAck m had d wbp s
  | .compAck m => Sys2Proof.Machine.execCompAck m s
  | .snpData m data pois => Sys2Proof.Machine.execSnpData m data pois s
  | .wbData m data pois => Sys2Proof.Machine.execWbData m data pois s
  | .memData line data pois => Sys2Proof.Machine.execMemData line data pois s
  | .dinv die line => Sys2Proof.Machine.execDinv die line s
  | .invConfirm die line => Sys2Proof.Machine.execInvConfirm die line s
  | .ddReply m => Sys2Proof.Machine.execDdReply m s
  | .tileInvAck tile tag => Sys2Proof.Machine.execTileInvAck tile tag s
  | .forwardReply m => Sys2Proof.Machine.execForwardReply m s
  | .sealReleaseReply m => Sys2Proof.Machine.execSealReleaseReply m s
  | .proxyReply m => Sys2Proof.Machine.execProxyReply m s
  | .bulkLineReply m => Sys2Proof.Machine.execBulkLineReply m s
  | .issuedReply m => Sys2Proof.Machine.execIssuedReply m s
  | .hcReadBeat otag data rerr => Sys2Proof.Machine.execHcReadBeat otag data rerr s
  | .hcCreditReturn => Sys2Proof.Machine.execHcCreditReturn s
  | .mrCreditReturn => Sys2Proof.Machine.execMrCreditReturn s
  | .moCreditReturn => Sys2Proof.Machine.execMoCreditReturn s
  | .lwCreditReturn cls => Sys2Proof.Machine.execLwCreditReturn cls s
  | .ddCreditReturn die cls => Sys2Proof.Machine.execDdCreditReturn die cls s
  | .translationDone va pa => Sys2Proof.Machine.execTranslationDone va pa s
  | .iommuFault va => Sys2Proof.Machine.execIommuFault va s
  | .bulkCommandStart => Sys2Proof.Machine.execBulkCommandStart s
  | .bulkLineIssue => Sys2Proof.Machine.execBulkLineIssue s
  | .bulkPreempt => Sys2Proof.Machine.execBulkPreempt s
  | .completionRecord cpl => Sys2Proof.Machine.execCompletionRecord cpl s
  | .blkCtlPause a => Sys2Proof.Machine.execBlkCtlPause a s
  | .blkCtlAbort a => Sys2Proof.Machine.execBlkCtlAbort a s
  | .waychgGo a => Sys2Proof.Machine.execWaychgGo a s
  | .drainWalkStep => Sys2Proof.Machine.execDrainWalkStep s
  | .waychgDone => Sys2Proof.Machine.execWaychgDone s
  | .distCtlWrite a => Sys2Proof.Machine.execDistCtlWrite a s
  | .vtRegionWrite n a => Sys2Proof.Machine.execVtRegionWrite n a s
  | .fpWinWrite n b a => Sys2Proof.Machine.execFpWinWrite n b a s
  | .groupInitDone g => Sys2Proof.Machine.execGroupInitDone g s
  | .arrivalCombined => Sys2Proof.Machine.execArrivalCombined s
  | .epilogueStart g => Sys2Proof.Machine.execEpilogueStart g s
  | .epilogueDone g => Sys2Proof.Machine.execEpilogueDone g s
  | .predclr a => Sys2Proof.Machine.execPredclr a s
  | .dirReclaimGo a => Sys2Proof.Machine.execDirReclaimGo a s
  | .reclaimDone => Sys2Proof.Machine.execReclaimDone s
  | .deadmaskWrite a => Sys2Proof.Machine.execDeadmaskWrite a s
  | .snoopTimeout m => Sys2Proof.Machine.execSnoopTimeout m s
  | .creditTimeout reqid => Sys2Proof.Machine.execCreditTimeout reqid s
  | .accnTargetWrite k a => Sys2Proof.Machine.execAccnTargetWrite k a s
  | .regWindowStart => Sys2Proof.Machine.execRegWindowStart s
  | .slackZero reqid srcdie tag => Sys2Proof.Machine.execSlackZero reqid srcdie tag s
  | .serviceGrant p => Sys2Proof.Machine.execServiceGrant p s
  | .budgetWrite m a => Sys2Proof.Machine.execBudgetWrite m a s
  | .replyBeat => Sys2Proof.Machine.execReplyBeat s
  | .sclkDivChange => Sys2Proof.Machine.execSclkDivChange s
  | .sleepEnter => Sys2Proof.Machine.execSleepEnter s
  | .wake => Sys2Proof.Machine.execWake s
  | .resleep => Sys2Proof.Machine.execResleep s
  | .frz => Sys2Proof.Machine.execFrz s
  | .ctMsgReserved word => Sys2Proof.Machine.execCtMsgReserved word s
  | .purge ctx gen => Sys2Proof.Machine.execPurge ctx gen s
  | .purgeDone => Sys2Proof.Machine.execPurgeDone s
  | .hang kind => Sys2Proof.Machine.execHang kind s
  | .orphanEntryExpire entry => Sys2Proof.Machine.execOrphanEntryExpire entry s
  | .idlereq a => Sys2Proof.Machine.execIdlereq a s
  | .blockResetGo a => Sys2Proof.Machine.execBlockResetGo a s
  | .blockResetProceed => Sys2Proof.Machine.execBlockResetProceed s
  | .rcWbGo a => Sys2Proof.Machine.execRcWbGo a s
  | .rcWbDone => Sys2Proof.Machine.execRcWbDone s
  | .credrel a => Sys2Proof.Machine.execCredrel a s
  | .fwifGo a => Sys2Proof.Machine.execFwifGo a s
  | .powerOnReset => Sys2Proof.Machine.execPowerOnReset s
  | .packageReset => Sys2Proof.Machine.execPackageReset s
  | .computeReset => Sys2Proof.Machine.execComputeReset s
  | .glitch => Sys2Proof.Machine.execGlitch s
  | .resetEnd => Sys2Proof.Machine.execResetEnd s
  | .clockIslandRelease => Sys2Proof.Machine.execClockIslandRelease s
  | .tagDirectorySweep => Sys2Proof.Machine.execTagDirectorySweep s
  | .dataTierPortRelease => Sys2Proof.Machine.execDataTierPortRelease s
  | .memoryPortRelease => Sys2Proof.Machine.execMemoryPortRelease s
  | .meshPortRelease => Sys2Proof.Machine.execMeshPortRelease s
  | .lclPortRelease => Sys2Proof.Machine.execLclPortRelease s
  | .snoopRecovery => Sys2Proof.Machine.execSnoopRecovery s
  | .balanceValid => Sys2Proof.Machine.execBalanceValid s
  | .retrainEnter => Sys2Proof.Machine.execRetrainEnter s
  | .channelNormal => Sys2Proof.Machine.execChannelNormal s
  | .channelLost => Sys2Proof.Machine.execChannelLost s
  | .retrainTimeout => Sys2Proof.Machine.execRetrainTimeout s
  | .maplistWrite a => Sys2Proof.Machine.execMaplistWrite a s
  | .prep a => Sys2Proof.Machine.execPrep a s
  | .prepDone => Sys2Proof.Machine.execPrepDone s
  | .save a => Sys2Proof.Machine.execSave a s
  | .saveDone => Sys2Proof.Machine.execSaveDone s
  | .scrubVisit => Sys2Proof.Machine.execScrubVisit s
  | .qset a => Sys2Proof.Machine.execQset a s
  | .qclr a => Sys2Proof.Machine.execQclr a s
  | .rawrd a => Sys2Proof.Machine.execRawrd a s
  | .rawwr a => Sys2Proof.Machine.execRawwr a s
  | .pop a => Sys2Proof.Machine.execPop a s
  | .spillEntry => Sys2Proof.Machine.execSpillEntry s
  | .pvSpillWrite a => Sys2Proof.Machine.execPvSpillWrite a s
  | .irqSet a => Sys2Proof.Machine.execIrqSet a s
  | .diagGo a => Sys2Proof.Machine.execDiagGo a s
  | .diagDone => Sys2Proof.Machine.execDiagDone s
  | .registerWrite off userPage a => Sys2Proof.Machine.execRegisterWrite off userPage a s
  | .registerRead off userPage a => Sys2Proof.Machine.execRegisterRead off userPage a s
  | .sclkCycle => Sys2Proof.Machine.execSclkCycle s
  | .frzFall => Sys2Proof.Machine.execFrzFall s
  | .standbyPowerUp => Sys2Proof.Machine.execStandbyPowerUp s
  | .sclkRunsAgain => Sys2Proof.Machine.execSclkRunsAgain s

end Sys2Proof.Machine
end

