-- ==== Sys2Proof/Machine/Header.lean ====
section
/-! DEFINITION. The header words: where the request header of R507, the opcode of R512 and the reply header of R521 keep their fields. -/

namespace Sys2Proof

/-- The opcode of a code (R512); a reserved code is itself. -/
def Op.ofCode (c : BitVec 6) : Op :=
  ([.rd, .rdc, .rdacq, .wr, .wrrel, .fence, .flush, .crd, .cwr, .vrd, .vwr, .vcrd, .vcwr, .cmdwr, .grpctl, .redc, .redn, .cntwr,
    .sealwr, .accinc, .pxrd, .pxwr, .tinv].getD c.toNat
   (if c.toNat < 0x20 then .other c
    else ([AOp.swap, .cas, .add, .smax, .smin, .umax, .umin, .band, .bor, .bxor, .fadd, .lswap, .lcstore, .ladd, .land, .lor, .lxor].map
        (Op.atom · false) ++
      [AOp.add, .smax, .smin, .umax, .umin, .band, .bor, .bxor, .fadd, .ladd, .land, .lor, .lxor].map (Op.atom · true)).getD
        (c.toNat - 0x20) (.other c)))

/-- The 384 bits of a request header (R507), from bit 383 down; reserved bits are sent as zero (R508). -/
def Req.header (op : Op) (r : Req) : BitVec 384 :=
  r.mask ++ r.aux ++ (0 : BitVec 41) ++ r.priv ++ r.pcause ++ r.pois ++ BitVec.ofBool r.cred ++ BitVec.ofBool r.vsp ++ r.tag ++ r.srcdie ++
    r.reqid ++ r.pa ++ r.group ++ r.fmt ++ r.slack ++ r.cls ++ r.hint ++ r.scope ++ r.gen ++ r.ctx ++ BitVec.ofNat 6 op.code

/-- The opcode of a request header. -/
def headerOp (h : BitVec 384) : Op := Op.ofCode (h.extractLsb' 0 6)

/-- The request of a header with its data line, presented as `via`, `odd` and `peer` say; reserved bits are ignored (R508). -/
def headerReq (h : BitVec 384) (data : LineData) (via : Via) (odd : Bool) (peer : Option Peer) : Req :=
  { via := via, odd := odd, peer := peer, data := data,
    mask := h.extractLsb' 256 128, aux := h.extractLsb' 192 64, priv := h.extractLsb' 149 2, pcause := h.extractLsb' 137 12,
    pois := h.extractLsb' 133 4, cred := h.getLsbD 132, vsp := h.getLsbD 131, tag := h.extractLsb' 119 12, srcdie := h.extractLsb' 116 3,
    reqid := h.extractLsb' 108 8, pa := h.extractLsb' 56 52, group := h.extractLsb' 50 6, fmt := h.extractLsb' 45 5,
    slack := h.extractLsb' 33 12, cls := h.extractLsb' 30 3, hint := h.extractLsb' 28 2, scope := h.extractLsb' 26 2,
    gen := h.extractLsb' 18 8, ctx := h.extractLsb' 6 12 }

/-- An entry of DEST: TAG, REQID and SRCDIE (R521). -/
def destBits (tag : BitVec 12) (reqid : BitVec 8) (srcdie : BitVec 3) : BitVec 23 := tag ++ reqid ++ srcdie

/-- The 512 bits of a reply header with the DEST entries `ds` (R521); unused entries and reserved bits are zero. -/
def replyHeader (ds : List (BitVec 23)) (m : RepMsg) : BitVec 512 :=
  let dest := fun k => ds.getD k 0
  dest 15 ++ dest 14 ++ dest 13 ++ dest 12 ++ dest 11 ++ dest 10 ++ dest 9 ++ dest 8 ++ dest 7 ++ dest 6 ++ dest 5 ++ dest 4 ++ dest 3 ++
    dest 2 ++ dest 1 ++ dest 0 ++ (0 : BitVec 68) ++ BitVec.ofNat 5 ds.length ++ m.auxr ++ m.pcause ++ m.pois ++ m.npart ++ m.part ++
    m.acklvl ++ m.detail ++ m.status

/-- The valid DEST entries of a reply header. -/
def headerDests (h : BitVec 512) : List (BitVec 23) :=
  (List.range (h.extractLsb' 71 5).toNat).map fun k => h.extractLsb' (144 + 23 * k) 23

/-- The fields of a reply header with its data line, as its first destination takes it. -/
def headerReply (h : BitVec 512) (data : LineData) : RepMsg :=
  { tag := h.extractLsb' 155 12, status := h.extractLsb' 0 6, detail := h.extractLsb' 6 8, acklvl := h.extractLsb' 14 2,
    part := h.extractLsb' 16 3, npart := h.extractLsb' 19 4, pois := h.extractLsb' 23 4, pcause := h.extractLsb' 27 12,
    auxr := h.extractLsb' 39 32, data := data }

namespace Machine

/-- The header with which a beat leaves on MR or DD (R521): POIS and PCAUSE are its sectors' causes. -/
def Beat.header (b : Beat) : BitVec 512 :=
  replyHeader (b.dests.map fun d => destBits d.tag d.reqid d.srcdie)
    { tag := 0, status := BitVec.ofNat 6 b.status, detail := BitVec.ofNat 8 b.detail, acklvl := BitVec.ofNat 2 b.acklvl,
      part := BitVec.ofNat 3 b.part, npart := BitVec.ofNat 4 b.npart, auxr := BitVec.ofNat 32 b.auxr, pcause := b.pz,
      pois := (List.range 4).foldl (fun (p : BitVec 4) i => if b.pz.extractLsb' (3 * i) 3 = 0 then p else p ||| (1 <<< i)) 0,
      data := b.data }

/-- The header with which a request leaves on MO or DD (R507). -/
def OReq.header (q : OReq) : BitVec 384 := Req.header q.op q.req

end Machine

end Sys2Proof
end

