-- ==== Sys2Proof/Safety.lean ====
section
/-! DEFINITION. The terms in which the obligations speak: the invariant every step keeps, slices in which nothing can move by itself,
requests that the port takes at once, and what a step leaves unchanged. -/

namespace Sys2Proof.Machine

/-! ### The invariant -/

/-- Between two steps no bookkeeping error is left unhandled (R598) and no capture without its FREEZE entry (R686). -/
def Slice.between (s : Slice) : Bool := !s.sys.bkFail && !s.sys.captured

/-- The slice is between two steps, the generation table is canonical and names contexts only (R615), and the provenance log holds no more
than its 256 entries (R698). -/
def State.inv (s : State) : Bool :=
  s.sl.between && Sparse.wf (fun _ => 0) s.gentab && s.gentab.all (fun p => decide (p.1 < 4096)) &&
    decide (s.prov.held.length ≤ 256)

/-! ### Rest -/

/-- A tracker that no settling carries on: it waits for something from outside, or is served. -/
def Trk.waits (t : Trk) : Bool := t.stage == .fill || t.stage == .coh || t.stage == .fwd || t.stage == .done

/-- Every loan copy of a line that is resident is being invalidated. -/
def Slice.loansCalled (s : Slice) (l : LineAddr) : Bool :=
  match s.lookup Use.L l with
  | some w => s.mem.loanAt w (setOf l) &&& ~~~(s.invDue l) == 0
  | none => true

/-- A tracker of one request of the mesh: no read has joined it, it serves no near atomic, and R759 has judged it. -/
def Trk.plain (t : Trk) : Prop := t.joined = [] ∧ t.anew = false ∧ t.cl = none ∧ t.req.via = .mq

/-- A tracker that stays where it is: it waits, or it is an arrival whose line is there, its loan copies called in, and that waits to be
combined. -/
def Slice.trkStill (s : Slice) (t : Trk) : Bool :=
  t.waits || (t.stage == .combine && s.joined t && (t.req.vsp || s.loansCalled t.req.line))

/-- The group's lines have their loan copies called in, where it is to begin its epilogue. -/
def Slice.grpCalled (s : Slice) (p : Grp) : Bool :=
  s.grpState p.num != GSt.CLOSING || p.epiDone || s.grpBusy p.num || p.lines.all s.loansCalled

/-- A transaction that still waits for a snoop, for dirty data or for memory. -/
def Txn.waits (t : Txn) : Bool := t.waitVictim.isNone && t.stands

/-- NS_BLK_PROG shows the bytes done by the last active command (R191). -/
def Slice.progKept (s : Slice) : Bool :=
  match s.bulk.shown.bind s.cmd? with
  | some c => s.fld NS_BLK_PROG.PROGRESS == s.bulkBytes c
  | none => true

/-- Nothing that the slice holds can move by itself. -/
def Slice.still (s : Slice) : Bool :=
  s.chan.evicts.isEmpty && s.out.bridgeOut.isEmpty && s.coh.txns.all Txn.waits && s.port.sweeps.isEmpty && s.port.credits.isEmpty &&
  s.walk.quar.isEmpty && s.walk.raw.isEmpty && s.walk.prep.isNone && s.walk.dying.isEmpty && s.coh.waiters.isEmpty && s.coh.bridge.isEmpty &&
  s.coh.portCred.isEmpty && s.grps.all (fun p => p.aborts.isEmpty) && s.grpHeld.isEmpty && s.grps.all s.grpCalled &&
  s.progKept && s.bulk.cmds.all (fun c => (s.cmdEnd c).isNone) && s.port.trks.all s.trkStill

/-- The slice is still, holds no tracker, no transaction, no operation of the channel side, no loan invalidation, no recovery, no purge and
no diagnostic read, and no stored word carries an error or poison. -/
def Slice.calm (s : Slice) : Bool :=
  s.still && s.port.trks.isEmpty && s.coh.txns.isEmpty && s.chan.ops.isEmpty && s.port.invs.isEmpty && s.coh.recover.isEmpty &&
  s.walk.purge.isNone && s.walk.diag.isNone && s.mem.chk.isEmpty && s.mem.bkchk.isEmpty && s.between

/-- What the slice needs to send a request on MO at once: a credit, an issue entry, and nothing that waits before it. -/
def Slice.canIssueReq (s : Slice) : Bool :=
  s.sys.sclkRuns && s.out.outq.isEmpty && s.fld NS_PORTSTAT.MOCRED != 0 && s.out.freeEntry.isSome

/-- What it needs to send a message of class `k` on LW at once. -/
def Slice.canSendLW (s : Slice) (k : Nat) : Bool := s.sys.sclkRuns && s.out.outq.isEmpty && s.out.lwCred.getD k 0 != 0

/-- What it needs to put an operation on its own channel at once. -/
def Slice.chanReady (s : Slice) : Bool :=
  s.sys.sclkRuns && s.chan.ops.isEmpty && s.cstate == CState.NORMAL && s.fld NS_PORTSTAT.HCCRED != 0

/-! ### Requests -/

/-- The command that presents a request of an opcode; the four atomics without a posted form (R363) have none. Group control has rows
of its own. -/
def requestCmd (op : Op) (r : Req) : Option Instr :=
  match op with
  | .rd => some (.rd r) | .rdc => some (.rdc r) | .rdacq => some (.rdacq r) | .wr => some (.wr r) | .wrrel => some (.wrrel r)
  | .fence => some (.fence r) | .flush => some (.flush r) | .crd => some (.crd r) | .cwr => some (.cwr r) | .vrd => some (.vrd r)
  | .vwr => some (.vwr r) | .vcrd => some (.vcrd r) | .vcwr => some (.vcwr r) | .cmdwr => some (.cmdwr r) | .grpctl => none
  | .redc => some (.redc r) | .redn => some (.redn r) | .cntwr => some (.cntwr r) | .sealwr => some (.sealwr r)
  | .accinc => some (.accinc r) | .pxrd => some (.pxrd r) | .pxwr => some (.pxwr r) | .tinv => some (.reservedOpcode 0x16 r)
  | .other c => if c = 0x16 then none else some (.reservedOpcode c r)
  | .atom .swap false => some (.swap r) | .atom .cas false => some (.cas r) | .atom .add false => some (.add r)
  | .atom .smax false => some (.smax r) | .atom .smin false => some (.smin r) | .atom .umax false => some (.umax r)
  | .atom .umin false => some (.umin r) | .atom .band false => some (.band r) | .atom .bor false => some (.bor r)
  | .atom .bxor false => some (.bxor r) | .atom .fadd false => some (.fadd r) | .atom .lswap false => some (.lswap r)
  | .atom .lcstore false => some (.lcstore r) | .atom .ladd false => some (.ladd r) | .atom .land false => some (.land r)
  | .atom .lor false => some (.lor r) | .atom .lxor false => some (.lxor r)
  | .atom .add true => some (.addP r) | .atom .smax true => some (.smaxP r) | .atom .smin true => some (.sminP r)
  | .atom .umax true => some (.umaxP r) | .atom .umin true => some (.uminP r) | .atom .band true => some (.bandP r)
  | .atom .bor true => some (.borP r) | .atom .bxor true => some (.bxorP r) | .atom .fadd true => some (.faddP r)
  | .atom .ladd true => some (.laddP r) | .atom .land true => some (.landP r) | .atom .lor true => some (.lorP r)
  | .atom .lxor true => some (.lxorP r)
  | .atom .swap true | .atom .cas true | .atom .lswap true | .atom .lcstore true => none

/-- The window of a converting request. -/
def Slice.cvtOf (s : Slice) (op : Op) (r : Req) : Option (BitVec 5 × Nat) := if isCvt op then s.cvtWindow op r else none

/-- A line of the request waits for the bulk engine, which has read for it and not yet written it (R148). -/
def Slice.engineDue (s : Slice) (op : Op) (r : Req) : Bool :=
  s.blocked (s.openTrk op (Req.taken op r) .queued (s.cvtOf op r)).2

/-- The directory set of a line holds no entry that breaks R597. -/
def Slice.dirSound (s : Slice) (l : LineAddr) : Bool :=
  (List.range 8).all fun e => !dirBroken (s.mem.dirWord (setOf l) e 0) (s.mem.dirWord (setOf l) e 1)

/-- A request to a host line finds a sound directory set. -/
def Slice.hostSound (s : Slice) (op : Op) (r : Req) : Bool :=
  match reqKey op r with
  | .pa l => !s.isHost l || s.dirSound l
  | _ => true

/-- A request of the mesh that the port takes in this cycle (`State.slotFor`), without a credit, that R759 lets pass, that this slice
serves and that waits for no line of the bulk engine. -/
def Slice.admits (s : Slice) (g : List (Nat × BitVec 8)) (op : Op) (r : Req) : Bool :=
  !s.engineDue op r && s.hostSound op r && s.mqRdy && r.via == .mq && r.peer.isNone && !r.cred && s.verdict g op r == .pass &&
  s.place op r == .here && s.answerOf op r true false (s.cvtOf op r) == .acc false

/-- A request sent in `v` is judged in `s` (R741), where the port takes it so. -/
def State.admits (v s : State) (op : Op) (r : Req) : Prop := v.slotFor op r = s ∧ s.sl.admits s.gentab op r = true

/-- The fields the acceptance of a request may change: its master's charge (R480) and, with a data line, its class's count of write
bytes (R491). -/
def chargeFlds (op : Op) (r : Req) : List Fld :=
  NS_REG_BUDGET.USED r.reqid.toNat ::
    (if op.hasData then [NS_REG_WRBYTES.COUNT r.cls.toNat, NS_REG_WRBYTES.OVF r.cls.toNat] else [])

/-- The request is charged `n` lines to its master (R480). -/
def Slice.charged (s t : Slice) (r : Req) (n : Nat) : Prop :=
  t.fld (NS_REG_BUDGET.USED r.reqid.toNat) = min 0xFFFF (s.fld (NS_REG_BUDGET.USED r.reqid.toNat) + n)

/-! ### What a step leaves unchanged -/

/-- A whole register as a field. -/
def wholeReg (off : Nat) : Fld := { off := off, lo := 0, w := 64 }

/-- Every bit of every register outside the fields `fs` keeps its value. -/
def Slice.keepsFields (s t : Slice) (fs : List Fld) : Prop :=
  ∀ off i, (∀ f ∈ fs, f.off = off → i < f.lo ∨ f.lo + f.w ≤ i) → bitAt (t.rd off) i = bitAt (s.rd off) i

/-- The step changed the slice only, and the provenance log holds an entry more for each register it changed (R693), merged with the
cycle's entries while SCLK runs (R694). -/
def State.logged (s t : State) : Prop :=
  t.gentab = s.gentab ∧ t.pending = s.pending ∧ t.turn = s.turn ∧ t.prov = s.eachAlone.changes { t with prov := s.eachAlone.prov }

/-- The same of an event of the slice's own, the last of its cycle (R741). -/
def State.loggedOwn (s t : State) : Prop := ({ s with turn := Turn.own } : State).logged t

/-- The same of a cycle's end, after which nothing of the next cycle has come. -/
def State.loggedCycle (s t : State) : Prop :=
  t.gentab = s.gentab ∧ t.pending = s.pending ∧ t.turn = 0 ∧
    t.prov = { s.eachAlone.changes { t with prov := s.eachAlone.prov } with noted := [] }

/-- One more reply beat waits at the reply port, and it is as `p` says. -/
def Slice.queuesBeat (s t : Slice) (p : Beat → Prop) : Prop := ∃ b, t.port.beats = s.port.beats ++ [b] ∧ p b

/-- The beat is the whole answer to one request of the mesh: whom it goes to, its status and acknowledgement level, the data and the
causes of its sectors. -/
def Beat.answers (b : Beat) (op : Op) (r : Req) (born status level : Nat) (data : LineData) (pz : BitVec 12) : Prop :=
  b.dests = [reqDest op r born] ∧ b.dd = none ∧ b.status = status ∧ b.acklvl = level ∧ b.data = data ∧ b.pz = pz ∧
  b.part = 0 ∧ b.npart = 1 ∧ b.last = true

/-- One more tracker is held: the request's own, at a stage. -/
def Slice.holdsTrk (s t : Slice) (op : Op) (r : Req) (stage : Stage) : Prop :=
  ∃ u, t.port.trks = s.port.trks ++ [u] ∧ u.op = op ∧ u.req = Req.taken op r ∧ u.stage = stage ∧ u.born = s.now

/-- One more tracker is held, for an operation and at a stage. -/
def Slice.holdsTrkAt (s t : Slice) (op : Op) (stage : Stage) : Prop :=
  ∃ u, t.port.trks = s.port.trks ++ [u] ∧ u.op = op ∧ u.stage = stage ∧ u.born = s.now

/-- The beats of a data reply in parts have been queued for one request of the mesh: each part's data and causes, in order. -/
def Slice.queuesParts (s t : Slice) (op : Op) (r : Req) (parts : List (LineData × BitVec 12)) : Prop :=
  ∃ bs, t.port.beats = s.port.beats ++ bs ∧ bs.map (fun b => (b.data, b.pz)) = parts.map (fun p => (deliver p.1 p.2, p.2)) ∧
    bs.map (·.part) = List.range parts.length ∧
    (∀ b ∈ bs, b.dests = [reqDest op r s.now] ∧ b.dd = none ∧ b.status = Stat.ACK ∧ b.acklvl = 0 ∧ b.npart = parts.length)

/-- The port keeps what it held beside trackers, beats, grant counts and the marks of the cycle. -/
def Port.keeps (p q : Port) : Prop :=
  q = { p with trks := q.trks, nextId := q.nextId, beats := q.beats, slotE := q.slotE, slotO := q.slotO, rcrE := q.rcrE, rcrO := q.rcrO,
               dataTaken := q.dataTaken, grants := q.grants }

/-- Only registers, measurements and the port have changed, and the port keeps the rest. -/
def Slice.portOnly (s t : Slice) : Prop := t = { s with regs := t.regs, meas := t.meas, port := t.port } ∧ s.port.keeps t.port

/-- The same, and the arrays. -/
def Slice.portMemOnly (s t : Slice) : Prop :=
  t = { s with regs := t.regs, meas := t.meas, port := t.port, mem := t.mem } ∧ s.port.keeps t.port

/-- Every byte of the data tier keeps its value. -/
def Slice.keepsBytes (s t : Slice) : Prop := ∀ a, t.mem.byte a = s.mem.byte a

/-- The bytes of `d` that `mask` selects have been stored in a way of a set, and every other byte of the data tier keeps its value. -/
def Slice.storesLine (s t : Slice) (way set : Nat) (d : LineData) (mask : BitVec 128) : Prop :=
  ∀ a, t.mem.byte a =
    if tierIx way set 0 ≤ a ∧ a < tierIx way set 128 ∧ bitAt mask (a - tierIx way set 0) = true then lineByte d (a - tierIx way set 0)
    else s.mem.byte a

/-- Every tag entry but that of `way` and `set` keeps its word. -/
def Slice.keepsTags (s t : Slice) (way set : Nat) : Prop :=
  ∀ i, i ≠ wsIx way set → Sparse.get (fun _ => 0) t.mem.tags i = Sparse.get (fun _ => 0) s.mem.tags i

/-- A tag word with RET and AGE zero: what the replacement state is not part of. -/
def tagRest (t : Word) : Word := setAGE (setRET t 0) 0

/-- One request has left, under the lowest free issue entry and the entry's epoch (R620), which its tag names; it is as `p` says, and
nothing else has left or waits. -/
def Slice.sendsReq (s t : Slice) (p : OReq → Prop) : Prop :=
  ∃ q i, t.out = { s.out with issue := s.out.issue ++ [i], sentReq := s.out.sentReq ++ [q] } ∧ s.out.freeEntry = some i.entry ∧
    i.epoch = s.out.epochOf i.entry ∧ q.req.tag = BitVec.ofNat 12 (i.epoch.toNat * 512 + i.entry) ∧ i.op = q.op ∧ i.why = q.why ∧
    i.ctx = q.req.ctx ∧ i.gen = q.req.gen ∧ i.orphan = false ∧ p q

/-- What a message to the other wing occupies of the wing bridge, one to the slice's own wing nothing (R33 to R35). -/
def Slice.bridgeTaken (s : Slice) (m : LwMsg) : List BridgeOut :=
  if s.crossesOut m then [{ msg := m, slot := (s.outSlot m.name.cls).getD .shared, flits := if m.name.cls = 3 then 2 else 1 }] else []

/-- One message of LW class `k` has left, under a credit of its class, through the wing bridge where its cluster is of the other wing; it is
as `p` says, and nothing else has left or waits. -/
def Slice.sendsLW (s t : Slice) (k : Nat) (p : LwMsg → Prop) : Prop :=
  ∃ m, t.out = { s.out with sentLW := s.out.sentLW ++ [m], lwCred := subAt s.out.lwCred k, lwRx := t.out.lwRx,
                            bridgeOut := s.out.bridgeOut ++ s.bridgeTaken m } ∧ p m

/-- The receive credit of LW class `k` has been given back, and no other (R537). -/
def Slice.givesBack (s t : Slice) (k : Nat) : Prop := t.out.lwRx = addAt s.out.lwRx k 1 (2 ^ 64)

/-- Every directory word but the two of one entry keeps its value. -/
def Slice.keepsDir (s t : Slice) (set e : Nat) : Prop :=
  ∀ i, i / 2 ≠ set * 8 + e → Sparse.get (fun _ => 0) t.mem.dir i = Sparse.get (fun _ => 0) s.mem.dir i

/-- What a cluster's message may change: the outputs, the coherence state, the arrays, the counts of grants, measurements and
registers. -/
def Slice.cohOnly (s t : Slice) : Prop :=
  t = { s with regs := t.regs, meas := t.meas, mem := t.mem, out := t.out, coh := t.coh,
               port := { s.port with grants := t.port.grants } }

/-- A cluster's request that the home takes at once: LW delivers it, its sender is not dead, the line is a host line of this home, it
uses no granted credit, and its directory set is sound and holds no copy of a dead cluster. -/
def Slice.clAdmits (s : Slice) (m : ClMsg) : Bool :=
  s.lwReady && !s.dead m.cluster.toNat && s.isHost m.line && s.homes m.line && !m.cred && s.dirSound m.line &&
    (List.range 8).all fun e => (s.mem.ent (setOf m.line) e).sharers &&& s.deadMask == 0

/-- The cluster is not the owner of the message's line, or has answered a snoop of it with WBP: another cluster is, the line is shared, or
no entry names it (R394). -/
def Slice.notOwner (s : Slice) (m : ClMsg) : Prop :=
  ∀ e d, s.findEnt m.line = some (e, d) → d.state = Dir.X → d.owner = m.cluster.toNat →
    ∃ x, s.txn? m.line = some x ∧ bitAt x.wbp m.cluster.toNat = true

/-- The cluster is charged `n` lines as master 144 + its number (R480, R504). -/
def Slice.clCharged (s t : Slice) (m : ClMsg) (n : Nat) : Prop :=
  t.fld (NS_REG_BUDGET.USED (clusterId m)) = min 0xFFFF (s.fld (NS_REG_BUDGET.USED (clusterId m)) + n)

/-- The one open transaction is `x`, and everything else is calm. -/
def Slice.calmBut (s : Slice) (x : Txn) : Prop := s.coh.txns = [x] ∧ (s.modCoh fun q => { q with txns := [] }).calm = true

/-- One operation has been issued on HC; it is as `p` says. -/
def Slice.sendsHC (s t : Slice) (p : HcCmd → Prop) : Prop := ∃ h, t.chan.sentHC = s.chan.sentHC ++ [h] ∧ p h

/-- One memory operation more is held: issued and unanswered, as `p` says. -/
def Slice.holdsOp (s t : Slice) (p : MemOp → Prop) : Prop := ∃ o, t.chan.ops = s.chan.ops ++ [o] ∧ p o

/-- The slice holds just these trackers and memory operations, and everything else is calm. -/
def Slice.calmHolding (s : Slice) (trks : List Trk) (ops : List MemOp) : Prop :=
  s.port.trks = trks ∧ s.chan.ops = ops ∧
    ((s.modPort fun p => { p with trks := [] }).modChan fun c => { c with ops := [] }).calm = true

/-- What the slice needs to send a message on DD at once, with credit `i`. -/
def Slice.canSendDD (s : Slice) (i : Nat) : Bool := s.sys.sclkRuns && s.out.outq.isEmpty && s.out.ddCred.getD i 0 != 0

/-- The units that are looked at in a cycle (R490): at the reply point, the outbound point, the channel scheduler, and those of the trackers
that wait at a point. -/
def Slice.waitJobs (s : Slice) : List Job :=
  s.port.beats.map Beat.job ++ s.out.outq.map OutItem.job ++ s.chan.ops.map s.opUnit ++ s.port.trks.map s.trkUnit

/-- The requests they serve. -/
def Slice.waitClaims (s : Slice) : List Claim := s.waitJobs.flatMap Job.claims

/-- URGENT of class `k` counts those of the units that become urgent, by the registers of `b`, for a request of the class (R490). -/
def Slice.urgentCounts (s t : Slice) (js : List Job) (k : Nat) (b : Slice := s) : Prop :=
  t.fld (NS_REG_SLKEVT.URGENT k) = min (2 ^ (NS_REG_SLKEVT.URGENT k).w - 1) (s.fld (NS_REG_SLKEVT.URGENT k) +
    (js.filter fun j => (b.urgentBy j).any (·.cls == k)).length)

/-- `n` lines count in a class's byte count, unless counting is frozen (R491, R492, R688). -/
def Slice.countsLine (s t : Slice) (f : Fld) (n : Nat := 1) : Prop :=
  t.fld f = if s.frozen then s.fld f else (s.fld f + 128 * n) % 2 ^ 48

/-- A unit without the mark of R490. -/
def Job.bare (j : Job) : Job := { j with urgent := false }

/-- The cycle's end has changed nothing that waits but the marks of R490, and has freed the trackers of stale requests (R519); the marks of
the port's slots are cleared, and the wing bridge has moved a flit (R34). -/
def Slice.cycleFrame (s t : Slice) : Prop :=
  t = { s with regs := t.regs, meas := t.meas
               out := { s.out with outq := t.out.outq, bridgeOut := match s.out.bridgeOut with
                 | [] => []
                 | e :: rest => if e.flits ≤ 1 then rest else { e with flits := e.flits - 1 } :: rest }
               sys := { s.sys with irq := t.sys.irq }
               chan := { s.chan with ops := t.chan.ops, rtCycles := s.chan.rtCycles + b2n (s.cstate == CState.RETRAIN) }
               port := { s.port with slotE := none, slotO := none, rcrE := false, rcrO := false, dataTaken := false,
                                     beats := t.port.beats, trks := t.port.trks } } ∧
  t.port.beats.map (fun b => { b with job := b.job.bare }) = s.port.beats.map (fun b => { b with job := b.job.bare }) ∧
  t.out.outq.map (fun i => { i with job := i.job.bare }) = s.out.outq.map (fun i => { i with job := i.job.bare }) ∧
  t.chan.ops.map (fun o => { o with job := o.job.bare }) = s.chan.ops.map (fun o => { o with job := o.job.bare }) ∧
  t.port.trks.map (fun u => { u with urgent := false }) =
    (s.port.trks.filter fun u => !s.port.trks.any fun v => v.stage == .stale && v.id == u.id).map (fun u => { u with urgent := false })

/-- The snapshots of a capture, each with the counter it copies (R685). -/
def snapPairs : List (Nat × Nat) :=
  (Reg.NS_CNT_SNAP_CYCLE, Reg.NS_CNT_CYCLE) :: (List.range 7).map (fun i => (Reg.NS_CNT_SNAP_SLOT i, Reg.NS_CNT_SLOT i)) ++
    (List.range 8).flatMap fun i => [(Reg.NS_CNT_SNAP_PMC i, Reg.NS_CNT_PMC i), (Reg.NS_CNT_SNAP_RDB i, Reg.NS_REG_RDBYTES i),
      (Reg.NS_CNT_SNAP_WRB i, Reg.NS_REG_WRBYTES i)]

/-- The step has made a capture: every snapshot equals its counter, CAPSEQ has advanced, the register changes of the step are entered in the
provenance log and after them the FREEZE entry, whose sequence number NS_CNT_SNAP_PVSEQ shows (R685, R686, R697). -/
def State.captures (s t : State) (turn : Nat) : Prop :=
  t.gentab = s.gentab ∧ t.pending = s.pending ∧ t.turn = turn ∧ t.sl.sys.frzEdge = none ∧
  (∀ p ∈ snapPairs, t.sl.rd p.1 = t.sl.rd p.2) ∧
  t.sl.fld NS_CNT_CTL.CAPSEQ = (s.sl.fld NS_CNT_CTL.CAPSEQ + 1) % 2 ^ NS_CNT_CTL.CAPSEQ.w ∧
  ∃ (u : Slice) (p q : Prov), u.keepsFields t.sl [NS_CNT_SNAP_PVSEQ.SEQ] ∧ p = s.eachAlone.changes { t with sl := u, prov := s.eachAlone.prov } ∧
    t.sl.fld NS_CNT_SNAP_PVSEQ.SEQ = p.seqNext.toNat ∧
    q = p.enter (s.sl.flag NS_PV_CTL.MODE)
      { stamp := t.sl.rd Reg.NS_CNT_SNAP_CYCLE, old := BitVec.ofNat 64 (s.sl.fld NS_CNT_CTL.CAPSEQ),
        new := BitVec.ofNat 64 (t.sl.fld NS_CNT_CTL.CAPSEQ), seq := 0, kind := 3, priv := 0, origin := 0, offset := 0xA000 } ∧
    t.prov = (if turn = 0 then { q with noted := [] } else q)

/-- The RESET entry of release step 1 (R697). -/
def Slice.resetEntry (s : Slice) : PvEntry :=
  { stamp := s.rd Reg.NS_CNT_CYCLE, old := 0, new := s.rd Reg.NS_RST_CAUSE, seq := 0, kind := 2, priv := 0, origin := 0, offset := 0x9100 }

/-- The fields a capture changes. -/
def captureFlds : List Fld := NS_CNT_CTL.CAPSEQ :: NS_CNT_SNAP_PVSEQ.SEQ :: snapPairs.map fun p => wholeReg p.1

/-- A message of DD that is no request and no reply has left under credit `i`, and nothing else has left or waits. -/
def Slice.sendsDD (s t : Slice) (i : Nat) (m : DdMsg) : Prop :=
  t.out = { s.out with sentDD := s.out.sentDD ++ [m], ddCred := subAt s.out.ddCred i, ddRx := t.out.ddRx }

/-- The receive credits of DD once that of class `k` of a die has been given back, and no other (R539). -/
def Outs.ddBack (o : Outs) (die k : Nat) : List Nat := addAt o.ddRx (die * 3 + k) 1 (2 ^ 64)

/-- The reply's tag names the open entry `i`, which no purge has orphaned (R620). -/
def Slice.awaits (s : Slice) (m : RepMsg) (i : Issue) : Prop := s.out.answering m.tag = some i ∧ i.orphan = false

/-- The outputs once the issue entry `e` has been closed, and nothing else. -/
def Outs.without (o : Outs) (e : Nat) : Outs := { o with issue := o.issue.filter (fun i => i.entry != e) }

/-- The outputs once one more tile has answered the range invalidation of the entry `i` (R530). -/
def Outs.acked (o : Outs) (i : Issue) : Outs :=
  { o with issue := replaceFirst (fun j => j.entry == i.entry) (fun j => { j with acks := i.acks - 1 }) o.issue }

/-- What the last answer on DD to an issued request leaves beside the port: its entry is closed and its receive credit given back. -/
def Slice.repliedDD (s t : Slice) (i : Issue) : Prop :=
  t = { s with meas := t.meas, port := t.port, out := { s.out.without i.entry with ddRx := s.out.ddBack i.die 2 } }

/-- A final answer of status ACK without poison (R525). -/
def repPlain (m : RepMsg) : Prop := m.status.toNat = Stat.ACK ∧ m.pois = 0 ∧ repFinal m = true

/-- One beat of a whole data line, without poison, for the reader of a tracker. -/
def Beat.delivers (b : Beat) (x : Trk) (data : LineData) : Prop :=
  b.answers x.op x.req x.born Stat.ACK 0 data 0 ∧ b.trk = some x.id ∧ b.isData = true

/-- The active command is `c`, the engine may issue its next line at once, and the command does not end with it. -/
def Slice.canIssueLine (s : Slice) (c : Cmd) : Bool :=
  s.calm && s.activeCmd == some c && s.bulkRuns && c.checked && c.status.isNone && c.stopAt.isNone &&
    decide (s.bulkStep c < s.bulkTotal c.desc) && decide (s.bulkOut c < 128) && !(s.bulkKeys c).any s.lineWaits

/-- NS_BLK_PROG shows a command with the bytes it has done (R191). -/
def Slice.showsProg (t : Slice) (d : List Word) (n : Nat) : Prop :=
  t.fld NS_BLK_PROG.TAG = bTAG d ∧ t.fld NS_BLK_PROG.OPC = bOPC d ∧ t.fld NS_BLK_PROG.PROGRESS = n % 2 ^ NS_BLK_PROG.PROGRESS.w

/-- PROGRESS is the bytes done by the command NS_BLK_PROG shows: those below its lowest line that is not done (R165, R191). -/
def Slice.progShown (t : Slice) : Prop :=
  ∀ c, t.bulk.shown.bind t.cmd? = some c → t.fld NS_BLK_PROG.PROGRESS = t.bulkBytes c % 2 ^ NS_BLK_PROG.PROGRESS.w

/-- The command has gone on to its next line or page; `f` is what else its slot says. -/
def Slice.goesOn (s t : Slice) (c : Cmd) (f : Cmd → Cmd) : Prop :=
  t.bulk = (s.modCmd c.id fun q => f { q with progress := s.bulkStep c }).bulk ∧ t.progShown

/-- The line at the command's place is outstanding (R163). -/
def Cmd.due (c : Cmd) (o : Nat) : Cmd := { c with lines := c.lines ++ [o] }

/-- The bulk state once the active command `c`, now as `c'`, has ended with a status: its record is due, it keeps its slot, and no command
is active (R152, R172). -/
def Slice.bulkEnded (s : Slice) (c c' : Cmd) (status : Nat) : Bulk :=
  { s.bulk with active := none, cmds := replaceFirst (fun q => q.id == c.id) (fun _ => { c' with status := some status }) s.bulk.cmds,
                cpls := s.bulk.cpls ++ [s.bulkRecord c' status], nextCpl := s.bulk.nextCpl + 1 }

/-- The lines of a vitrine-target group's accumulators (R253 to R258). -/
def Slice.accLines (s : Slice) (d : List Word) : List Nat :=
  ((List.range (gUnits d)).flatMap (s.unitLines d)).map (· / 128)

/-- What R270 writes into each of them: zeros, or the operation's identity. -/
def initImage (d : List Word) : LineData :=
  if isExact (gACC d) then 0
  else lineOf (fun b => BitVec.ofNat 8 (identityOf (gOP d) (gACC d) >>> (8 * (b % accBytes (gACC d))))) 128

/-- An arrival's line combined element by element into a memory-target line (R228 to R232). -/
def redLine (d : List Word) (old arr : LineData) : LineData :=
  lineOfElts (accFmt (gACC d)) (fmtPerLine (accFmt (gACC d))) fun i =>
    (combineElt (gOP d) (gACC d) (getElt old (accFmt (gACC d)) i) (accFmt (gACC d)) (getElt arr (accFmt (gACC d)) i)).1

/-- The fields an event of the error record may change (R740). -/
def errFlds : List Fld :=
  [NS_ERR_CNT.COUNT, NS_ERR_CNT.LASTCODE, NS_ERR_CNT.VALID, NS_IRQ_STAT.ERROR, wholeReg Reg.NS_ERR_REC0, NS_ERR_REC1.DETAIL,
    wholeReg Reg.NS_ERR_REC2]

/-- The event is entered in the error record as R740 says. -/
def Slice.entersErr (s t : Slice) (e : ErrEv) : Prop :=
  t.fld NS_ERR_CNT.COUNT = min (2 ^ NS_ERR_CNT.COUNT.w - 1) (s.fld NS_ERR_CNT.COUNT + 1) ∧ t.fld NS_ERR_CNT.LASTCODE = e.code ∧
  t.flag NS_IRQ_STAT.ERROR = true ∧ t.flag NS_ERR_CNT.VALID = true ∧
  (if s.flag NS_ERR_CNT.VALID = false ∨ s.flag NS_CTL.ERRLATEST = true then
    t.rd Reg.NS_ERR_REC0 = e.word0 ∧ t.fld NS_ERR_REC1.DETAIL = e.detail % 2 ^ NS_ERR_REC1.DETAIL.w ∧
      t.rd Reg.NS_ERR_REC2 = BitVec.ofNat 64 s.now
  else t.rd Reg.NS_ERR_REC0 = s.rd Reg.NS_ERR_REC0 ∧ t.rd Reg.NS_ERR_REC1 = s.rd Reg.NS_ERR_REC1 ∧
      t.rd Reg.NS_ERR_REC2 = s.rd Reg.NS_ERR_REC2)

/-- The error-record event of a request. -/
def reqEvent (code : Nat) (op : Op) (r : Req) : ErrEv :=
  { code := code, src := 0, priv := r.priv.toNat, opc := op.code, who := r.reqid.toNat, srcdie := r.srcdie.toNat,
    ctx := r.ctx.toNat, gen := r.gen.toNat, detail := r.pa.toNat }

/-- A request reaches the mesh port in this cycle, and the port answers `acc` whatever R759 makes of it. -/
def Slice.reaches (s : Slice) (op : Op) (r : Req) : Bool :=
  s.mqRdy && r.via == .mq && r.peer.isNone && !r.cred && s.answerOf op r false false (s.cvtOf op r) == .acc false

/-- A request sent in `v` is judged in `s` (R741), and reaches the port so. -/
def State.reaches (v s : State) (op : Op) (r : Req) : Prop := v.slotFor op r = s ∧ s.sl.reaches op r = true

/-! ### Register accesses -/

/-- Register accesses are taken, the offset is aligned and PRIV is high enough (R720, R721): the access reaches its register. -/
def Slice.ctAdmits (s : Slice) (off : Nat) (write : Bool) (a : CtAcc) : Bool :=
  s.ctTakes && s.between && off % 8 == 0 && decide (s.needPriv off write a ≤ a.priv.toNat)

/-- A write reaches the register of a one-bit field and writes 1 to the field (R723). -/
def Slice.ctSets (s : Slice) (a : CtAcc) (f : Fld) : Bool :=
  s.ctAdmits f.off true a && getBits (ctWord a &&& ctMask a) f.lo f.w == 1

/-- The register after the write, W1S bits included. -/
def State.written (s : State) (off : Nat) (a : CtAcc) : Word :=
  s.sl.keepEnable off (s.view off)
    (writeFields ((regFields off).getD []) (s.sl.flag (lockOf off)) (ctWord a) (ctMask a) (s.view off))

/-- What the register's own rules make of the write (R726). -/
def State.judged (s : State) (off : Nat) (a : CtAcc) : WriteJudge := s.sl.judgeWrite off a (s.view off) (s.written off a)

/-- The slice once the write has changed its register and before anything else has (R695). -/
def State.stored (s : State) (off : Nat) (a : CtAcc) : Slice :=
  let fs := (regFields off).getD []
  s.sl.wr off (((s.sl.rd off &&& ~~~(writableBits fs)) ||| (s.written off a &&& writableBits fs)) &&& ~~~(takenBits off fs))

/-- The step changed the slice only; the provenance log holds the write's entry if the register changed, and after it one for each register
that the slice changed then (R693 to R696). -/
def State.ctLogged (s : State) (off : Nat) (a : CtAcc) (t : State) : Prop :=
  ∃ p, p = (if loggedWrite off (s.view off) (s.written off a) then
      s.prov.enter (s.sl.flag NS_PV_CTL.MODE) (s.sl.writeEntry off a (s.view off) (s.written off a))
    else s.prov) ∧ ({ s with sl := s.stored off a, prov := p } : State).logged t

/-- The error-record event of a register access. -/
def ctEvent (code off : Nat) (a : CtAcc) : ErrEv :=
  { code := code, src := 1, priv := a.priv.toNat, opc := 0, who := a.origin.toNat, srcdie := 0, ctx := 0, gen := 0, detail := off }

/-- Beside one response, with its code, and the count of R549, which an access starts afresh, the access changed registers only. -/
def Slice.ctRegs (s t : Slice) (code : Nat) (a : CtAcc) (d : Word) : Prop :=
  t = { s with regs := t.regs, meas := { s.meas with drowsy := 0 },
               out := { s.out with sentCT := s.out.sentCT ++ [(BitVec.ofNat 2 code, a.tag, d)] } }

/-- The register fields a write touches that its lock bit holds (R724). -/
def Slice.lockedTouch (s : Slice) (off : Nat) (a : CtAcc) (fs : List FieldRow) : Bool :=
  s.flag (lockOf off) && fs.any fun f => f.acc == .rwl && f.bits &&& ctMask a != 0

/-- One bit of a field after a write: `old` is what it read as, `kept` what the register held; the slice takes a W1S bit at once. -/
def FieldRow.bitAfter (f : FieldRow) (locked taken : Bool) (a : CtAcc) (i : Nat) (old kept : Bool) : Bool :=
  let m := bitAt (ctMask a) i
  let d := bitAt (ctWord a) i
  match f.acc with
  | .ro | .rc => kept
  | .rw => if m then d else old
  | .w1c => old && !(m && d)
  | .w1s => !taken && (old || (m && d))
  | .rwl => if m && !locked then d else old

/-- A register for which no rule beside its fields' access codes makes anything of a write. -/
def plainReg (off : Nat) : Bool :=
  !([Reg.NS_IRQ_SET, Reg.NS_FWIF, Reg.NS_CLKCTL, Reg.NS_WAYCHG, Reg.NS_WAYMAP_NEXT, Reg.NS_DIST_CTL, Reg.NS_BLK_CTL, Reg.NS_GRPOPEN,
      Reg.NS_UU_CTL, Reg.NS_DIR_RECLAIM, Reg.NS_DIR_DEADMASK, Reg.NS_CH_MAPLIST, Reg.NS_CH_MAPCTL, Reg.NS_ECC_QUAR, Reg.NS_ECC_CBCTL,
      Reg.NS_RC_BLK, Reg.NS_RC_WB, Reg.NS_RC_CREDREL, Reg.NS_RST_CAUSE, Reg.NS_PV_SPILL, Reg.NS_PV_CTL, Reg.NS_DG_SEL].contains off ||
    (0x1100 ≤ off && off < 0x1190) || (0x2200 ≤ off && off < 0x2400) || (0x3100 ≤ off && off < 0x3180) ||
    (0x4100 ≤ off && off < 0x4200) || (0x6800 ≤ off && off < 0x7000) || (0x7040 ≤ off && off < 0x7080) ||
    (0x7800 ≤ off && off < 0x8000) || (0xA080 ≤ off && off < 0xA100))

/-- A register that shows other state than its own word. -/
def shownReg (off : Nat) : Bool :=
  [Reg.NS_BLK_STAT, Reg.NS_BALANCE, Reg.NS_GRP_OPENMASK, Reg.NS_CH_STAT, Reg.NS_ECC_STAT, Reg.NS_ECC_QUAR, Reg.NS_DIR_STAT, Reg.NS_RC_BLK,
    Reg.NS_RC_GEN, Reg.NS_PV_STAT, Reg.NS_PV_LOST].contains off || (0x2200 ≤ off && off < 0x2400) || (0xB040 ≤ off && off < 0xB060)

/-- A write is accepted by its register (R720, R726). -/
def State.ctTakesWrite (s : State) (off : Nat) (a : CtAcc) : Bool := s.sl.ctAdmits off true a && s.judged off a == .ok

/-- A write is accepted by its register and writes 1 to a one-bit field. -/
def State.ctDoes (s : State) (a : CtAcc) (f : Fld) : Bool := s.sl.ctSets a f && s.judged f.off a == .ok

/-- The outputs with the OK response to a write. -/
def Outs.ctReply (o : Outs) (a : CtAcc) : Outs := { o with sentCT := o.sentCT ++ [(0, a.tag, 0)] }

/-- The slice with the OK response to a write, which has passed a crossing (R549). -/
def Slice.answered (s : Slice) (a : CtAcc) : Slice := { s with meas := { s.meas with drowsy := 0 }, out := s.out.ctReply a }

/-- A register holds what the write stored, and nothing has changed it further. -/
def State.holdsWrite (s : State) (off : Nat) (a : CtAcc) (t : State) : Prop := t.sl.rd off = (s.stored off a).rd off

/-! ### Resets -/

/-- Registers in which a reset records itself (R637, R641). -/
def recordRegs : List Nat := [Reg.NS_RST_CAUSE, Reg.NS_RST_CNT0, Reg.NS_RST_CNT1, Reg.NS_RC_RSTREC]

/-- What a reset of level `lvl` for a cause leaves of the slice (R17, R621, R633, R634, R637), beside the registers `offs`: each field of
every other register at its Reset value unless it survives, the causes counted, every tracker, queue and engine empty, the data tier as it
was, and after a power-on or package reset no bookkeeping and no counter. -/
def Slice.resetLeaves (s t : Slice) (lvl : Level) (cause : Nat) (offs : List Nat) : Prop :=
  (∀ off fs, regFields off = some fs → off ∉ offs → (∀ h ∈ s.holds, h.disable = true → off ≠ Reg.NS_ACCN_TARGET h.k) →
    ∀ f ∈ fs, getBits (t.rd off) f.lo f.w = if f.keep.survives lvl then getBits (s.rd off) f.lo f.w else f.reset) ∧
  t.fld (causeFld cause) = min (2 ^ (causeFld cause).w - 1) (s.fld (causeFld cause) + 1) ∧
  bitAt (t.rd Reg.NS_RST_CAUSE) cause = true ∧ t.fld NS_RST_CAUSE.LAST = cause ∧
  t.port = Port.empty ∧ t.grps = [] ∧ t.grpHeld = [] ∧ t.bulk = Bulk.empty ∧ t.holds = [] ∧ t.coh = Coh.empty ∧ t.walk = Walk.empty ∧
  t.meas = Meas.empty ∧ t.chan = { Chan.empty with sentHC := s.chan.sentHC } ∧
  t.sys.released = 0 ∧ t.sys.applied = lvl ∧ t.sys.frz = false ∧ t.sys.irq = false ∧ t.sys.sleepAck = false ∧ t.out.issue = [] ∧
  t.out.outq = [] ∧
  (∀ e < 512, t.out.epochOf e = if lvl = .por then 0 else s.out.epochOf e + 1) ∧
  t.mem.tier = s.mem.tier ∧ t.mem.chk = s.mem.chk ∧ t.mem.pred = [] ∧
  (lvl ≠ .cmp → t.mem = { Mem.empty with tier := s.mem.tier, chk := s.mem.chk })

end Sys2Proof.Machine
end

