-- ==== Sys2Proof/Certificates/Slice0/Obligations.lean ====
section
/-! DEFINITION. The statements for the provers: what each command does, what it leaves, and what every step keeps. -/

open Sys2Proof Sys2Proof.Machine

/-- A step takes the command at the front of the queue and runs it with the rest of the queue; on an empty queue the block idles (the
model's choice, log 3). Nothing waits for a grant at the array-write and update points between two commands, and a grant of the
accumulator point combines the next arrival (the model's choice, log 90). -/
def Obligations.StepRunsFront : Prop :=
  ∀ (s : State) (c : Instr) (cs : List Instr),
    step { s with pending := c :: cs } = exec c { s with pending := cs } ∧
      step { s with pending := [] } = .next { s with pending := [] } ∧
      (s.sl.between = true → exec (.serviceGrant .arrayWrite) s = .next { s.eachAlone with turn := Turn.own } ∧
        exec (.serviceGrant .update) s = .next { s.eachAlone with turn := Turn.own }) ∧
      exec (.serviceGrant .accum) s = exec .arrivalCombined s

/-- After power-on reset every register field has its Reset value, but for the record of that reset (R637): POR counts 1 and is the cause
seen. No release step has run, SCLK's ports are down, the arrays, queues and tables are empty, every context's generation is 0, and no
command waits (the queue is the model's). That POR counts once is the model's reading (log 5), and that the data tier reads 0 is its
choice (log 6). -/
def Obligations.PowerUpValues : Prop :=
  (∀ off fs, regFields off = some fs → off ≠ Reg.NS_RST_CAUSE → off ≠ Reg.NS_RST_CNT0 →
    ∀ f ∈ fs, getBits (State.reset.sl.rd off) f.lo f.w = f.reset) ∧
  State.reset.sl.rd Reg.NS_RST_CAUSE = 1 ∧ State.reset.sl.rd Reg.NS_RST_CNT0 = 1 ∧ State.reset.sl.sys.released = 0 ∧
  State.reset.sl.mem = Mem.empty ∧ State.reset.sl.port = Port.empty ∧ State.reset.sl.out = Outs.empty ∧
  State.reset.sl.chan = Chan.empty ∧ State.reset.sl.grps = [] ∧ State.reset.sl.grpHeld = [] ∧ State.reset.sl.bulk = Bulk.empty ∧
  State.reset.sl.holds = [] ∧ State.reset.sl.coh = Coh.empty ∧ State.reset.sl.walk = Walk.empty ∧ (∀ ctx, genOf State.reset.gentab ctx = 0) ∧
  State.reset.prov = Prov.empty ∧
  State.reset.pending = []

/-- The invariant of the model holds after power-on reset. -/
def Obligations.ResetInv : Prop := State.reset.inv = true

/-- Every step keeps the invariant: no bookkeeping error is left unhandled (R598) and no capture without its FREEZE entry (R686), the
generation table is canonical and names contexts only (R615), and the provenance log holds at most 256 entries (R699). -/
def Obligations.StepKeepsInv : Prop := ∀ s t, s.inv = true → step s = .next t → t.inv = true

/-- Every command, on every state, answers a next state; it leaves the queue of waiting commands as it was. The generation table is
changed by a purge of a context, which sets that context's entry only, and cleared by a reset of a level above compute alone: by a reset
input, a block reset that proceeds, or the reset of an uncorrectable bookkeeping error (cause 4), in an uncompleted release of such a
level, and by the standby supply coming up. NS_RC_GEN reads the entry of the context it names. That every command answers, with no effect
where its condition does not hold, is the model's choice (logs 3, 7). -/
def Obligations.EveryCommandAnswers : Prop :=
  (∀ s : State, fldOf (s.view Reg.NS_RC_GEN) NS_RC_GEN.GEN = (genOf s.gentab (BitVec.ofNat 12 (s.sl.fld NS_RC_GEN.CTX))).toNat) ∧
  ∀ (s : State) (c : Instr), ∃ t, exec c s = .next t ∧ t.pending = s.pending ∧
    (t.gentab = s.gentab ∨
      (t.gentab = [] ∧ t.sl.sys.applied ≠ .cmp ∧ t.sl.sys.released = 0 ∧
        (c = .powerOnReset ∨ c = .packageReset ∨ c = .computeReset ∨ c = .blockResetProceed ∨ c = .standbyPowerUp ∨
          t.sl.fld NS_RST_CAUSE.LAST = 4)) ∨
      ∃ ctx gen, c = .purge ctx gen ∧ ∀ x, genOf t.gentab x = if x = ctx then gen else genOf s.gentab x)

/-- A read (RD, RDC, RDACQ) of a line that is resident in an L way with all its sectors, admitted by a calm slice, is answered with one
beat: ACK, acknowledgement level 0, the line's 128 bytes and no poison. Its tracker is held until the beat leaves. One line is charged to
its master. Every register field but that charge and the two counts of hints keeps its value; every byte of the tier, and every tag entry
but the line's RET and AGE, is unchanged, and so is everything outside the port. -/
def Obligations.ReadHitReplies : Prop :=
  ∀ (v s : State) (op : Op) (r : Req) (c : Instr) (w : Nat), op = .rd ∨ op = .rdc ∨ op = .rdacq → requestCmd op r = some c →
    s.sl.calm = true → v.admits s op r → s.sl.isHost r.line = false →
    s.sl.lookup Use.L r.line = some w → tagSV (s.sl.tag w (setOf r.line)) = 15 →
    ∃ t, exec c v = .next t ∧ s.logged t ∧ s.sl.portMemOnly t.sl ∧
      s.sl.queuesBeat t.sl (fun b => b.answers op r s.sl.now Stat.ACK 0 (s.sl.mem.readLine w (setOf r.line)) 0) ∧
      s.sl.holdsTrk t.sl op r .done ∧ s.sl.charged t.sl r 1 ∧
      s.sl.keepsFields t.sl (chargeFlds op r ++ [NS_RET_EVT.KEEPDEM, NS_RET_EVT.REVIVE]) ∧
      t.sl.mem = { s.sl.mem with tags := t.sl.mem.tags } ∧ s.sl.keepsTags t.sl w (setOf r.line) ∧
      tagRest (t.sl.tag w (setOf r.line)) = tagRest (s.sl.tag w (setOf r.line))

/-- A write (WR, WRREL) that hits: a line resident in an L way of which every sector the mask covers in part is valid, with no loan copy
and in a way that is not draining. Every byte the mask selects takes the request's byte, and every other byte of the tier keeps its value;
the touched sectors become valid and dirty, and the tag entry changes in nothing else but RET and AGE; one acknowledgement of both levels
is queued, and no tracker is held. -/
def Obligations.WriteHitStores : Prop :=
  ∀ (v s : State) (op : Op) (r : Req) (c : Instr) (w : Nat), op = .wr ∨ op = .wrrel → requestCmd op r = some c →
    s.sl.calm = true → v.admits s op r → s.sl.isHost r.line = false →
    s.sl.lookup Use.L r.line = some w →
    touched r.mask &&& (15 - covered r.mask) &&& (15 - tagSV (s.sl.tag w (setOf r.line))) = 0 → reqCauses r.pois r.pcause = 0 →
    s.sl.mem.loanAt w (setOf r.line) = 0 → s.sl.draining w = false →
    ∃ t, exec c v = .next t ∧ s.logged t ∧ s.sl.portMemOnly t.sl ∧
      s.sl.queuesBeat t.sl (fun b => b.answers op r s.sl.now Stat.ACK 3 0 0) ∧ t.sl.port.trks = [] ∧ s.sl.charged t.sl r 1 ∧
      s.sl.keepsFields t.sl (chargeFlds op r ++ [NS_RET_EVT.KEEPDEM, NS_RET_EVT.REVIVE, NS_REG_SLKEVT.URGENT r.cls.toNat]) ∧
      s.sl.storesLine t.sl w (setOf r.line) r.data r.mask ∧
      t.sl.mem = { s.sl.mem with tier := t.sl.mem.tier, tags := t.sl.mem.tags } ∧ s.sl.keepsTags t.sl w (setOf r.line) ∧
      tagRest (t.sl.tag w (setOf r.line)) =
        setSD (setSV (tagRest (s.sl.tag w (setOf r.line))) (tagSV (s.sl.tag w (setOf r.line)) ||| touched r.mask))
          (tagSD (s.sl.tag w (setOf r.line)) ||| touched r.mask)

/-- A counted write (CNTWR) that hits as a write does, with a credit and an issue entry free: it stores as a write, and one increment
leaves for its counter, an ACCINC with the write's handle and FAIL 0, context and generation, counted in INCSENT and under one MO credit.
That the increment has the write's class is the model's reading (log 93). -/
def Obligations.CountedWriteIncrements : Prop :=
  ∀ (v s : State) (r : Req) (w : Nat), s.sl.calm = true → v.admits s .cntwr r → s.sl.isHost r.line = false →
    s.sl.lookup Use.L r.line = some w →
    touched r.mask &&& (15 - covered r.mask) &&& (15 - tagSV (s.sl.tag w (setOf r.line))) = 0 → reqCauses r.pois r.pcause = 0 →
    s.sl.mem.loanAt w (setOf r.line) = 0 → s.sl.draining w = false → s.sl.canIssueReq = true →
    ∃ t, exec (.cntwr r) v = .next t ∧ s.logged t ∧
      t.sl = { s.sl with regs := t.sl.regs, meas := t.sl.meas, port := t.sl.port, mem := t.sl.mem, out := t.sl.out } ∧
      s.sl.port.keeps t.sl.port ∧
      s.sl.queuesBeat t.sl (fun b => b.answers .cntwr r s.sl.now Stat.ACK 3 0 0) ∧ t.sl.port.trks = [] ∧ s.sl.charged t.sl r 1 ∧
      s.sl.sendsReq t.sl (fun q => q.op = .accinc ∧ q.dd = false ∧ q.die = accDie r ∧ q.slice = accSlice r ∧ q.why = .incr ∧
        q.req.aux = BitVec.ofNat 64 (accHandle r) ∧ q.req.ctx = r.ctx ∧ q.req.gen = r.gen ∧ q.req.cls = r.cls) ∧
      t.sl.fld NS_PORTSTAT.MOCRED + 1 = s.sl.fld NS_PORTSTAT.MOCRED ∧
      t.sl.fld NS_BALANCE_INC.INCSENT = (s.sl.fld NS_BALANCE_INC.INCSENT + 1) % 2 ^ NS_BALANCE_INC.INCSENT.w ∧
      s.sl.keepsFields t.sl (chargeFlds .cntwr r ++ [NS_RET_EVT.KEEPDEM, NS_RET_EVT.REVIVE, NS_PORTSTAT.MOCRED, NS_BALANCE_INC.INCSENT,
        NS_REG_SLKEVT.URGENT r.cls.toNat]) ∧
      s.sl.storesLine t.sl w (setOf r.line) r.data r.mask ∧
      t.sl.mem = { s.sl.mem with tier := t.sl.mem.tier, tags := t.sl.mem.tags } ∧ s.sl.keepsTags t.sl w (setOf r.line) ∧
      tagRest (t.sl.tag w (setOf r.line)) =
        setSD (setSV (tagRest (s.sl.tag w (setOf r.line))) (tagSV (s.sl.tag w (setOf r.line)) ||| touched r.mask))
          (tagSD (s.sl.tag w (setOf r.line)) ||| touched r.mask)

/-- A fence that finds no forwarded write outstanding, and a flush of a line that is not resident or is clean and marked by no group, are
answered at once with ACK; no register, no byte and no tag entry changes. A flush of a line of this slice's own channel that is resident
in an L way with all its sectors and dirty, and marked by no group: the line's 128 bytes go out as one line write on HC under one credit,
the entry is left clean, and the flush is answered ACK. -/
def Obligations.FencesAndFlushesReply : Prop :=
  (∀ (v s : State) (op : Op) (r : Req) (c : Instr), op = .fence ∨ op = .flush → requestCmd op r = some c → s.sl.calm = true →
     v.admits s op r →
     (op = .flush → ∀ w, s.sl.lookup (s.sl.useOf r.line) r.line = some w →
       tagSD (s.sl.tag w (setOf r.line)) = 0 ∧ tagGRP (s.sl.tag w (setOf r.line)) = false) →
     ∃ t, exec c v = .next t ∧ s.logged t ∧ s.sl.portOnly t.sl ∧
       s.sl.queuesBeat t.sl (fun b => b.answers op r s.sl.now Stat.ACK 0 0 0) ∧ t.sl.port.trks = [] ∧ s.sl.keepsFields t.sl []) ∧
  (∀ (v s : State) (r : Req) (w bay : Nat), s.sl.calm = true → v.admits s .flush r → s.sl.isHost r.line = false →
     s.sl.lookup Use.L r.line = some w → tagSV (s.sl.tag w (setOf r.line)) = 15 → tagSD (s.sl.tag w (setOf r.line)) ≠ 0 →
     tagGRP (s.sl.tag w (setOf r.line)) = false → s.sl.chanReady = true → s.sl.memTgt r.line = .chan bay →
     ∃ t, exec (.flush r) v = .next t ∧ s.logged t ∧
       t.sl = { s.sl with regs := t.sl.regs, meas := t.sl.meas, port := t.sl.port, mem := t.sl.mem, chan := t.sl.chan } ∧
       s.sl.port.keeps t.sl.port ∧ s.sl.queuesBeat t.sl (fun b => b.answers .flush r s.sl.now Stat.ACK 0 0 0) ∧ t.sl.port.trks = [] ∧
       s.sl.sendsHC t.sl (fun h => h.write = true ∧ h.line = true ∧ h.sectors = 0xF ∧ h.bay = bay ∧ h.wpois = 0 ∧
         h.data = s.sl.mem.readLine w (setOf r.line)) ∧
       t.sl.chan = { s.sl.chan with nextOp := s.sl.chan.nextOp + 1, sentHC := t.sl.chan.sentHC } ∧
       t.sl.fld NS_PORTSTAT.HCCRED + 1 = s.sl.fld NS_PORTSTAT.HCCRED ∧
       s.sl.keepsFields t.sl [NS_PORTSTAT.HCCRED, NS_REG_SLKEVT.URGENT r.cls.toNat] ∧
       t.sl.mem = { s.sl.mem with tags := t.sl.mem.tags } ∧ s.sl.keepsTags t.sl w (setOf r.line) ∧
       t.sl.tag w (setOf r.line) = setSD (s.sl.tag w (setOf r.line)) 0)

/-- A bulk command write takes a command slot behind the occupied ones: the slot holds the sixteen words of the data line and what the
header says of its sender, the command begins at the byte its descriptor names, and the write is answered ACK. -/
def Obligations.CommandWriteTakesSlot : Prop :=
  ∀ (v s : State) (r : Req), s.sl.calm = true → v.admits s .cmdwr r →
    ∃ t, exec (.cmdwr r) v = .next t ∧ s.logged t ∧
      t.sl = { s.sl with regs := t.sl.regs, meas := t.sl.meas, port := t.sl.port, bulk := t.sl.bulk } ∧ s.sl.port.keeps t.sl.port ∧
      t.sl.bulk = { s.sl.bulk with nextCmd := s.sl.bulk.nextCmd + 1, cmds := s.sl.bulk.cmds ++
        [{ id := s.sl.bulk.nextCmd, born := s.sl.now, desc := descOf r.data, ctx := r.ctx, gen := r.gen, priv := r.priv,
           reqid := r.reqid, srcdie := r.srcdie, progress := descBits (descOf r.data) 4 0 40, checked := false, status := none,
           faultVa := 0, poisonLn := 0, rejLn := 0, lines := [], stopAt := none, xlate := [], tiles := [] }] } ∧
      s.sl.queuesBeat t.sl (fun b => b.answers .cmdwr r s.sl.now Stat.ACK 0 0 0) ∧ t.sl.port.trks = [] ∧ s.sl.charged t.sl r 1 ∧
      s.sl.keepsFields t.sl (chargeFlds .cmdwr r)

/-- A sealed write whose checks pass and whose counter is still below its target is held: the counter takes its TARGET and is HOLDING, the
write is kept, and HELD is answered. The checks of R456 are made in their order; one that fails decides the status answered, the refusal
is counted and sets REJ, and nothing is held or written. -/
def Obligations.SealedWriteHeld : Prop :=
  ∀ (v s : State) (r : Req), s.sl.calm = true → v.admits s .sealwr r →
    s.sl.sealCheck r = (if r.aux.toNat / 2 ^ 41 % 2 ^ 7 ≠ 0 then Stat.BAD_ACCN
      else if s.sl.fld (NS_ACCN_TARGET.EN (accNum r)) = 0 then Stat.ACCN_OFF
      else if s.sl.fld (NS_ACCN_TARGET.CTX (accNum r)) ≠ r.ctx.toNat then Stat.ACCN_CTX
      else if s.sl.accState (accNum r) = AccSt.HOLDING ∨ s.sl.accState (accNum r) = AccSt.RELEASING then Stat.ACCN_BUSY
      else if s.sl.accState (accNum r) = AccSt.ERROR then Stat.ACCN_ERR else 0) ∧
    (s.sl.sealCheck r = 0 → s.sl.hold? (accNum r) = none → s.sl.fld (NS_ACCN_TARGET.COUNT (accNum r)) < accTarget r →
      ∃ t, exec (.sealwr r) v = .next t ∧ s.logged t ∧
        t.sl = { s.sl with regs := t.sl.regs, meas := t.sl.meas, port := t.sl.port, holds := s.sl.holds ++
          [{ k := accNum r, n := s.sl.port.nextId, req := Req.taken .sealwr r, born := s.sl.now, issued := false,
             disable := false }] } ∧
        s.sl.port.keeps t.sl.port ∧ s.sl.queuesBeat t.sl (fun b => b.answers .sealwr r s.sl.now Stat.HELD 0 0 0) ∧
        t.sl.port.trks = [] ∧ t.sl.fld (NS_ACCN_TARGET.TARGET (accNum r)) = accTarget r ∧ t.sl.accState (accNum r) = AccSt.HOLDING ∧
        s.sl.charged t.sl r 1 ∧
        s.sl.keepsFields t.sl (chargeFlds .sealwr r ++ [NS_ACCN_TARGET.TARGET (accNum r), NS_ACCN_TARGET.STATE (accNum r)])) ∧
    (s.sl.sealCheck r ≠ 0 →
      ∃ t, exec (.sealwr r) v = .next t ∧ s.logged t ∧ s.sl.portOnly t.sl ∧
        s.sl.queuesBeat t.sl (fun b => b.answers .sealwr r s.sl.now (s.sl.sealCheck r) 0 0 0) ∧ t.sl.port.trks = [] ∧
        t.sl.flag NS_ACCN_STICKY.REJ = true ∧
        t.sl.fld NS_ACCN_EVT.REJECTED = min (2 ^ NS_ACCN_EVT.REJECTED.w - 1) (s.sl.fld NS_ACCN_EVT.REJECTED + 1) ∧
        s.sl.charged t.sl r 1 ∧
        s.sl.keepsFields t.sl (chargeFlds .sealwr r ++ [NS_ACCN_EVT.REJECTED, NS_ACCN_STICKY.REJ]))

/-- An increment for an enabled counter of its context that is not in ERROR, at a count that does not overflow and does not end a hold:
COUNT goes up by one, TAINT is set where the increment carries FAIL, INCRCVD goes up by one, and ACK is answered. -/
def Obligations.IncrementCounts : Prop :=
  ∀ (v s : State) (r : Req), s.sl.calm = true → v.admits s .accinc r →
    s.sl.flag (NS_ACCN_TARGET.EN (accNum r)) = true → s.sl.fld (NS_ACCN_TARGET.CTX (accNum r)) = r.ctx.toNat →
    s.sl.accState (accNum r) ≠ AccSt.ERROR → s.sl.fld (NS_ACCN_TARGET.COUNT (accNum r)) < 0xFFFFFF →
    (s.sl.accState (accNum r) = AccSt.HOLDING →
      s.sl.fld (NS_ACCN_TARGET.COUNT (accNum r)) + 1 < s.sl.fld (NS_ACCN_TARGET.TARGET (accNum r))) →
    ∃ t, exec (.accinc r) v = .next t ∧ s.logged t ∧ s.sl.portOnly t.sl ∧
      s.sl.queuesBeat t.sl (fun b => b.answers .accinc r s.sl.now Stat.ACK 0 0 0) ∧ t.sl.port.trks = [] ∧
      t.sl.fld (NS_ACCN_TARGET.COUNT (accNum r)) = s.sl.fld (NS_ACCN_TARGET.COUNT (accNum r)) + 1 ∧
      t.sl.flag (NS_ACCN_TARGET.TAINT (accNum r)) = (accFail r || s.sl.flag (NS_ACCN_TARGET.TAINT (accNum r))) ∧
      t.sl.fld NS_BALANCE_INC.INCRCVD = (s.sl.fld NS_BALANCE_INC.INCRCVD + 1) % 2 ^ NS_BALANCE_INC.INCRCVD.w ∧
      s.sl.keepsFields t.sl [NS_ACCN_TARGET.COUNT (accNum r), NS_ACCN_TARGET.TAINT (accNum r), NS_BALANCE_INC.INCRCVD]

/-- A proxy read at a channel that can take it goes out on HC as one line read under one credit, and its tracker waits for the data; a
proxy write of a whole line goes out as one line write with its data and causes, and is acknowledged. Neither touches the data tier or a
tag entry. -/
def Obligations.ProxyUsesChannel : Prop :=
  ∀ (v s : State) (r : Req) (bay : Nat), s.sl.calm = true → s.sl.chanReady = true → s.sl.memTgt r.line = .chan bay →
    (v.admits s .pxrd r →
      ∃ t, exec (.pxrd r) v = .next t ∧ s.logged t ∧
        t.sl = { s.sl with regs := t.sl.regs, meas := t.sl.meas, port := t.sl.port, chan := t.sl.chan } ∧
        s.sl.port.keeps t.sl.port ∧ t.sl.port.beats = s.sl.port.beats ∧ s.sl.holdsTrk t.sl .pxrd r .fill ∧
        s.sl.sendsHC t.sl (fun h => h.write = false ∧ h.line = true ∧ h.sectors = 0xF ∧ h.bay = bay ∧ h.otag = 0) ∧
        t.sl.chan = { s.sl.chan with ops := t.sl.chan.ops, nextOp := s.sl.chan.nextOp + 1, sentHC := t.sl.chan.sentHC } ∧
        s.sl.holdsOp t.sl (fun o => o.why = .trk s.sl.port.nextId ∧ o.line = r.line ∧ o.write = false ∧ o.sent = some (.chan bay) ∧
          o.otag = some 0) ∧
        t.sl.fld NS_PORTSTAT.HCCRED + 1 = s.sl.fld NS_PORTSTAT.HCCRED ∧ s.sl.charged t.sl r 1 ∧
        s.sl.keepsFields t.sl (chargeFlds .pxrd r ++ [NS_PORTSTAT.HCCRED, NS_REG_SLKEVT.URGENT r.cls.toNat])) ∧
    (v.admits s .pxwr r → r.mask = fullMask →
      ∃ t, exec (.pxwr r) v = .next t ∧ s.logged t ∧
        t.sl = { s.sl with regs := t.sl.regs, meas := t.sl.meas, port := t.sl.port, chan := t.sl.chan } ∧
        s.sl.port.keeps t.sl.port ∧ s.sl.queuesBeat t.sl (fun b => b.answers .pxwr r s.sl.now Stat.ACK 3 0 0) ∧
        t.sl.port.trks = [] ∧
        s.sl.sendsHC t.sl (fun h => h.write = true ∧ h.line = true ∧ h.sectors = 0xF ∧ h.bay = bay ∧ h.data = r.data ∧
          h.wpois = reqCauses r.pois r.pcause) ∧
        t.sl.chan = { s.sl.chan with nextOp := s.sl.chan.nextOp + 1, sentHC := t.sl.chan.sentHC } ∧
        t.sl.fld NS_PORTSTAT.HCCRED + 1 = s.sl.fld NS_PORTSTAT.HCCRED ∧ s.sl.charged t.sl r 1 ∧
        s.sl.keepsFields t.sl (chargeFlds .pxwr r ++ [NS_PORTSTAT.HCCRED, NS_REG_SLKEVT.URGENT r.cls.toNat]))

/-- A reserved opcode, and TINV, that reach the port of a calm slice and are not stale are answered BAD_OPC and entered in the error
record with the request's fields; nothing is charged and nothing else changes. A stale request that the port accepts, of whatever opcode,
is dropped: no reply, no byte and no tag entry changes; it holds the tracker of its opcode only until its cycle ends; it is counted in
NS_RC_STALE.REQ, and an increment at its counter's slice is counted in STALEINC and INCRCVD too. An atomic that breaks R358 to R360 is
answered BAD_ATOM, counted in REFUSED and entered in the error record; no byte and no tag entry changes. One on a line marked by a group
is answered BAD_TARGET and counted. That BAD_TARGET makes no error record is the model's reading (log 74). -/
def Obligations.RequestsTurnedAway : Prop :=
  (∀ (v s : State) (code : BitVec 6) (op : Op) (r : Req), (if code = 0x16 then op = .tinv else op = .other code) → s.sl.calm = true →
     v.reaches s op r → isStale s.gentab op r = false →
     ∃ t, exec (.reservedOpcode code r) v = .next t ∧ s.logged t ∧ s.sl.portOnly t.sl ∧
       s.sl.queuesBeat t.sl (fun b => b.answers op r s.sl.now Stat.BAD_OPC 0 0 0) ∧ t.sl.port.trks = [] ∧
       s.sl.entersErr t.sl (reqEvent ErrCode.BAD_OPC op r) ∧ s.sl.keepsFields t.sl errFlds) ∧
  (∀ (v s : State) (op : Op) (r : Req) (c : Instr), requestCmd op r = some c → s.sl.calm = true → v.reaches s op r →
     isStale s.gentab op r = true →
     ∃ t, exec c v = .next t ∧ s.logged t ∧ s.sl.portOnly t.sl ∧ t.sl.port.beats = s.sl.port.beats ∧
       (opTrk op = .none → t.sl.port.trks = []) ∧ (opTrk op ≠ .none → s.sl.holdsTrk t.sl op r .stale) ∧
       t.sl.fld NS_RC_STALE.REQ = min (2 ^ NS_RC_STALE.REQ.w - 1) (s.sl.fld NS_RC_STALE.REQ + 1) ∧
       (op = .accinc → s.sl.place .accinc r = .here →
         t.sl.fld NS_ACCN_EVT.STALEINC = min (2 ^ NS_ACCN_EVT.STALEINC.w - 1) (s.sl.fld NS_ACCN_EVT.STALEINC + 1) ∧
         t.sl.fld NS_BALANCE_INC.INCRCVD = (s.sl.fld NS_BALANCE_INC.INCRCVD + 1) % 2 ^ NS_BALANCE_INC.INCRCVD.w) ∧
       s.sl.charged t.sl r (linesCharged op (Req.taken op r) (s.sl.cvtOf op r)) ∧
       s.sl.keepsFields t.sl (chargeFlds op r ++ [NS_RC_STALE.REQ] ++
         (if op = .accinc ∧ s.sl.place .accinc r = .here then [NS_ACCN_EVT.STALEINC, NS_BALANCE_INC.INCRCVD] else []))) ∧
  (∀ (v s : State) (a : AOp) (posted : Bool) (r : Req) (c : Instr) (bad : Bool), requestCmd (.atom a posted) r = some c →
     s.sl.calm = true → v.admits s (.atom a posted) r → r.vsp = false →
     atomOk a r.off r.mask r.fmt.toNat = !bad → (bad = false → s.sl.grpMarked r.line = true) →
     ∃ t, exec c v = .next t ∧ s.logged t ∧ s.sl.portOnly t.sl ∧
       s.sl.queuesBeat t.sl (fun b => b.answers (.atom a posted) r s.sl.now (if bad = true then Stat.BAD_ATOM else Stat.BAD_TARGET) 0 0 0) ∧
       s.sl.holdsTrk t.sl (.atom a posted) r .done ∧ s.sl.charged t.sl r 1 ∧
       t.sl.fld NS_UU_EVT.REFUSED = min (2 ^ NS_UU_EVT.REFUSED.w - 1) (s.sl.fld NS_UU_EVT.REFUSED + 1) ∧
       (bad = true → s.sl.entersErr t.sl (reqEvent ErrCode.BAD_ATOM (.atom a posted) r)) ∧
       s.sl.keepsFields t.sl (chargeFlds (.atom a posted) r ++ [NS_UU_EVT.REFUSED] ++ (if bad = true then errFlds else [])))

/-- The header words: a request's header gives its opcode and all its fields back, with every reserved bit zero, and a header without
reserved bits set is the header of what it spells; a reply header gives back its destinations, at most sixteen, and its fields. -/
def Obligations.HeadersAgree : Prop :=
  (∀ c : BitVec 6, (Op.ofCode c).code = c.toNat) ∧
  (∀ (c : BitVec 6) (r : Req), headerOp (Req.header (Op.ofCode c) r) = Op.ofCode c ∧
    headerReq (Req.header (Op.ofCode c) r) r.data r.via r.odd r.peer = r ∧ (Req.header (Op.ofCode c) r).extractLsb' 151 41 = 0) ∧
  (∀ (h : BitVec 384) (data : LineData) (via : Via) (odd : Bool) (peer : Option Peer), h.extractLsb' 151 41 = 0 →
    Req.header (headerOp h) (headerReq h data via odd peer) = h) ∧
  (∀ (ds : List (BitVec 23)) (m : RepMsg), ds.length ≤ 16 → headerDests (replyHeader ds m) = ds ∧
    (replyHeader ds m).extractLsb' 76 68 = 0 ∧
    ∀ d, ds.head? = some d → headerReply (replyHeader ds m) m.data = { m with tag := d.extractLsb' 11 12 })

/-- A vitrine read by a context that is permitted is answered with the line as the vitrine gives it: a sector that is not initialised as
zero with cause UNINIT, a quarantined line with cause QUAR, an initialised one as stored; a read that meets an uninitialised sector is
counted in UNINITRD. By a context that is not permitted it is answered DENIED and counted. No byte and no tag entry changes. -/
def Obligations.VitrineReadReplies : Prop :=
  ∀ (v s : State) (r : Req) (line : Nat), s.sl.calm = true → v.admits s .vrd r → line = r.pa.toNat % 2 ^ 24 / 128 →
    (s.sl.vtAllowed r = true →
      ∃ t, exec (.vrd r) v = .next t ∧ s.logged t ∧ s.sl.portOnly t.sl ∧
        s.sl.queuesBeat t.sl (fun b => b.answers .vrd r s.sl.now Stat.ACK 0
          (deliver (mergeLine 0 (s.sl.mem.readLine (line / 8192) (line % 8192)) (sectorsMask (s.sl.vtInit line))) (s.sl.vtCauses line))
          (s.sl.vtCauses line)) ∧
        s.sl.holdsTrk t.sl .vrd r .done ∧ s.sl.charged t.sl r 1 ∧
        t.sl.fld NS_VT_EVT.UNINITRD =
          min (2 ^ NS_VT_EVT.UNINITRD.w - 1) (s.sl.fld NS_VT_EVT.UNINITRD + b2n (s.sl.vtMeetsUninit line)) ∧
        s.sl.keepsFields t.sl (chargeFlds .vrd r ++ [NS_VT_EVT.UNINITRD])) ∧
    (s.sl.vtAllowed r = false →
      ∃ t, exec (.vrd r) v = .next t ∧ s.logged t ∧ s.sl.portOnly t.sl ∧
        s.sl.queuesBeat t.sl (fun b => b.answers .vrd r s.sl.now Stat.DENIED 0 0 0) ∧ s.sl.holdsTrk t.sl .vrd r .done ∧
        s.sl.charged t.sl r 1 ∧
        t.sl.fld NS_VT_EVT.DENIED = min (2 ^ NS_VT_EVT.DENIED.w - 1) (s.sl.fld NS_VT_EVT.DENIED + 1) ∧
        s.sl.keepsFields t.sl (chargeFlds .vrd r ++ [NS_VT_EVT.DENIED]))

/-- A vitrine write by a context that is permitted stores the masked bytes, zeroes the rest of a sector that it initialises in part,
initialises the sectors it touches, and is acknowledged at both levels. A quarantined line is left as it is, the write is acknowledged and
QUARWR is recorded. A write that is not permitted is answered DENIED and changes no byte. -/
def Obligations.VitrineWriteStores : Prop :=
  ∀ (v s : State) (r : Req) (line : Nat), s.sl.calm = true → v.admits s .vwr r → line = r.pa.toNat % 2 ^ 24 / 128 →
    (s.sl.vtAllowed r = true → s.sl.vtQuar line = false → reqCauses r.pois r.pcause = 0 →
      ∃ t, exec (.vwr r) v = .next t ∧ s.logged t ∧ s.sl.portMemOnly t.sl ∧
        s.sl.queuesBeat t.sl (fun b => b.answers .vwr r s.sl.now Stat.ACK 3 0 0) ∧ t.sl.port.trks = [] ∧ s.sl.charged t.sl r 1 ∧
        s.sl.storesLine t.sl (line / 8192) (line % 8192) (mergeLine 0 r.data r.mask)
          (r.mask ||| sectorsMask (touched r.mask &&& (15 - covered r.mask) &&& (15 - s.sl.vtInit line))) ∧
        t.sl.mem = { s.sl.mem with tier := t.sl.mem.tier, tags := t.sl.mem.tags } ∧
        s.sl.keepsTags t.sl (line / 8192) (line % 8192) ∧
        t.sl.tag (line / 8192) (line % 8192) =
          setSV (s.sl.tag (line / 8192) (line % 8192)) (s.sl.vtInit line ||| touched r.mask) ∧
        s.sl.keepsFields t.sl (chargeFlds .vwr r ++ [NS_VT_EVT.ZFILL, NS_REG_SLKEVT.URGENT r.cls.toNat])) ∧
    (s.sl.vtAllowed r = true → s.sl.vtQuar line = true →
      ∃ t, exec (.vwr r) v = .next t ∧ s.logged t ∧ s.sl.portOnly t.sl ∧
        s.sl.queuesBeat t.sl (fun b => b.answers .vwr r s.sl.now Stat.ACK 3 0 0) ∧ t.sl.port.trks = [] ∧ s.sl.charged t.sl r 1 ∧
        s.sl.entersErr t.sl (reqEvent ErrCode.QUARWR .vwr r) ∧ s.sl.keepsFields t.sl (chargeFlds .vwr r ++ errFlds)) ∧
    (s.sl.vtAllowed r = false →
      ∃ t, exec (.vwr r) v = .next t ∧ s.logged t ∧ s.sl.portOnly t.sl ∧
        s.sl.queuesBeat t.sl (fun b => b.answers .vwr r s.sl.now Stat.DENIED 0 0 0) ∧ s.sl.holdsTrk t.sl .vwr r .done ∧
        s.sl.charged t.sl r 1 ∧
        t.sl.fld NS_VT_EVT.DENIED = min (2 ^ NS_VT_EVT.DENIED.w - 1) (s.sl.fld NS_VT_EVT.DENIED + 1) ∧
        s.sl.keepsFields t.sl (chargeFlds .vwr r ++ [NS_VT_EVT.DENIED]))

/-- An atomic, returning or posted, that is well formed and whose line is resident in an L way with every sector it touches, is not marked
by a group, has no loan copy and no poison: the line becomes what the operation makes of it in the bytes it writes, and every other byte
of the tier keeps its value. The returning form is answered with the old data and both acknowledgement levels, the posted form with a
status of both levels. The flags NV and OF are set where the operation raises them. That one reply carries both levels is the model's
reading (log 73). -/
def Obligations.AtomicHitApplies : Prop :=
  ∀ (v s : State) (a : AOp) (posted : Bool) (r : Req) (c : Instr) (w : Nat) (o : AtomRes), requestCmd (.atom a posted) r = some c →
    s.sl.calm = true → v.admits s (.atom a posted) r → s.sl.isHost r.line = false → r.vsp = false →
    atomOk a r.off r.mask r.fmt.toNat = true → s.sl.grpMarked r.line = false → s.sl.lookup Use.L r.line = some w →
    atomTouch a r.mask &&& (15 - tagSV (s.sl.tag w (setOf r.line))) = 0 → reqCauses r.pois r.pcause = 0 →
    s.sl.mem.loanAt w (setOf r.line) = 0 → s.sl.draining w = false →
    o = atomApply a r.off r.mask r.fmt.toNat r.data (s.sl.mem.readLine w (setOf r.line)) →
    ∃ t, exec c v = .next t ∧ s.logged t ∧ s.sl.portMemOnly t.sl ∧
      s.sl.queuesBeat t.sl (fun b => b.answers (.atom a posted) r s.sl.now Stat.ACK 3
        (if posted = true then 0 else atomReply a r.mask (s.sl.mem.readLine w (setOf r.line))) 0) ∧
      s.sl.holdsTrkAt t.sl (.atom a posted) .done ∧ s.sl.charged t.sl r 1 ∧
      t.sl.flag NS_UU_STICKY.NV = (s.sl.flag NS_UU_STICKY.NV || o.nv) ∧
      t.sl.flag NS_UU_STICKY.OF = (s.sl.flag NS_UU_STICKY.OF || o.of) ∧
      s.sl.keepsFields t.sl (chargeFlds (.atom a posted) r ++ [NS_RET_EVT.KEEPDEM, NS_RET_EVT.REVIVE, NS_UU_STICKY.NV, NS_UU_STICKY.OF,
        NS_REG_SLKEVT.URGENT r.cls.toNat]) ∧
      s.sl.storesLine t.sl w (setOf r.line) o.line o.mask ∧
      t.sl.mem = { s.sl.mem with tier := t.sl.mem.tier, tags := t.sl.mem.tags } ∧ s.sl.keepsTags t.sl w (setOf r.line) ∧
      tagRest (t.sl.tag w (setOf r.line)) =
        setSD (setSV (tagRest (s.sl.tag w (setOf r.line))) (tagSV (s.sl.tag w (setOf r.line)) ||| touched o.mask))
          (tagSD (s.sl.tag w (setOf r.line)) ||| touched o.mask)

/-- A converting read that passes the checks of R323: CRD of a line resident in an L way with all its sectors, VCRD of any line. Its
stored line is answered in the parts of its format, with the flags of the conversion entered in NS_FP_STICKY and one CVTRD counted; no
byte changes. -/
def Obligations.ConvertingReadReplies : Prop :=
  ∀ (v s : State) (op : Op) (r : Req) (c : Instr) (sf : BitVec 5) (o w line : Nat)
    (q : List (LineData × BitVec 12) × FpFlags), op = .crd ∨ op = .vcrd → requestCmd op r = some c →
    s.sl.calm = true → v.admits s op r → s.sl.cvtOf op r = some (sf, o) → s.sl.cvtCheck op r (some (sf, o)) = 0 →
    (op = .crd → s.sl.lookup Use.L r.line = some w → tagSV (s.sl.tag w (setOf r.line)) = 15 →
      q = s.sl.deliverAll sf.toNat r.fmt.toNat o (s.sl.mem.readLine w (setOf r.line)) 0 →
      ∃ t, exec c v = .next t ∧ s.logged t ∧ s.sl.portMemOnly t.sl ∧ s.sl.queuesParts t.sl op r q.1 ∧
        s.sl.holdsTrk t.sl op r .done ∧ s.sl.charged t.sl r (linesCharged op r (some (sf, o))) ∧
        t.sl.rd Reg.NS_FP_STICKY = (s.sl.fpFlags q.2).rd Reg.NS_FP_STICKY ∧
        t.sl.fld NS_FP_EVT.CVTRD = min (2 ^ NS_FP_EVT.CVTRD.w - 1) (s.sl.fld NS_FP_EVT.CVTRD + 1) ∧
        s.sl.keepsFields t.sl (chargeFlds op r ++
          [NS_RET_EVT.KEEPDEM, NS_RET_EVT.REVIVE, wholeReg Reg.NS_FP_STICKY, NS_FP_EVT.CVTRD, NS_FP_EVT.SCALEUP]) ∧
        t.sl.mem = { s.sl.mem with tags := t.sl.mem.tags } ∧ s.sl.keepsTags t.sl w (setOf r.line) ∧
        tagRest (t.sl.tag w (setOf r.line)) = tagRest (s.sl.tag w (setOf r.line))) ∧
    (op = .vcrd → line = r.pa.toNat % 2 ^ 24 / 128 →
      s.sl.vtQuar line = false →
      q = s.sl.deliverAll sf.toNat r.fmt.toNat o
        (mergeLine 0 (s.sl.mem.readLine (line / 8192) (line % 8192)) (sectorsMask (s.sl.vtInit line))) (s.sl.vtCauses line) →
      ∃ t, exec c v = .next t ∧ s.logged t ∧ s.sl.portOnly t.sl ∧ s.sl.queuesParts t.sl op r q.1 ∧
        s.sl.holdsTrk t.sl op r .done ∧ s.sl.charged t.sl r (linesCharged op r (some (sf, o))) ∧
        t.sl.rd Reg.NS_FP_STICKY = (s.sl.fpFlags q.2).rd Reg.NS_FP_STICKY ∧
        t.sl.fld NS_FP_EVT.CVTRD = min (2 ^ NS_FP_EVT.CVTRD.w - 1) (s.sl.fld NS_FP_EVT.CVTRD + 1) ∧
        s.sl.keepsFields t.sl (chargeFlds op r ++
          [NS_VT_EVT.UNINITRD, wholeReg Reg.NS_FP_STICKY, NS_FP_EVT.CVTRD, NS_FP_EVT.SCALEUP]))

/-- A converting write that passes the checks of R323, with a source that stores no poison: CWR into a line resident in an L way (every
sector it covers in part valid, no loan copy, the way not draining), VCWR into a line that is not quarantined, its scale line neither. The
part's bytes are stored as the conversion gives them, for an MX format with its scale bytes; every byte outside the line and its eight
scale bytes keeps its value; one CVTWR is counted and the write is acknowledged at both levels. -/
def Obligations.ConvertingWriteStores : Prop :=
  ∀ (v s : State) (op : Op) (r : Req) (c : Instr) (sf : BitVec 5) (o w line : Nat) (p : Stored), op = .cwr ∨ op = .vcwr →
    requestCmd op r = some c → s.sl.calm = true → v.admits s op r → s.sl.cvtOf op r = some (sf, o) →
    s.sl.cvtCheck op r (some (sf, o)) = 0 →
    p = storePart sf.toNat r.fmt.toNat (partOf r) r.data (reqCauses r.pois r.pcause) → p.pz = 0 →
    (op = .cwr → s.sl.lookup Use.L r.line = some w →
      touched p.mask &&& (15 - covered p.mask) &&& (15 - tagSV (s.sl.tag w (setOf r.line))) = 0 →
      s.sl.mem.loanAt w (setOf r.line) = 0 → s.sl.draining w = false →
      ∃ t, exec c v = .next t ∧ s.logged t ∧ s.sl.portMemOnly t.sl ∧
        s.sl.queuesBeat t.sl (fun b => b.answers op r s.sl.now Stat.ACK 3 0 0) ∧ t.sl.port.trks = [] ∧ s.sl.charged t.sl r 1 ∧
        s.sl.storesLine t.sl w (setOf r.line) p.data p.mask ∧
        t.sl.mem = { s.sl.mem with tier := t.sl.mem.tier, tags := t.sl.mem.tags } ∧ s.sl.keepsTags t.sl w (setOf r.line) ∧
        t.sl.rd Reg.NS_FP_STICKY = (s.sl.fpFlags p.fl).rd Reg.NS_FP_STICKY ∧
        t.sl.fld NS_FP_EVT.CVTWR = min (2 ^ NS_FP_EVT.CVTWR.w - 1) (s.sl.fld NS_FP_EVT.CVTWR + 1) ∧
        s.sl.keepsFields t.sl (chargeFlds op r ++
          [NS_RET_EVT.KEEPDEM, NS_RET_EVT.REVIVE, wholeReg Reg.NS_FP_STICKY, NS_FP_EVT.CVTWR, NS_FP_EVT.SCALEUP,
            NS_REG_SLKEVT.URGENT r.cls.toNat])) ∧
    (op = .vcwr → line = r.pa.toNat % 2 ^ 24 / 128 → s.sl.vtQuar line = false →
      (16 ≤ sf.toNat → s.sl.vtQuar (o / 128) = false) →
      ∃ t, exec c v = .next t ∧ s.logged t ∧ s.sl.portMemOnly t.sl ∧
        s.sl.queuesBeat t.sl (fun b => b.answers op r s.sl.now Stat.ACK 3 0 0) ∧ t.sl.port.trks = [] ∧ s.sl.charged t.sl r 1 ∧
        t.sl.mem = (if 16 ≤ sf.toNat then (s.sl.vtStore line p.data p.mask 0).putScales (sf.toNat % 16) o p.block0 p.scales
          else s.sl.vtStore line p.data p.mask 0).mem ∧
        (∀ a, a / 128 ≠ line → ¬(16 ≤ sf.toNat ∧ a / 128 = o / 128) → t.sl.mem.byte a = s.sl.mem.byte a) ∧
        t.sl.rd Reg.NS_FP_STICKY = (s.sl.fpFlags p.fl).rd Reg.NS_FP_STICKY ∧
        t.sl.fld NS_FP_EVT.CVTWR = min (2 ^ NS_FP_EVT.CVTWR.w - 1) (s.sl.fld NS_FP_EVT.CVTWR + 1) ∧
        s.sl.keepsFields t.sl (chargeFlds op r ++
          [NS_VT_EVT.ZFILL, wholeReg Reg.NS_FP_STICKY, NS_FP_EVT.CVTWR, NS_FP_EVT.SCALEUP, NS_REG_SLKEVT.URGENT r.cls.toNat]))

/-- An arrival (REDC, REDN) to a vitrine-target group, or to a line that its memory-target group holds, that R272 accepts, waits in its
tracker to be combined: nothing is answered and no byte changes yet. One that R272 rejects is answered with the status of the first row
that applies, and its rejection is counted. One to a group that is OPENING is turned back without a credit in the HOLD class of the slot
census, and nothing else changes (R274). -/
def Obligations.ArrivalJudged : Prop :=
  (∀ (v s : State) (op : Op) (r : Req) (c : Instr), op = .redc ∨ op = .redn → requestCmd op r = some c → s.sl.calm = true →
    v.slotFor op r = s → s.sl.mqRdy = true → r.via = .mq → r.cred = false → s.sl.verdict s.gentab op r = .pass →
    s.sl.hostSound op r = true → s.sl.place op r = .here → s.sl.busyRes op r false none = none → s.sl.grpState r.group.toNat = GSt.OPENING →
    ∃ t, exec c v = .next t ∧ s.logged t ∧
      t.sl = { s.sl with regs := t.sl.regs, meas := t.sl.meas, port :=
        if r.odd = true then { s.sl.port with slotO := some .hold, rcrO := false }
        else { s.sl.port with slotE := some .hold, rcrE := false } } ∧ s.sl.keepsFields t.sl []) ∧
  (∀ (v s : State) (op : Op) (r : Req) (c : Instr) (st : Nat), op = .redc ∨ op = .redn → requestCmd op r = some c → s.sl.calm = true →
    v.admits s op r →
    st = (if (s.sl.grp? r.group.toNat).any (fun p => decide (s.sl.port.nextId < p.openedAt)) = true then Stat.REJ_CLOSED
      else s.sl.judgeArrival r (((s.sl.grp? r.group.toNat).bind (·.cutoff)).all fun k => decide (s.sl.port.nextId < k))) →
    (st = Stat.ACK → (r.vsp = true ∨ (∃ p, s.sl.grp? r.group.toNat = some p ∧ p.lines.contains r.line = true) ∧
        s.sl.loansCalled r.line = true) →
      ∃ t, exec c v = .next t ∧ s.logged t ∧ s.sl.portOnly t.sl ∧ t.sl.port.beats = s.sl.port.beats ∧
        s.sl.holdsTrk t.sl op r .combine ∧ s.sl.charged t.sl r 1 ∧ s.sl.keepsFields t.sl (chargeFlds op r)) ∧
    (st ≠ Stat.ACK →
      ∃ t, exec c v = .next t ∧ s.logged t ∧
        t.sl = { s.sl with regs := t.sl.regs, meas := t.sl.meas, port := t.sl.port, grps := t.sl.grps } ∧ s.sl.port.keeps t.sl.port ∧
        s.sl.queuesBeat t.sl (fun b => b.answers op r s.sl.now st 0 0 0) ∧ s.sl.holdsTrk t.sl op r .done ∧
        s.sl.charged t.sl r 1 ∧
        t.sl.grps = (s.sl.modGrp r.group.toNat fun p => { p with rejects := p.rejects + 1 }).grps ∧
        s.sl.keepsFields t.sl (chargeFlds op r ++ [wholeReg Reg.NS_RA_STICKY, NS_GRPSTAT.FLAGS r.group.toNat, NS_RA_REJ.FMT,
          NS_RA_REJ.CMB, NS_GRP_EVT.REJOTHER])))

/-- An OPEN that passes the checks of R268 makes its group OPENING with the descriptor, the requester and the marks on its lines, and is
answered later; one that fails a check is answered at once with the code of the first check that fails, and opens nothing. -/
def Obligations.GroupOpens : Prop :=
  ∀ (v s : State) (r : Req) (n : Nat) (d : List Word), s.sl.calm = true → v.admits s .grpctl r →
    n = r.group.toNat → d = descOf r.data → gCMD d = 1 →
    (s.sl.openCheck n d r = GS.OK →
      ∃ t, exec (.openGrp (.mesh r)) v = .next t ∧ s.logged t ∧
        t.sl = { s.sl with regs := t.sl.regs, meas := t.sl.meas, port := t.sl.port, grps := t.sl.grps, mem := t.sl.mem } ∧
        s.sl.port.keeps t.sl.port ∧ t.sl.port.beats = s.sl.port.beats ∧ t.sl.port.trks = [] ∧
        t.sl.grps = s.sl.grps ++
          [{ num := n, desc := d, req := Req.taken .grpctl r, born := s.sl.now,
             opener := some { staged := false, req := Req.taken .grpctl r, born := s.sl.now, ord := s.sl.port.nextId }, aborts :=
               [], lines := [],
             leftCount := 0, booked := 0, idx := [], arrivals := 0, rejects := 0, fwdRej := 0, shortU := 0, poisonLn := 0,
             fwdSent := 0, fwdDone := 0, byClose := false, openedAt := s.sl.port.nextId, epiDone := false }] ∧
        t.sl.grpState n = GSt.OPENING ∧ t.sl.fld (NS_GRPSTAT.CTX n) = r.ctx.toNat ∧
        t.sl.fld (NS_GRPSTAT.LAST n) = s.sl.fld (NS_GRPSTAT.LAST n) ∧
        t.sl.mem = (s.sl.markGrp d true).mem ∧ s.sl.keepsBytes t.sl ∧ s.sl.charged t.sl r 1 ∧
        s.sl.keepsFields t.sl (chargeFlds .grpctl r ++ [wholeReg (Reg.NS_GRPSTAT n)])) ∧
    (s.sl.openCheck n d r ≠ GS.OK →
      ∃ t, exec (.openGrp (.mesh r)) v = .next t ∧ s.logged t ∧ s.sl.portOnly t.sl ∧
        s.sl.queuesBeat t.sl (fun b => b.answers .grpctl r s.sl.now Stat.GRPCTL 0 0 0 ∧ b.detail = s.sl.openCheck n d r) ∧
        t.sl.port.trks = [] ∧ t.sl.fld NS_GRPOPEN.RSTATUS = s.sl.openCheck n d r ∧ s.sl.charged t.sl r 1 ∧
        s.sl.keepsFields t.sl (chargeFlds .grpctl r ++ [NS_GRPOPEN.RSTATUS]))

/-- A CLOSE of an OPEN group of whose lines no loan copy stands, by its own context, begins the close, for the arrivals accepted before
it, and is answered OK; an ABORT of an OPEN group that holds no memory line ends it at once: the group is FREE with LAST 2, its record is
due with the units that are short then, its lines carry no mark, and the ABORT is answered OK. SHORTU of an aborted group is the model's
reading (log 124). -/
def Obligations.GroupClosesAndAborts : Prop :=
  ∀ (v s : State) (r : Req) (n : Nat) (p : Grp), s.sl.calm = true → v.admits s .grpctl r →
    n = r.group.toNat → gBadForm r = false → s.sl.grp? n = some p → r.ctx = p.req.ctx → s.sl.grpState n = GSt.OPEN →
    (gCMD (descOf r.data) = 2 → s.sl.loanFree p = true → (∀ q ∈ s.sl.grps, q.num = n → q = p) →
      ∃ t, exec (.closeGrp (.mesh r)) v = .next t ∧ s.logged t ∧
        t.sl = { s.sl with regs := t.sl.regs, meas := t.sl.meas, port := t.sl.port, grps := t.sl.grps } ∧ s.sl.port.keeps t.sl.port ∧
        s.sl.queuesBeat t.sl (fun b => b.answers .grpctl r s.sl.now Stat.GRPCTL 0 0 0 ∧ b.detail = GS.OK) ∧ t.sl.port.trks = [] ∧
        t.sl.grpState n = GSt.CLOSING ∧
        t.sl.grp? n = some { p with byClose := true, cutoff := some (p.cutoff.getD s.sl.port.nextId) } ∧
        (∀ m, m ≠ n → t.sl.grp? m = s.sl.grp? m) ∧ s.sl.charged t.sl r 1 ∧
        s.sl.keepsFields t.sl (chargeFlds .grpctl r ++ [NS_GRPSTAT.STATE n, NS_GRPOPEN.RSTATUS])) ∧
    (gCMD (descOf r.data) = 3 → p.lines = [] → p.opener = none →
      ∃ t, exec (.abortGrp (.mesh r)) v = .next t ∧ s.logged t ∧
        t.sl = { s.sl with regs := t.sl.regs, meas := t.sl.meas, port := t.sl.port, mem := t.sl.mem, bulk := t.sl.bulk,
                           grps := s.sl.grps.filter (fun q => q.num != n) } ∧ s.sl.port.keeps t.sl.port ∧
        s.sl.queuesBeat t.sl (fun b => b.answers .grpctl r s.sl.now Stat.GRPCTL 0 0 0 ∧ b.detail = GS.OK) ∧ t.sl.port.trks = [] ∧
        t.sl.grpState n = GSt.FREE ∧ t.sl.fld (NS_GRPSTAT.LAST n) = 2 ∧
        t.sl.bulk = { s.sl.bulk with cpls := s.sl.bulk.cpls ++
          [s.sl.grpRecord { p with shortU := s.sl.fld (NS_GRPSTAT.SHORTU n) } 2], nextCpl := s.sl.bulk.nextCpl + 1 } ∧
        t.sl.fld (NS_GRPSTAT.SHORTU n) = (if gMEM p.desc = true then 0 else s.sl.fld (NS_GRPSTAT.SHORTU n)) ∧
        t.sl.mem = (s.sl.markGrp p.desc false).mem ∧ s.sl.keepsBytes t.sl ∧ s.sl.charged t.sl r 1 ∧
        s.sl.keepsFields t.sl (chargeFlds .grpctl r ++
          [NS_GRPSTAT.STATE n, NS_GRPSTAT.LAST n, NS_GRPSTAT.SHORTU n, NS_GRP_EVT.ABORTED, NS_GRPOPEN.RSTATUS]))

/-- A cluster's RD_S, RD_X or UPG of a line that no cluster holds, with an entry, a tracker and a credit free and the line's home copy in
an H way with all its sectors: the home opens the line's transaction with a busy entry, sends the copy (DATA_S for RD_S, DATA_X otherwise)
and waits for COMP_ACK. The cluster is charged one line and its receive credit is given back; no byte, no tag entry and no other register
field changes. The charge is the model's reading (log 84). -/
def Obligations.ClusterReadSupplied : Prop :=
  ∀ (v s : State) (m : ClMsg) (kind : TxnKind) (c : Instr) (w e : Nat),
    (kind = .rdS ∧ c = .rdS m) ∨ (kind = .rdX ∧ c = .rdX m) ∨ (kind = .upg ∧ c = .upg m) → v.clFor (.req m kind) = s →
    s.sl.calm = true →
    s.sl.clAdmits m = true → s.sl.findEnt m.line = none → s.sl.freeEnt (setOf m.line) = some e →
    s.sl.clBusy (.req m kind) false = none → s.sl.trkFree .read = true → s.sl.lookup Use.H m.line = some w →
    tagSV (s.sl.tag w (setOf m.line)) = 15 → s.sl.canSendLW 3 = true →
    ∃ t, exec c v = .next t ∧ s.logged t ∧ s.sl.cohOnly t.sl ∧ s.sl.clCharged t.sl m 1 ∧
      s.sl.keepsFields t.sl [NS_REG_BUDGET.USED (clusterId m)] ∧
      s.sl.sendsLW t.sl 3 (fun q => q = { lwMsg (if kind = .rdS then .dataS else .dataX) m.cluster.toNat m.line with
        data := s.sl.mem.readLine w (setOf m.line) }) ∧ s.sl.givesBack t.sl 0 ∧
      t.sl.coh = { s.sl.coh with txns :=
        [{ line := m.line, who := .cluster m.cluster.toNat, kind := kind, snoops := [], snooped := 0, dataDue := 0, memDue := false,
           fromOwner := false, granted := true, compDue := true, hadX := false, timedOut := 0, wbp := 0, waitVictim := none,
           born := s.sl.now }] } ∧
      t.sl.mem = { s.sl.mem with dir := t.sl.mem.dir } ∧ s.sl.keepsDir t.sl (setOf m.line) e ∧
      t.sl.mem.ent (setOf m.line) e = { state := 0, owner := 0, lastupd := 63, tag := m.line, busy := true, sharers := 0 }

/-- A well-formed ATOM of a line that no cluster holds, with HMODE always far, runs far: the cluster is granted the line as for RD_X, with
FAR set in the grant, the far count goes up by one, the cluster is charged one line, and the line's counter of the contention predictor
takes its next value. The charge is the model's reading (log 84). -/
def Obligations.FarAtomGranted : Prop :=
  ∀ (v s : State) (m : ClMsg) (a : ClAtom) (w e : Nat), v.clFor (.atom m a) = s → s.sl.calm = true → s.sl.clAdmits m = true →
    atomOk a.op a.offset.toNat a.mask a.fmt.toNat = true → s.sl.fld NS_UU_CTL.HMODE = 2 → s.sl.findEnt m.line = none →
    s.sl.freeEnt (setOf m.line) = some e → s.sl.clBusy (.atom m a) false = none → s.sl.trkFree .read = true →
    s.sl.lookup Use.H m.line = some w → tagSV (s.sl.tag w (setOf m.line)) = 15 → s.sl.canSendLW 3 = true →
    ∃ t, exec (.atom m a) v = .next t ∧ s.logged t ∧ s.sl.cohOnly t.sl ∧ s.sl.clCharged t.sl m 1 ∧
      s.sl.keepsFields t.sl [NS_UU_EVT.FAR, NS_REG_BUDGET.USED (clusterId m)] ∧
      t.sl.fld NS_UU_EVT.FAR = min (2 ^ NS_UU_EVT.FAR.w - 1) (s.sl.fld NS_UU_EVT.FAR + 1) ∧
      s.sl.sendsLW t.sl 3 (fun q => q = { lwMsg .dataX m.cluster.toNat m.line with
        flag := true, data := s.sl.mem.readLine w (setOf m.line) }) ∧ s.sl.givesBack t.sl 0 ∧
      t.sl.coh = { s.sl.coh with txns :=
        [{ line := m.line, who := .cluster m.cluster.toNat, kind := .far, snoops := [], snooped := 0, dataDue := 0, memDue := false,
           fromOwner := false, granted := true, compDue := true, hadX := false, timedOut := 0, wbp := 0, waitVictim := none,
           born := s.sl.now }] } ∧
      t.sl.mem = { s.sl.mem with dir := t.sl.mem.dir, pred := t.sl.mem.pred } ∧ s.sl.keepsDir t.sl (setOf m.line) e ∧
      t.sl.predAt m.line = s.sl.predAt m.line - 1 ∧
      (∀ l, predIx l ≠ predIx m.line → t.sl.predAt l = s.sl.predAt l) ∧
      t.sl.mem.ent (setOf m.line) e = { state := 0, owner := 0, lastupd := 63, tag := m.line, busy := true, sharers := 0 }

/-- COMP_ACK of the cluster that was granted a line ends the transaction, and the entry takes the state of the grant: S with the cluster
among the sharers after a read for a shared copy (X kept where the cluster was the owner), X with the cluster as owner after a read for an
exclusive copy, an upgrade or a far atomic, the last with LASTUPD. -/
def Obligations.CompAckEndsGrant : Prop :=
  ∀ (s : State) (m : ClMsg) (x : Txn) (c e : Nat) (d d' : DirEnt), s.sl.calmBut x → s.sl.lwReady = true → c = m.cluster.toNat →
    x.line = m.line → x.who = .cluster c → x.kind = .rdS ∨ x.kind = .rdX ∨ x.kind = .upg ∨ x.kind = .far → x.granted = true →
    x.compDue = true → x.snoops = [] → x.dataDue = 0 → x.memDue = false → x.waitVictim = none →
    s.sl.findEnt m.line = some (e, d) → s.sl.deadMask = 0 →
    d' = (if x.kind = .rdS then
        (if d.state = Dir.X ∧ d.owner = c then { d with busy := false }
         else { d with state := Dir.S, owner := 0, busy := false, sharers := d.sharers ||| oneCluster c })
      else { d with state := Dir.X, owner := c, busy := false, sharers := oneCluster c,
                    lastupd := if x.kind = .far then c else d.lastupd }) →
    ∃ t, exec (.compAck m) s = .next t ∧ s.loggedOwn t ∧
      t.sl = { s.sl with meas := t.sl.meas, mem := { s.sl.mem with dir := t.sl.mem.dir }, coh := { s.sl.coh with txns := [] },
                         out := { s.sl.out with lwRx := t.sl.out.lwRx } } ∧
      s.sl.givesBack t.sl 2 ∧ t.sl.mem.ent (setOf m.line) e = d' ∧ s.sl.keepsDir t.sl (setOf m.line) e

/-- WB of the line's owner is let go: WB_GO is sent, the entry is busy, the home waits for WB_DATA, and the cluster is charged one line.
Of a cluster that is not the owner, or that has answered a snoop of the line with WBP, it is stale: WB_STALE is sent and nothing is
ordered, also while a transaction of the line waits. EVC of the line's owner frees the entry, and EVC of a cluster that is not the owner
changes none; both are answered EVC_GO. The charge is the model's reading (log 84). -/
def Obligations.WritebackAndEvictionHandled : Prop :=
  (∀ (v s : State) (m : ClMsg), v.clFor (.req m .wb) = s → s.sl.clAdmits m = true → s.sl.canSendLW 2 = true →
     (∀ e d, s.sl.calm = true → s.sl.findEnt m.line = some (e, d) → d.state = Dir.X → d.owner = m.cluster.toNat →
       s.sl.clBusy (.req m .wb) false = none → s.sl.trkFree .write = true →
       ∃ t, exec (.wb m) v = .next t ∧ s.logged t ∧ s.sl.cohOnly t.sl ∧ s.sl.clCharged t.sl m 1 ∧
         s.sl.keepsFields t.sl [NS_REG_BUDGET.USED (clusterId m)] ∧
         s.sl.sendsLW t.sl 2 (fun q => q = lwMsg .wbGo m.cluster.toNat m.line) ∧ s.sl.givesBack t.sl 0 ∧
         t.sl.coh = { s.sl.coh with txns :=
           [{ line := m.line, who := .cluster m.cluster.toNat, kind := .wb, snoops := [], snooped := 0, dataDue := 0, memDue := false,
              fromOwner := false, granted := false, compDue := true, hadX := false, timedOut := 0, wbp := 0, waitVictim := none,
              born := s.sl.now }] } ∧
         t.sl.mem = { s.sl.mem with dir := t.sl.mem.dir } ∧ t.sl.mem.ent (setOf m.line) e = { d with busy := true } ∧
         s.sl.keepsDir t.sl (setOf m.line) e) ∧
     (s.sl.calm = true ∨ (∃ x, s.sl.calmBut x ∧ x.waits = true) → s.sl.notOwner m →
       ∃ t, exec (.wb m) v = .next t ∧ s.logged t ∧ s.sl.cohOnly t.sl ∧ s.sl.keepsFields t.sl [] ∧
         s.sl.sendsLW t.sl 2 (fun q => q = lwMsg .wbStale m.cluster.toNat m.line) ∧ s.sl.givesBack t.sl 0 ∧
         t.sl.coh = s.sl.coh ∧ t.sl.mem = s.sl.mem)) ∧
  (∀ (v s : State) (m : ClMsg), v.clFor (.evc m) = s → s.sl.clAdmits m = true → s.sl.canSendLW 2 = true →
     (∀ e d, s.sl.calm = true → s.sl.findEnt m.line = some (e, d) → d.state = Dir.X → d.owner = m.cluster.toNat →
       s.sl.clBusy (.evc m) false = none →
       ∃ t, exec (.evc m) v = .next t ∧ s.logged t ∧ s.sl.cohOnly t.sl ∧ s.sl.keepsFields t.sl [] ∧
         s.sl.sendsLW t.sl 2 (fun q => q = lwMsg .evcGo m.cluster.toNat m.line) ∧ s.sl.givesBack t.sl 0 ∧
         t.sl.coh = s.sl.coh ∧
         t.sl.mem = { s.sl.mem with dir := t.sl.mem.dir } ∧ t.sl.mem.dirWord (setOf m.line) e 0 = 0 ∧
         t.sl.mem.dirWord (setOf m.line) e 1 = 0 ∧ s.sl.keepsDir t.sl (setOf m.line) e) ∧
     (s.sl.calm = true ∨ (∃ x, s.sl.calmBut x ∧ x.waits = true) → s.sl.notOwner m →
       ∃ t, exec (.evc m) v = .next t ∧ s.logged t ∧ s.sl.cohOnly t.sl ∧ s.sl.keepsFields t.sl [] ∧
         s.sl.sendsLW t.sl 2 (fun q => q = lwMsg .evcGo m.cluster.toNat m.line) ∧ s.sl.givesBack t.sl 0 ∧
         t.sl.coh = s.sl.coh ∧ t.sl.mem = s.sl.mem))

/-- WB_DATA of the cluster whose WB was let go stores the line into its H way, all sectors valid and dirty, ends the transaction and frees
the entry. SNP_DATA of a snooped cluster, sent before its SNP_ACK or after one that announced dirty data, stores the line the same way,
and one line of dirty data less is due, where the transaction then still waits. -/
def Obligations.ClusterDataStored : Prop :=
  ∀ (s : State) (m : ClMsg) (data : LineData) (x : Txn) (w : Nat), s.sl.calmBut x → s.sl.lwReady = true → x.line = m.line →
    x.waitVictim = none → s.sl.lookup Use.H m.line = some w → s.sl.draining w = false →
    (∀ e d, x.who = .cluster m.cluster.toNat → x.kind = .wb → x.compDue = true → x.snoops = [] → x.dataDue = 0 → x.memDue = false →
      s.sl.findEnt m.line = some (e, d) →
      ∃ t, exec (.wbData m data 0) s = .next t ∧ s.loggedOwn t ∧
        t.sl = { s.sl with meas := t.sl.meas, coh := { s.sl.coh with txns := [] }, out := { s.sl.out with lwRx := t.sl.out.lwRx },
                           port := { s.sl.port with grants := t.sl.port.grants },
                           mem := { s.sl.mem with tier := t.sl.mem.tier, tags := t.sl.mem.tags, dir := t.sl.mem.dir } } ∧
        s.sl.givesBack t.sl 3 ∧ s.sl.storesLine t.sl w (setOf m.line) data fullMask ∧ s.sl.keepsTags t.sl w (setOf m.line) ∧
        t.sl.tag w (setOf m.line) = setSD (setSV (s.sl.tag w (setOf m.line)) 15) 15 ∧
        t.sl.mem.dirWord (setOf m.line) e 0 = 0 ∧ t.sl.mem.dirWord (setOf m.line) e 1 = 0 ∧ s.sl.keepsDir t.sl (setOf m.line) e) ∧
    (bitAt x.snooped m.cluster.toNat = true → s.sl.dataToHome x = true → (x.kind = .victim → s.sl.withdrawn m.line = false) →
      x.snoops.any (fun p => p.1 == m.cluster.toNat) = true ∨ 0 < x.dataDue → ({ x with dataDue := x.dataDue - 1 } : Txn).waits = true →
      ∃ t, exec (.snpData m data 0) s = .next t ∧ s.loggedOwn t ∧
        t.sl = { s.sl with meas := t.sl.meas, coh := { s.sl.coh with txns := [{ x with dataDue := x.dataDue - 1 }] },
                           port := { s.sl.port with grants := t.sl.port.grants },
                           out := { s.sl.out with lwRx := t.sl.out.lwRx },
                           mem := { s.sl.mem with tier := t.sl.mem.tier, tags := t.sl.mem.tags } } ∧
        s.sl.givesBack t.sl 3 ∧ s.sl.storesLine t.sl w (setOf m.line) data fullMask ∧ s.sl.keepsTags t.sl w (setOf m.line) ∧
        t.sl.tag w (setOf m.line) = setSD (setSV (s.sl.tag w (setOf m.line)) 15) 15)

/-- SNP_ACK of a cluster whose snoop is unanswered, while another one still is: its snoop is answered; what it says of dirty data, of its
copy and of a pending writeback is kept with the transaction, and nothing else changes. A snoop unanswered for the timeout is reported
once, in NS_DIR_STAT and as interrupt DIR, and the transaction goes on waiting. -/
def Obligations.SnoopAnsweredOrTimedOut : Prop :=
  ∀ (s : State) (m : ClMsg) (x : Txn) (c : Nat), s.sl.calmBut x → c = m.cluster.toNat → x.line = m.line → x.waitVictim = none →
    x.snoops.any (fun p => p.1 == c) = true →
    (∀ (had : Had) (d wbp : Bool), s.sl.lwReady = true → x.snoops.any (fun p => p.1 != c) = true →
      ∃ t, exec (.snpAck m had d wbp) s = .next t ∧ s.loggedOwn t ∧
        t.sl = { s.sl with meas := t.sl.meas, out := { s.sl.out with lwRx := t.sl.out.lwRx }, coh := { s.sl.coh with txns :=
          [{ x with snoops := x.snoops.filter (fun p => p.1 != c),
                    dataDue := x.dataDue + (if d = true ∧ s.sl.dataToHome x = true then 1 else 0),
                    fromOwner := x.fromOwner || (s.sl.ownerSupplies x c && had != .none),
                    hadX := x.hadX || had == .x, wbp := if wbp = true then x.wbp ||| oneCluster c else x.wbp }] } } ∧
        s.sl.givesBack t.sl 2) ∧
    (bitAt x.timedOut c = false → x.snoops.any (fun p => p.1 == c && s.sl.snpTimeout ≤ s.sl.now - p.2) = true →
      ∃ t, exec (.snoopTimeout m) s = .next t ∧ s.loggedOwn t ∧
        t.sl = { s.sl with regs := t.sl.regs, coh := { s.sl.coh with txns := [{ x with timedOut := x.timedOut ||| oneCluster c }] } } ∧
        t.sl.flag NS_DIR_STAT.SNPTO = true ∧ t.sl.fld NS_DIR_STAT.TOCLUSTER = c ∧ t.sl.flag NS_IRQ_STAT.DIR = true ∧
        s.sl.keepsFields t.sl [NS_DIR_STAT.SNPTO, NS_DIR_STAT.TOCLUSTER, NS_IRQ_STAT.DIR])

/-- A read (RD, RDC, RDACQ) of a line that is in no L way, with an invalid way of its set to take: the way is claimed and busy, the whole
line is read on HC under one credit, and the tracker waits for it. No byte and no other tag entry changes, and nothing is answered yet. -/
def Obligations.ReadMissFetches : Prop :=
  ∀ (v s : State) (op : Op) (r : Req) (c : Instr) (w bay : Nat), op = .rd ∨ op = .rdc ∨ op = .rdacq → requestCmd op r = some c →
    s.sl.calm = true → v.admits s op r → s.sl.isHost r.line = false → s.sl.lookup Use.L r.line = none →
    s.sl.hasUse Use.L = true → r.hint ≠ 3 → s.sl.victimWay Use.L (setOf r.line) = some w →
    tagSV (s.sl.tag w (setOf r.line)) = 0 → s.sl.mem.deacf.contains r.line = false → s.sl.chanReady = true →
    s.sl.memTgt r.line = .chan bay →
    ∃ t, exec c v = .next t ∧ s.logged t ∧
      t.sl = { s.sl with regs := t.sl.regs, meas := t.sl.meas, port := t.sl.port, chan := t.sl.chan,
                         mem := { s.sl.mem with tags := t.sl.mem.tags, loan := t.sl.mem.loan, glw := t.sl.mem.glw } } ∧
      s.sl.port.keeps t.sl.port ∧ t.sl.port.beats = s.sl.port.beats ∧ s.sl.holdsTrk t.sl op r .fill ∧
      s.sl.sendsHC t.sl (fun h => h.write = false ∧ h.line = true ∧ h.sectors = 0xF ∧ h.bay = bay ∧ h.otag = 0) ∧
      t.sl.chan = { s.sl.chan with ops := t.sl.chan.ops, nextOp := s.sl.chan.nextOp + 1, sentHC := t.sl.chan.sentHC } ∧
      s.sl.holdsOp t.sl (fun o => o.why = .trk s.sl.port.nextId ∧ o.line = r.line ∧ o.write = false ∧ o.sent = some (.chan bay) ∧
        o.otag = some 0) ∧
      t.sl.fld NS_PORTSTAT.HCCRED + 1 = s.sl.fld NS_PORTSTAT.HCCRED ∧ s.sl.charged t.sl r 1 ∧
      s.sl.keepsFields t.sl (chargeFlds op r ++ [NS_PORTSTAT.HCCRED, NS_REG_SLKEVT.URGENT r.cls.toNat, NS_RET_EVT.KEEPDEM]) ∧
      s.sl.keepsTags t.sl w (setOf r.line) ∧ tagTAG (t.sl.tag w (setOf r.line)) = r.line ∧
      tagSV (t.sl.tag w (setOf r.line)) = 0 ∧ tagSD (t.sl.tag w (setOf r.line)) = 0 ∧ tagBUSY (t.sl.tag w (setOf r.line)) = true ∧
      t.sl.mem.loanAt w (setOf r.line) = 0

/-- The line of a tracker arrives without an error, from the channel (HC read beats) or in the reply to a proxy. For a read that waits
with a busy L way of its own it fills the sectors that were invalid there, all four sectors are valid and the entry is no longer busy, and
the reader is sent the whole line as it then stands. A proxy read is sent the data as it came. The operation is over. -/
def Obligations.MemoryLineServes : Prop :=
  ∀ (s : State) (x : Trk) (o : MemOp) (c : Instr) (data : LineData) (out' : Outs)
    (otag : BitVec 7) (m : RepMsg) (i : Issue), s.sl.calmHolding [x] [o] → x.stage = .fill → x.plain →
    o.why = .trk x.id → o.write = false →
    ((c = .hcReadBeat otag data 0 ∧ o.otag = some otag.toNat ∧ s.sl.flag NS_PORTSTAT.MEMRDY = true ∧ s.sl.sys.sclkRuns = true ∧
        out' = s.sl.out) ∨
      (c = .proxyReply m ∧ out' = s.sl.out.without i.entry ∧ m.data = data ∧ repPlain m ∧ s.sl.awaits m i ∧ i.why = .proxy o.id ∧
        s.sl.miTakes = true)) →
    (∀ w, x.op = .rd ∨ x.op = .rdc ∨ x.op = .rdacq → x.key = .pa x.req.line → x.way = some w → x.miss = true →
      s.sl.isHost x.req.line = false → s.sl.place x.op x.req = .here → w ∈ s.sl.waysOf Use.L →
      (s.sl.lookup Use.L x.req.line = none ∨ s.sl.lookup Use.L x.req.line = some w) →
      tagTAG (s.sl.tag w (setOf x.req.line)) = x.req.line → s.sl.flag NS_ECC_STAT.BKLOSS = false →
      ∃ t, exec c s = .next t ∧ s.loggedOwn t ∧
        t.sl = { s.sl with regs := t.sl.regs, meas := t.sl.meas, port := t.sl.port, chan := { s.sl.chan with ops := [] }, out := out',
                           mem := { s.sl.mem with tier := t.sl.mem.tier, tags := t.sl.mem.tags } } ∧
        s.sl.port.keeps t.sl.port ∧
        s.sl.queuesBeat t.sl (fun b => b.delivers x (mergeLine (s.sl.mem.readLine w (setOf x.req.line)) data
          (sectorsMask (15 - tagSV (s.sl.tag w (setOf x.req.line)))))) ∧
        t.sl.port.trks = [{ x with stage := .done, loss := 0 }] ∧
        s.sl.storesLine t.sl w (setOf x.req.line) data (sectorsMask (15 - tagSV (s.sl.tag w (setOf x.req.line)))) ∧
        s.sl.keepsTags t.sl w (setOf x.req.line) ∧
        t.sl.tag w (setOf x.req.line) = setBUSY (setSV (s.sl.tag w (setOf x.req.line)) 15) false ∧
        s.sl.keepsFields t.sl [NS_REG_SLKEVT.URGENT x.req.cls.toNat]) ∧
    (x.op = .pxrd → x.way = none →
      ∃ t, exec c s = .next t ∧ s.loggedOwn t ∧
        t.sl = { s.sl with meas := t.sl.meas, port := t.sl.port, chan := { s.sl.chan with ops := [] }, out := out' } ∧
        s.sl.port.keeps t.sl.port ∧ s.sl.queuesBeat t.sl (fun b => b.delivers x data) ∧ t.sl.port.trks = [{ x with stage := .done }])

/-- MEM_DATA brings the home copy a cluster's transaction waits for, while no way is set aside for the line: the copy is sent to the
cluster with the grant (DATA_S or DATA_X, FAR for a far atomic), the home waits for COMP_ACK, and the operation is over. -/
def Obligations.HostDataGranted : Prop :=
  ∀ (s : State) (x : Txn) (o : MemOp) (c : Nat) (data : LineData), s.sl.coh.txns = [x] → s.sl.chan.ops = [o] →
    ((s.sl.modCoh fun q => { q with txns := [] }).modChan fun q => { q with ops := [] }).calm = true → x.who = .cluster c →
    x.kind = .rdS ∨ x.kind = .rdX ∨ x.kind = .upg ∨ x.kind = .far → x.snoops = [] → x.dataDue = 0 → x.waitVictim = none →
    x.granted = false → o.why = .txn x.line → o.write = false → o.sent = some (.host o.line) → s.sl.dead c = false →
    s.sl.hasUse Use.H = false → s.sl.flag NS_ECC_STAT.BKLOSS = false → s.sl.flag NS_PORTSTAT.LWRDY = true → s.sl.canSendLW 3 = true →
    ∃ t, exec (.memData o.line data 0) s = .next t ∧ s.loggedOwn t ∧
      t.sl = { s.sl with meas := t.sl.meas, out := t.sl.out, port := { s.sl.port with grants := t.sl.port.grants },
                         chan := { s.sl.chan with ops := [] }, coh := { s.sl.coh with txns :=
                           [{ x with granted := true, memDue := false, compDue := true }] } } ∧
      s.sl.sendsLW t.sl 3 (fun q => q = { lwMsg (if x.kind = .rdS then .dataS else .dataX) c x.line with
        data := data, flag := x.kind == .far }) ∧ s.sl.givesBack t.sl 4

/-- DINV invalidates the line's copy in an O way, but in safe mode (R47), and is confirmed on DD, whether or not there was a copy.
INV_CONFIRM of a die whose confirmation is due clears the die's bit of the line's loan vector and of what is due, and with the last one no
purged save waits for the line any more; a die that has asked for the line again meanwhile is sent one more DINV in its place, and its
confirmation stays due (the model's choice, log 71). The message's receive credit is given back; nothing else changes. -/
def Obligations.LoanInvalidated : Prop :=
  ∀ (s : State) (die : BitVec 3) (l : LineAddr), s.sl.ddTakes = true →
    (∀ w, s.sl.calm = true → s.sl.canSendDD (die.toNat * 3 + 2) = true → s.sl.lookup Use.O l = some w →
      (∀ v ∈ s.sl.waysOf Use.O, v ≠ w → ¬(tagSV (s.sl.tag v (setOf l)) ≠ 0 ∧ tagTAG (s.sl.tag v (setOf l)) = l)) →
      ∃ t, exec (.dinv die l) s = .next t ∧ s.loggedOwn t ∧
        t.sl = { s.sl with meas := t.sl.meas, mem := { s.sl.mem with tags := t.sl.mem.tags }, out := t.sl.out,
                           port := { s.sl.port with grants := t.sl.port.grants } } ∧
        s.sl.sendsDD t.sl (die.toNat * 3 + 2) (.confirm die.toNat l) ∧ t.sl.out.ddRx = s.sl.out.ddBack die.toNat 1 ∧
        s.sl.keepsTags t.sl w (setOf l) ∧
        t.sl.tag w (setOf l) = setSV (s.sl.tag w (setOf l)) 0) ∧
    (s.sl.calm = true → s.sl.canSendDD (die.toNat * 3 + 2) = true → s.sl.lookup Use.O l = none ∨ s.sl.safe = true →
      ∃ t, exec (.dinv die l) s = .next t ∧ s.loggedOwn t ∧
        t.sl = { s.sl with meas := t.sl.meas, out := t.sl.out, port := { s.sl.port with grants := t.sl.port.grants } } ∧
        s.sl.sendsDD t.sl (die.toNat * 3 + 2) (.confirm die.toNat l) ∧ t.sl.out.ddRx = s.sl.out.ddBack die.toNat 1) ∧
    (∀ v w left : BitVec 8, s.sl.port.invs = [(l, v)] → (s.sl.modPort fun p => { p with invs := [] }).calm = true →
      bitAt v die.toNat = true → left = v &&& ~~~((1 : BitVec 8) <<< die.toNat) →
      (∀ w, (s.sl.port.again.any fun q => q.1 == l && bitAt q.2 die.toNat) = false → s.sl.lookup Use.L l = some w →
        (∀ u ∈ s.sl.waysOf Use.L, u ≠ w → ¬(tagSV (s.sl.tag u (setOf l)) ≠ 0 ∧ tagTAG (s.sl.tag u (setOf l)) = l)) →
        ∃ t, exec (.invConfirm die l) s = .next t ∧ s.loggedOwn t ∧
          t.sl = { s.sl with meas := t.sl.meas, out := { s.sl.out with ddRx := s.sl.out.ddBack die.toNat 2 },
                             mem := s.sl.mem.setLoan w (setOf l) (s.sl.mem.loanAt w (setOf l) &&& ~~~((1 : BitVec 8) <<< die.toNat)),
                             bulk := { s.sl.bulk with left :=
                               if left = 0 then s.sl.bulk.left.filter (· != l) else s.sl.bulk.left },
                             port := { s.sl.port with invs := if left = 0 then [] else [(l, left)] } }) ∧
      (s.sl.port.again = [(l, w)] → bitAt w die.toNat = true → s.sl.canSendDD (die.toNat * 3 + 1) = true →
        ∃ t, exec (.invConfirm die l) s = .next t ∧ s.loggedOwn t ∧
          t.sl = { s.sl with meas := t.sl.meas, out := t.sl.out, port := { s.sl.port with
            grants := t.sl.port.grants,
            again := if w &&& ~~~((1 : BitVec 8) <<< die.toNat) = 0 then [] else [(l, w &&& ~~~((1 : BitVec 8) <<< die.toNat))] } } ∧
          s.sl.sendsDD t.sl (die.toNat * 3 + 1) (.inv die.toNat l) ∧ t.sl.out.ddRx = s.sl.out.ddBack die.toNat 2))

/-- The home's ACK on DD of a write that this exit slice forwarded is passed on as the package-level acknowledgement, and the tracker, the
issue entry and the pending write are over. Its data reply to a forwarded read, where no O way takes the line and no write of it is
pending, is sent to the reader as it came. What it answers to a request that is passed through (R431) goes on to the requester as it is; a
write that is passed through is answered with the die-level and the package-level acknowledgement, and is over (log 72). The reply's
receive credit is given back. -/
def Obligations.ForwardAnswered : Prop :=
  ∀ (s : State) (m : RepMsg) (x : Trk) (i : Issue), s.sl.calmHolding [x] [] → s.sl.ddTakes = true → s.sl.awaits m i → repPlain m →
    i.why = .fwd x.id → x.stage = .fwd → x.plain →
    (x.op = .wr ∨ x.op = .wrrel ∨ x.op = .cntwr → passThrough x.op x.req = false →
      ∃ t, exec (.ddReply m) s = .next t ∧ s.loggedOwn t ∧ s.sl.repliedDD t.sl i ∧
        t.sl.port = { s.sl.port with trks := [], beats := t.sl.port.beats, fwdWr := s.sl.port.fwdWr.filter (fun p => p.1 != x.id) } ∧
        s.sl.queuesBeat t.sl (fun b => b.answers x.op x.req x.born Stat.ACK 2 0 0 ∧ b.trk = none)) ∧
    (x.op = .rd ∨ x.op = .rdc ∨ x.op = .rdacq → passThrough x.op x.req = false → s.sl.hasUse Use.O = false → s.sl.port.fwdWr = [] →
      ∃ t, exec (.ddReply m) s = .next t ∧ s.loggedOwn t ∧ s.sl.repliedDD t.sl i ∧
        t.sl.port = { s.sl.port with trks := [{ x with stage := .done }], beats := t.sl.port.beats } ∧
        s.sl.queuesBeat t.sl (fun b => b.delivers x m.data)) ∧
    (passThrough x.op x.req = true → exitWrite x.op = false → m.npart.toNat = m.part.toNat + 1 →
      ∃ t, exec (.ddReply m) s = .next t ∧ s.loggedOwn t ∧ s.sl.repliedDD t.sl i ∧
        t.sl.port = { s.sl.port with trks := [{ x with stage := .done }], beats := t.sl.port.beats,
                                     fwdWr := s.sl.port.fwdWr.filter (fun p => p.1 != x.id) } ∧
        s.sl.queuesBeat t.sl (fun b => b.dests = [reqDest x.op x.req x.born] ∧ b.dd = none ∧ b.status = Stat.ACK ∧
          b.acklvl = m.acklvl.toNat ∧ b.data = m.data ∧ b.pz = 0 ∧ b.part = m.part.toNat ∧ b.npart = m.npart.toNat ∧ b.trk = some x.id)) ∧
    (passThrough x.op x.req = true → exitWrite x.op = true →
      ∃ t, exec (.ddReply m) s = .next t ∧ s.loggedOwn t ∧ s.sl.repliedDD t.sl i ∧
        t.sl.port = { s.sl.port with trks := [], beats := t.sl.port.beats,
                                     fwdWr := s.sl.port.fwdWr.filter (fun p => p.1 != x.id) } ∧
        ∃ b c, t.sl.port.beats = s.sl.port.beats ++ [b, c] ∧ b.answers x.op x.req x.born Stat.ACK 1 0 0 ∧ b.trk = none ∧
          c.answers x.op x.req x.born Stat.ACK 2 0 0 ∧ c.trk = none)

/-- The home's ACK to a released sealed write: the requester is told SEAL_DONE, the release is counted, and the release is over. Its
counter is IDLE where it was RELEASING or a write of 0 to EN was waiting, which disables it; a counter that has come to ERROR meanwhile
stays so. -/
def Obligations.SealReleaseEnds : Prop :=
  ∀ (s : State) (m : RepMsg) (i : Issue) (k : Nat) (h : Hold), s.sl.calm = true → s.sl.miTakes = true → s.sl.awaits m i → repPlain m →
    i.why = .seal k h.n → k < 256 → s.sl.release? k h.n = some h → h.req.via = .mq →
    ∃ t, exec (.sealReleaseReply m) s = .next t ∧ s.loggedOwn t ∧
      t.sl = { s.sl with regs := t.sl.regs, meas := t.sl.meas, out := s.sl.out.without i.entry,
                         port := { s.sl.port with beats := t.sl.port.beats }, holds := (s.sl.dropRelease k h.n).holds } ∧
      s.sl.queuesBeat t.sl (fun b => b.answers .sealwr h.req h.born Stat.SEAL_DONE 0 0 0) ∧
      t.sl.accState k = (if s.sl.accState k = AccSt.RELEASING ∨ h.disable = true then AccSt.IDLE else s.sl.accState k) ∧
      t.sl.flag (NS_ACCN_TARGET.EN k) = (s.sl.flag (NS_ACCN_TARGET.EN k) && !h.disable) ∧
      t.sl.fld NS_ACCN_EVT.RELEASED = min (2 ^ NS_ACCN_EVT.RELEASED.w - 1) (s.sl.fld NS_ACCN_EVT.RELEASED + 1) ∧
      s.sl.keepsFields t.sl [NS_ACCN_TARGET.STATE k, NS_ACCN_TARGET.EN k, NS_ACCN_EVT.RELEASED]

/-- The ACK to a line write of a bulk command ends its line, and PROGRESS follows. The data of a line a COPY read is written whole into
its vitrine line, initialised, and counted as written, but a quarantined line takes none of it (R145). The answer to an increment closes
its entry. The answer to a completion record's write frees the command's slot and, where the descriptor asks for it, raises CPLIRQ and the
bulk interrupt. A tile's acknowledgement of a range invalidation, while the command still awaits another: the tile is no longer awaited
for the page, and the page's entry closes once no tile of it is. A reply on MI or DD whose entry is not open is dropped: it is counted in
NS_RC_STALE.LATE and does nothing else. The model's own are what PROGRESS counts (log 53), that the engine's write to a quarantined line
makes no record (log 56), the entry kept a page (log 59), that a slot is free and the interrupt raised with the record's acknowledgement
(log 60) and which command brings which reply (log 62). -/
def Obligations.IssuedRequestsAnswered : Prop :=
  (∀ (s : State) (m : RepMsg) (i : Issue), s.sl.calm = true → s.sl.miTakes = true → s.sl.awaits m i → repPlain m →
     (∀ c o, i.why = .bulkWr c.id o → s.sl.cmd? c.id = some c → c.lines.erase o ≠ [] →
       ∃ t, exec (.bulkLineReply m) s = .next t ∧ s.loggedOwn t ∧
         t.sl = { s.sl with regs := t.sl.regs, meas := t.sl.meas, out := s.sl.out.without i.entry,
                            bulk := (s.sl.modCmd c.id fun c => { c with lines := c.lines.erase o }).bulk } ∧
         t.sl.progShown ∧ s.sl.keepsFields t.sl [NS_BLK_PROG.PROGRESS]) ∧
     (∀ c o vl, i.why = .bulkRd c.id o → s.sl.cmd? c.id = some c → c.lines.erase o ≠ [] → bOPC c.desc = BOp.COPY →
       vl = (bDST c.desc + o) / 128 → s.sl.vtQuar vl = false →
       ∃ t, exec (.bulkLineReply m) s = .next t ∧ s.loggedOwn t ∧
         t.sl = { s.sl with regs := t.sl.regs, meas := t.sl.meas, out := s.sl.out.without i.entry,
                            port := { s.sl.port with grants := t.sl.port.grants },
                            mem := { s.sl.mem with tier := t.sl.mem.tier, tags := t.sl.mem.tags },
                            bulk := (s.sl.modCmd c.id fun c => { c with lines := c.lines.erase o }).bulk } ∧ t.sl.progShown ∧
         s.sl.storesLine t.sl (vl / 8192) (vl % 8192) m.data fullMask ∧ s.sl.keepsTags t.sl (vl / 8192) (vl % 8192) ∧
         t.sl.tag (vl / 8192) (vl % 8192) = setSV (s.sl.tag (vl / 8192) (vl % 8192)) 15 ∧
         s.sl.countsLine t.sl (NS_REG_WRBYTES.COUNT (bCLASS c.desc)) ∧
         s.sl.keepsFields t.sl [NS_BLK_PROG.PROGRESS, NS_REG_WRBYTES.COUNT (bCLASS c.desc), NS_REG_WRBYTES.OVF (bCLASS c.desc)]) ∧
     (∀ c o, i.why = .bulkRd c.id o → s.sl.cmd? c.id = some c → c.lines.erase o ≠ [] → bOPC c.desc = BOp.COPY →
       s.sl.vtQuar ((bDST c.desc + o) / 128) = true →
       ∃ t, exec (.bulkLineReply m) s = .next t ∧ s.loggedOwn t ∧
         t.sl = { s.sl with regs := t.sl.regs, meas := t.sl.meas, out := s.sl.out.without i.entry,
                            port := { s.sl.port with grants := t.sl.port.grants },
                            bulk := (s.sl.modCmd c.id fun c => { c with lines := c.lines.erase o }).bulk } ∧
         t.sl.progShown ∧ s.sl.keepsFields t.sl [NS_BLK_PROG.PROGRESS]) ∧
     (i.why = .incr →
       ∃ t, exec (.issuedReply m) s = .next t ∧ s.loggedOwn t ∧ t.sl = { s.sl with meas := t.sl.meas, out := s.sl.out.without i.entry }) ∧
     (∀ q, i.why = .record q.id → s.sl.bulk.cpls.find? (fun p => p.id == q.id) = some q → q.group = none →
       (∀ p ∈ s.sl.bulk.cpls, p.id = q.id → p = q) →
       ∃ t, exec (.issuedReply m) s = .next t ∧ s.loggedOwn t ∧
         t.sl = { s.sl with regs := t.sl.regs, meas := t.sl.meas, out := s.sl.out.without i.entry, bulk := { s.sl.bulk with
           cpls := s.sl.bulk.cpls.filter (fun p => p.id != q.id), cmds := s.sl.bulk.cmds.filter (fun c => some c.id != q.cmd) } } ∧
         (q.irq = true → t.sl.flag NS_BLK_STAT.CPLIRQ = true ∧ t.sl.flag NS_IRQ_STAT.BULK = true) ∧
         s.sl.keepsFields t.sl (if q.irq = true then [NS_BLK_STAT.CPLIRQ, NS_IRQ_STAT.BULK] else []))) ∧
  (∀ (s : State) (tile : BitVec 8) (tag : BitVec 12) (i : Issue) (c : Cmd) (page : Nat) (left : List (Nat × BitVec 144)),
     s.sl.calm = true → s.sl.miTakes = true → s.sl.out.answering tag = some i → i.orphan = false → i.why = .tinv c.id page →
     s.sl.cmd? c.id = some c →
     left = c.tiles.map (fun p => if p.1 = page then (p.1, p.2 &&& ~~~((1 : BitVec 144) <<< tile.toNat)) else p) →
     left.any (fun p => p.2 != 0) = true →
     ∃ t, exec (.tileInvAck tile tag) s = .next t ∧ s.loggedOwn t ∧
       t.sl = { s.sl with regs := t.sl.regs, meas := t.sl.meas,
                          bulk := (s.sl.modCmd c.id fun c => { c with tiles := left.filter (fun p => p.2 != 0) }).bulk,
                          out := if left.any (fun p => p.1 == page && p.2 != 0) = true then s.sl.out.acked i
                            else s.sl.out.without i.entry } ∧
       t.sl.progShown ∧ s.sl.keepsFields t.sl [NS_BLK_PROG.PROGRESS]) ∧
  (∀ (s : State) (m : RepMsg) (c : Instr), s.sl.calm = true → s.sl.miTakes = true → s.sl.ddTakes = true →
     c = .ddReply m ∨ c = .forwardReply m ∨ c = .sealReleaseReply m ∨ c = .proxyReply m ∨ c = .bulkLineReply m ∨ c = .issuedReply m →
     s.sl.out.answering m.tag = none →
     ∃ t, exec c s = .next t ∧ s.loggedOwn t ∧ t.sl = { s.sl with regs := t.sl.regs, meas := t.sl.meas } ∧
       t.sl.fld NS_RC_STALE.LATE = min (2 ^ NS_RC_STALE.LATE.w - 1) (s.sl.fld NS_RC_STALE.LATE + 1) ∧
       s.sl.keepsFields t.sl [NS_RC_STALE.LATE])

/-- Every credit returned is counted up to the port's full number: HC 96, MR and MO 32, an LW class 8, a DD class 16. A credit that was
granted and not used within the credit timeout is released and counted in CREDLOST. A cluster's request that must cross the wing bridge
and finds no entry for it is turned back at the LCL port, with a credit, and counted: at once, or when SCLK runs again (log 82). -/
def Obligations.CreditsReturn : Prop :=
  (∀ (s : State) (c : Instr) (f : Fld) (full : Nat) (cls : LwCls) (die : BitVec 3) (dc : DdCls),
     ((c = .hcCreditReturn ∧ f = NS_PORTSTAT.HCCRED ∧ full = 96 ∧ s.sl.flag NS_PORTSTAT.MEMRDY = true) ∨
       (c = .mrCreditReturn ∧ f = NS_PORTSTAT.MRCRED ∧ full = 32 ∧ s.sl.flag NS_PORTSTAT.MESHRDY = true) ∨
       (c = .moCreditReturn ∧ f = NS_PORTSTAT.MOCRED ∧ full = 32 ∧ s.sl.flag NS_PORTSTAT.MESHRDY = true) →
       s.sl.between = true →
       ∃ t, exec c s = .next t ∧ s.loggedOwn t ∧ t.sl = { s.sl with regs := t.sl.regs, meas := t.sl.meas } ∧
         t.sl.fld f = min full (s.sl.fld f + 1) ∧ s.sl.keepsFields t.sl [f]) ∧
     (s.sl.flag NS_PORTSTAT.LWRDY = true → s.sl.between = true →
       ∃ t, exec (.lwCreditReturn cls) s = .next t ∧ s.loggedOwn t ∧
         t.sl = { s.sl with meas := t.sl.meas, out := { s.sl.out with lwCred := addAt s.sl.out.lwCred cls.num 1 8 } }) ∧
     (s.sl.flag NS_PORTSTAT.DDRDY = true → s.sl.between = true →
       ∃ t, exec (.ddCreditReturn die dc) s = .next t ∧ s.loggedOwn t ∧
         t.sl = { s.sl with meas := t.sl.meas, out := { s.sl.out with ddCred := addAt s.sl.out.ddCred (die.toNat * 3 + dc.num) 1 16 } })) ∧
  (∀ (s : State) (reqid : BitVec 8) (k : Credit), s.sl.port.credits = [k] →
     (s.sl.modPort fun p => { p with credits := [] }).calm = true → k.reqid = reqid → k.granted = true →
     s.sl.sys.sclkRuns = true → s.sl.credTimeout ≤ s.sl.now - k.since →
     ∃ t, exec (.creditTimeout reqid) s = .next t ∧ s.loggedOwn t ∧
       t.sl = { s.sl with regs := t.sl.regs, meas := t.sl.meas, port := { s.sl.port with credits := [] } } ∧
       t.sl.fld NS_DIR_EVT.CREDLOST = min (2 ^ NS_DIR_EVT.CREDLOST.w - 1) (s.sl.fld NS_DIR_EVT.CREDLOST + 1) ∧
       s.sl.keepsFields t.sl [NS_DIR_EVT.CREDLOST]) ∧
  (∀ (s : State) (m : ClMsg), s.sl.between = true → s.sl.flag NS_PORTSTAT.LWRDY = true →
     s.sl.sys.sclkRuns = false ∨ s.sl.flag NS_READY.HOSTCOH = true → s.sl.crosses m.cluster.toNat = true → s.sl.bridgeSlot 0 = none →
     s.sl.portCred? m.cluster.toNat = none →
     ∃ t, exec (.rdS m) s = .next t ∧ s.loggedOwn t ∧ t.sl = { s.sl with
       out := { s.sl.out with sentPort := s.sl.out.sentPort ++ [.retry m.cluster.toNat m.line true] },
       regs := t.sl.regs,
       coh := { s.sl.coh with portCr := s.sl.coh.portCr + b2n (!s.sl.sys.sclkRuns), portCred := s.sl.coh.portCred ++
         [{ cluster := m.cluster.toNat, msg := BridgeMsg.num (.req m .rdS), op := .rd, pa := paOfLine m.line, line := m.line, granted := false, slot := .own,
            since := s.sl.now }] } } ∧
       t.sl.fld NS_DIR_EVT.RETRYCR = min (2 ^ NS_DIR_EVT.RETRYCR.w - 1) (s.sl.fld NS_DIR_EVT.RETRYCR + b2n s.sl.sys.sclkRuns) ∧
       s.sl.keepsFields t.sl [NS_DIR_EVT.RETRYCR])

/-- The engine makes the next command active. One that passes the checks of R159 goes on from there, and NS_BLK_PROG shows it. One that
fails a check, with nothing of it outstanding, ends at once: its record with the status of the first check that fails is due, and no
command is active. An urgent command that waits takes the place of an active command that is not urgent: it is active and checked, and the
other one keeps its slot and its place. -/
def Obligations.BulkCommandStarts : Prop :=
  (∀ (s : State) (c : Cmd), s.sl.calm = true → s.sl.bulkRuns = true → s.sl.bulk.active = none → s.sl.bulkNext = some c →
     s.sl.cmd? c.id = some c → c.checked = false → c.stopAt = none →
     (s.sl.bulkCheck c = 0 → s.sl.bulkEmpty c = false →
       ∃ t, exec .bulkCommandStart s = .next t ∧ s.loggedOwn t ∧
         t.sl = { s.sl with regs := t.sl.regs, meas := t.sl.meas, bulk := { s.sl.bulk with
           active := some c.id, shown := some c.id, cmds := (s.sl.modCmd c.id fun q => { q with checked := true }).bulk.cmds } } ∧
         t.sl.showsProg c.desc (s.sl.bulkBytes c) ∧ s.sl.keepsFields t.sl [wholeReg Reg.NS_BLK_PROG]) ∧
     (s.sl.bulkCheck c ≠ 0 → s.sl.bulkOut c = 0 → s.sl.imageInv c = false →
       s.sl.bulk.cpls.any (fun r => r.cmd == some c.id) = false →
       ∃ t, exec .bulkCommandStart s = .next t ∧ s.loggedOwn t ∧
         t.sl = { s.sl with regs := t.sl.regs, meas := t.sl.meas, bulk := { s.sl.bulkEnded c c (s.sl.bulkCheck c) with
           shown := some c.id } } ∧
         t.sl.showsProg c.desc (s.sl.bulkBytes c) ∧ s.sl.keepsFields t.sl [wholeReg Reg.NS_BLK_PROG])) ∧
  (∀ (s : State) (a c : Cmd), s.sl.calm = true → s.sl.bulkRuns = true → s.sl.activeCmd = some a → bURG a.desc = false →
     s.sl.bulkNext = some c → bURG c.desc = true → s.sl.cmd? c.id = some c → c.checked = false → c.stopAt = none →
     s.sl.bulkCheck c = 0 → s.sl.bulkEmpty c = false →
     ∃ t, exec .bulkPreempt s = .next t ∧ s.loggedOwn t ∧
       t.sl = { s.sl with regs := t.sl.regs, meas := t.sl.meas, bulk := { s.sl.bulk with
         active := some c.id, shown := some c.id, cmds := (s.sl.modCmd c.id fun q => { q with checked := true }).bulk.cmds } } ∧
       t.sl.showsProg c.desc (s.sl.bulkBytes c) ∧ s.sl.keepsFields t.sl [wholeReg Reg.NS_BLK_PROG])

/-- The active FILL writes its pattern over the next vitrine line, all sectors initialised, and goes on by 128 bytes; with the last line
it ends, and its record with status DONE is due. The line counts 128 bytes in WRBYTES of the command's class. A quarantined line takes no
write (R145) and counts nothing. That it makes no QUARWR record is the model's choice (log 56). -/
def Obligations.FillWritesLine : Prop :=
  ∀ (s : State) (c : Cmd) (cmd : Instr) (vl : Nat), cmd = .fill ∨ cmd = .bulkLineIssue → bOPC c.desc = BOp.FILL →
    vl = (bDST c.desc + c.progress) / 128 → s.sl.calm = true → s.sl.activeCmd = some c →
    s.sl.bulkRuns = true → c.checked = true → c.status = none → c.stopAt = none → c.progress < s.sl.bulkTotal c.desc →
    s.sl.bulkOut c < 128 → (s.sl.bulkKeys c).any s.sl.lineWaits = false →
    (s.sl.bulkTotal c.desc ≤ c.progress + 128 → s.sl.bulkOut c = 0) →
    s.sl.bulk.cpls.any (fun r => r.cmd == some c.id) = false →
    ∃ t, exec cmd s = .next t ∧ s.loggedOwn t ∧
      t.sl = { s.sl with regs := t.sl.regs, meas := t.sl.meas, bulk := t.sl.bulk,
                         port := { s.sl.port with grants := t.sl.port.grants },
                         mem := { s.sl.mem with tier := t.sl.mem.tier, tags := t.sl.mem.tags } } ∧
      t.sl.bulk = (if c.progress + 128 < s.sl.bulkTotal c.desc then
          (s.sl.modCmd c.id fun q => { q with progress := c.progress + 128 }).bulk
        else s.sl.bulkEnded c { c with progress := c.progress + 128 } BSt.DONE) ∧
      t.sl.progShown ∧
      (s.sl.vtQuar vl = false → s.sl.storesLine t.sl (vl / 8192) (vl % 8192)
          (lineOf (fun b => (c.desc.getD 6 0).extractLsb' (8 * (b % 8)) 8) 128) fullMask ∧
        s.sl.keepsTags t.sl (vl / 8192) (vl % 8192) ∧
        t.sl.tag (vl / 8192) (vl % 8192) = setSV (s.sl.tag (vl / 8192) (vl % 8192)) 15 ∧
        s.sl.countsLine t.sl (NS_REG_WRBYTES.COUNT (bCLASS c.desc))) ∧
      (s.sl.vtQuar vl = true → t.sl.mem = s.sl.mem ∧
        t.sl.fld (NS_REG_WRBYTES.COUNT (bCLASS c.desc)) = s.sl.fld (NS_REG_WRBYTES.COUNT (bCLASS c.desc))) ∧
      s.sl.keepsFields t.sl
        [NS_BLK_PROG.PROGRESS, NS_REG_WRBYTES.COUNT (bCLASS c.desc), NS_REG_WRBYTES.OVF (bCLASS c.desc)]

/-- The active COPY toward the vitrine, or scatter-reduce from memory, sends the read of its next line to the line's home, under an MO
credit, and one line more is outstanding. -/
def Obligations.BulkReadsMemory : Prop :=
  ∀ (s : State) (c : Cmd) (cmd : Instr) (m pa : Nat) (l : LineAddr),
    (cmd = .copy ∧ bOPC c.desc = BOp.COPY ∧ bDIR c.desc = false) ∨
      (cmd = .scatterReduce ∧ bOPC c.desc = BOp.SCATTER ∧ bDIR c.desc = true) ∨
      (cmd = .bulkLineIssue ∧ bOPC c.desc = BOp.COPY ∧ bDIR c.desc = false) →
    bMem c.desc = some m → c.paOf (m + c.progress) = some pa → l = BitVec.ofNat 45 (pa / 128) → s.sl.canIssueLine c = true →
    s.sl.canIssueReq = true →
    ∃ t, exec cmd s = .next t ∧ s.loggedOwn t ∧
      t.sl = { s.sl with regs := t.sl.regs, meas := t.sl.meas, bulk := t.sl.bulk, out := t.sl.out,
                         port := { s.sl.port with grants := t.sl.port.grants } } ∧
      s.sl.goesOn t.sl c (fun q => q.due c.progress) ∧
      s.sl.sendsReq t.sl (fun q => q.op = .rd ∧ q.dd = false ∧ (q.die, q.slice) = s.sl.homeOf l ∧ q.why = .bulkRd c.id c.progress ∧
        q.req.pa = paOfLine l ∧ q.req.hint = BitVec.ofNat 2 (bHINT c.desc) ∧ q.req.cls = BitVec.ofNat 3 (bCLASS c.desc) ∧
        q.req.ctx = c.ctx ∧ q.req.gen = c.gen ∧ q.req.reqid = c.reqid ∧ q.req.priv = c.priv) ∧
      t.sl.fld NS_PORTSTAT.MOCRED + 1 = s.sl.fld NS_PORTSTAT.MOCRED ∧
      s.sl.keepsFields t.sl [NS_BLK_PROG.PROGRESS, NS_PORTSTAT.MOCRED]

/-- The active COPY toward memory sends the next vitrine line, all of it initialised, as a write to the home of its line; the active
scatter-reduce from the vitrine sends it as an arrival (REDN) to the group, slice and die that its handle names, at the handle's line plus
the line's place in its segment. One line more is outstanding, and the line counts in RDBYTES of the command's class, with that of the
handle where there is one. The form REDN (log 54), VSP = 1 and the wrap of the line index (log 111) and bit 31 of the handle ignored (log
130) are the model's. -/
def Obligations.BulkSendsLine : Prop :=
  ∀ (s : State) (c : Cmd) (vl : Nat), vl = (bSRC c.desc + c.progress) / 128 → s.sl.vtQuar vl = false → s.sl.vtInit vl = 15 →
    s.sl.canIssueLine c = true → s.sl.canIssueReq = true →
    (∀ m pa l, bOPC c.desc = BOp.COPY → bDIR c.desc = true → bMem c.desc = some m → c.paOf (m + c.progress) = some pa →
      l = BitVec.ofNat 45 (pa / 128) →
      ∃ t, exec .copy s = .next t ∧ s.loggedOwn t ∧
        t.sl = { s.sl with regs := t.sl.regs, meas := t.sl.meas, bulk := t.sl.bulk, out := t.sl.out,
                           port := { s.sl.port with grants := t.sl.port.grants } } ∧
        s.sl.goesOn t.sl c (fun q => q.due c.progress) ∧
        s.sl.sendsReq t.sl (fun q => q.op = .wr ∧ q.dd = false ∧ (q.die, q.slice) = s.sl.homeOf l ∧ q.why = .bulkWr c.id c.progress ∧
          q.req.pa = paOfLine l ∧ q.req.mask = fullMask ∧ q.req.pois = 0 ∧
          q.req.data = s.sl.mem.readLine (vl / 8192) (vl % 8192) ∧ q.req.ctx = c.ctx ∧ q.req.gen = c.gen ∧ q.req.reqid = c.reqid) ∧
        t.sl.fld NS_PORTSTAT.MOCRED + 1 = s.sl.fld NS_PORTSTAT.MOCRED ∧ s.sl.countsLine t.sl (NS_REG_RDBYTES.COUNT (bCLASS c.desc)) ∧
        s.sl.keepsFields t.sl [NS_BLK_PROG.PROGRESS, NS_PORTSTAT.MOCRED, NS_REG_RDBYTES.COUNT (bCLASS c.desc),
          NS_REG_RDBYTES.OVF (bCLASS c.desc)]) ∧
    (∀ e h, bOPC c.desc = BOp.SCATTER → bDIR c.desc = false → e = (s.sl.handleEntry c.desc (c.progress / bLEN c.desc)).2 →
      h = e / 2 ^ 16 % 2 ^ 15 →
      ∃ t, exec .scatterReduce s = .next t ∧ s.loggedOwn t ∧
        t.sl = { s.sl with regs := t.sl.regs, meas := t.sl.meas, bulk := t.sl.bulk, out := t.sl.out,
                           port := { s.sl.port with grants := t.sl.port.grants } } ∧
        s.sl.goesOn t.sl c (fun q => q.due c.progress) ∧
        s.sl.sendsReq t.sl (fun q => q.op = .redn ∧ q.dd = false ∧ q.die = h / 4096 ∧ q.slice = h / 64 % 64 ∧
          q.why = .bulkRed c.id c.progress ∧
          q.req.group = BitVec.ofNat 6 (h % 64) ∧ q.req.vsp = true ∧ q.req.fmt = BitVec.ofNat 5 (bFMT c.desc) ∧ q.req.aux = 1 ∧
          q.req.pa.toNat % 2 ^ 24 = (e % 2 ^ 16 + c.progress % bLEN c.desc / 128) % 2 ^ 17 * 128 ∧
          q.req.data = s.sl.mem.readLine (vl / 8192) (vl % 8192) ∧ q.req.ctx = c.ctx ∧ q.req.gen = c.gen) ∧
        t.sl.fld NS_PORTSTAT.MOCRED + 1 = s.sl.fld NS_PORTSTAT.MOCRED ∧
        s.sl.countsLine t.sl (NS_REG_RDBYTES.COUNT (bCLASS c.desc)) 2 ∧
        s.sl.keepsFields t.sl [NS_BLK_PROG.PROGRESS, NS_PORTSTAT.MOCRED, NS_REG_RDBYTES.COUNT (bCLASS c.desc),
          NS_REG_RDBYTES.OVF (bCLASS c.desc)])

/-- The active broadcast-invalidate sends the next page to its tiles as one TINV, waits for each of them, and goes on to the end of the
page or of its range. -/
def Obligations.InvalidateSendsPage : Prop :=
  ∀ (s : State) (c : Cmd) (pa : Nat) (m : BitVec 144), bOPC c.desc = BOp.BINV → c.paOf (bSRC c.desc + c.progress) = some pa →
    m = s.sl.bulkTiles c.desc → m ≠ 0 → s.sl.canIssueLine c = true → s.sl.canIssueReq = true →
    ∃ t, exec .binv s = .next t ∧ s.loggedOwn t ∧
      t.sl = { s.sl with regs := t.sl.regs, meas := t.sl.meas, bulk := t.sl.bulk, out := t.sl.out,
                         port := { s.sl.port with grants := t.sl.port.grants } } ∧
      s.sl.goesOn t.sl c (fun q => { q with tiles := q.tiles ++ [((bSRC c.desc + c.progress) / 4096, m)] }) ∧
      s.sl.sendsReq t.sl (fun q => q.op = .tinv ∧ q.why = .tinv c.id ((bSRC c.desc + c.progress) / 4096) ∧
        q.req.pa = BitVec.ofNat 52 (pa / 4096 * 4096) ∧ q.req.mask = m.extractLsb' 0 128 ∧
        q.req.aux.toNat % 2 ^ 16 = (m.extractLsb' 128 16).toNat ∧ q.req.ctx = c.ctx ∧ q.req.gen = c.gen) ∧
      t.sl.fld NS_PORTSTAT.MOCRED + 1 = s.sl.fld NS_PORTSTAT.MOCRED ∧
      s.sl.keepsFields t.sl [NS_BLK_PROG.PROGRESS, NS_PORTSTAT.MOCRED]

/-- The active snapshot save writes the next vitrine line, all of it initialised, as the next line of the image on HC; the active restore
reads the next line of the image, and the read waits under the command. Both while no copy of the image line is resident. The V ways are
those of the step that issues the line (the model's choice, log 52). -/
def Obligations.SnapshotMovesLine : Prop :=
  ∀ (s : State) (c : Cmd) (vl bay : Nat) (l : LineAddr), bOPC c.desc = BOp.SNAPSHOT → vl = s.sl.snapLine (c.progress / 128) →
    l = s.sl.imageLine c.desc (c.progress / 128) → s.sl.canIssueLine c = true → s.sl.lookup Use.L l = none →
    s.sl.chanReady = true → s.sl.memTgt l = .chan bay →
    (bDIR c.desc = false → s.sl.vtQuar vl = false → s.sl.vtInit vl = 15 →
      ∃ t, exec .snapshotSave s = .next t ∧ s.loggedOwn t ∧
        t.sl = { s.sl with regs := t.sl.regs, meas := t.sl.meas, bulk := t.sl.bulk,
                           chan := { s.sl.chan with nextOp := s.sl.chan.nextOp + 1, sentHC := t.sl.chan.sentHC },
                           port := { s.sl.port with grants := t.sl.port.grants } } ∧
        s.sl.goesOn t.sl c id ∧
        s.sl.sendsHC t.sl (fun h => h.write = true ∧ h.line = true ∧ h.sectors = 0xF ∧ h.bay = bay ∧ h.wpois = 0 ∧
          h.data = s.sl.mem.readLine (vl / 8192) (vl % 8192)) ∧
        t.sl.fld NS_PORTSTAT.HCCRED + 1 = s.sl.fld NS_PORTSTAT.HCCRED ∧ s.sl.countsLine t.sl (NS_REG_RDBYTES.COUNT (bCLASS c.desc)) ∧
        s.sl.keepsFields t.sl [NS_BLK_PROG.PROGRESS, NS_PORTSTAT.HCCRED, NS_REG_RDBYTES.COUNT (bCLASS c.desc),
          NS_REG_RDBYTES.OVF (bCLASS c.desc)]) ∧
    (bDIR c.desc = true →
      ∃ t, exec .snapshotRestore s = .next t ∧ s.loggedOwn t ∧
        t.sl = { s.sl with regs := t.sl.regs, meas := t.sl.meas, bulk := t.sl.bulk,
                           chan := { s.sl.chan with ops := t.sl.chan.ops, nextOp := s.sl.chan.nextOp + 1, sentHC := t.sl.chan.sentHC },
                           port := { s.sl.port with grants := t.sl.port.grants } } ∧
        s.sl.goesOn t.sl c id ∧
        s.sl.sendsHC t.sl (fun h => h.write = false ∧ h.line = true ∧ h.sectors = 0xF ∧ h.bay = bay ∧ h.otag = 0) ∧
        s.sl.holdsOp t.sl (fun o => o.why = .restore c.id vl ∧ o.line = l ∧ o.write = false ∧ o.otag = some 0) ∧
        t.sl.fld NS_PORTSTAT.HCCRED + 1 = s.sl.fld NS_PORTSTAT.HCCRED ∧
        s.sl.keepsFields t.sl [NS_BLK_PROG.PROGRESS, NS_PORTSTAT.HCCRED])

/-- A page the active command waits for is mapped, and kept for it. A page the IOMMU faults on above what has been issued stops issue at
its first line; one at the command's own place, with nothing outstanding, ends the command with status FAULT, and its record names the
virtual address. The translation kept for the command (log 107) and the place a faulted command reports (log 52) are the model's. -/
def Obligations.PageMappedOrFaults : Prop :=
  ∀ (s : State) (va pa : BitVec 64) (c : Cmd) (p : Nat), s.sl.calm = true → s.sl.activeCmd = some c →
    s.sl.wantsPage c va.toNat = true → c.stopAt = none → p = va.toNat / 4096 * 4096 - (bMem c.desc).getD 0 →
    (∃ t, exec (.translationDone va pa) s = .next t ∧ s.loggedOwn t ∧
      t.sl = { s.sl with bulk := (s.sl.modCmd c.id fun q => { q with xlate := q.xlate ++ [(va.toNat / 4096, pa.toNat / 4096)] }).bulk }) ∧
    (c.progress < p →
      ∃ t, exec (.iommuFault va) s = .next t ∧ s.loggedOwn t ∧
        t.sl = { s.sl with bulk := (s.sl.modCmd c.id fun q => { q with stopAt := some p, faultVa := va }).bulk }) ∧
    (p ≤ c.progress → s.sl.bulkOut c = 0 → s.sl.imageInv c = false → s.sl.bulk.cpls.any (fun r => r.cmd == some c.id) = false →
      ∃ t, exec (.iommuFault va) s = .next t ∧ s.loggedOwn t ∧
        t.sl = { s.sl with meas := t.sl.meas,
                           bulk := s.sl.bulkEnded c { c with stopAt := some c.progress, faultVa := va } BSt.FAULT })

/-- The next completion record that is due: with its page mapped it is sent as a write of its sector to the home of its line, under an MO
credit; without an address it is dropped; where its page faults it is dropped and noted in NS_BLK_CPLERR. A record that is dropped frees
its command's slot and raises the interrupt its descriptor asks for. -/
def Obligations.CompletionRecordWritten : Prop :=
  ∀ (s : State) (r : Cpl) (cpl : Option (BitVec 52)), s.sl.calm = true → s.sl.sys.sclkRuns = true →
    s.sl.bulk.cpls.find? (fun r => !r.sent && r.waits.all (fun l => s.sl.invDue l == 0)) = some r →
    (∀ q ∈ s.sl.bulk.cpls, q.id = r.id → q = r) →
    (∀ p pa l, cpl = some p → r.cpladdr ≠ 0 → pa = setBits p 0 12 (r.cpladdr.toNat % 4096) → l = pa.extractLsb' 7 45 →
      s.sl.canIssueReq = true →
      ∃ t, exec (.completionRecord cpl) s = .next t ∧ s.loggedOwn t ∧
        t.sl = { s.sl with regs := t.sl.regs, meas := t.sl.meas, out := t.sl.out, port := { s.sl.port with grants := t.sl.port.grants },
                           bulk := { s.sl.bulk with
                             cpls := replaceFirst (fun q => q.id == r.id) (fun q => { q with sent := true }) s.sl.bulk.cpls } } ∧
        s.sl.sendsReq t.sl (fun q => q.op = .wr ∧ q.dd = false ∧ (q.die, q.slice) = s.sl.homeOf l ∧ q.why = .record r.id ∧
          q.req.pa = paOfLine l ∧ q.req.mask = sectorMask (pa.toNat / 32 % 4) ∧ q.req.data = r.line pa ∧ q.req.ctx = r.ctx ∧
          q.req.gen = r.gen) ∧
        t.sl.fld NS_PORTSTAT.MOCRED + 1 = s.sl.fld NS_PORTSTAT.MOCRED ∧ s.sl.keepsFields t.sl [NS_PORTSTAT.MOCRED]) ∧
    (r.cpladdr = 0 ∨ cpl = none →
      ∃ t, exec (.completionRecord cpl) s = .next t ∧ s.loggedOwn t ∧
        t.sl = { s.sl with regs := t.sl.regs, meas := t.sl.meas, bulk := { s.sl.bulk with
          cpls := s.sl.bulk.cpls.filter (fun p => p.id != r.id), cmds := s.sl.bulk.cmds.filter (fun c => some c.id != r.cmd) } } ∧
        (r.irq = true → t.sl.flag NS_BLK_STAT.CPLIRQ = true ∧
          t.sl.flag (if r.group.isSome = true then NS_IRQ_STAT.GROUP else NS_IRQ_STAT.BULK) = true) ∧
        (r.cpladdr ≠ 0 → t.sl.fld NS_BLK_CPLERR.TAG = r.tag % 2 ^ 16 ∧ t.sl.fld NS_BLK_CPLERR.STATUS = r.status % 2 ^ 8 ∧
          t.sl.fld NS_BLK_CPLERR.COUNT = min (2 ^ NS_BLK_CPLERR.COUNT.w - 1) (s.sl.fld NS_BLK_CPLERR.COUNT + 1)) ∧
        s.sl.keepsFields t.sl ((if r.irq = true then
            [NS_BLK_STAT.CPLIRQ, if r.group.isSome = true then NS_IRQ_STAT.GROUP else NS_IRQ_STAT.BULK] else []) ++
          (if r.cpladdr ≠ 0 then [NS_BLK_CPLERR.TAG, NS_BLK_CPLERR.STATUS, NS_BLK_CPLERR.COUNT] else [])))

/-- Initialisation of an OPENING group ends: its OPEN is answered OK and the group is OPEN. A memory-target group's changes no byte. A
vitrine-target group without chunks and preload writes the image of R270 over every line of its accumulators that is not quarantined,
initialises it, and changes no other byte and no other tag entry. The bytes beyond the last element (log 117) and quarantined lines (log
113) are the model's choice. -/
def Obligations.GroupInitialised : Prop :=
  ∀ (s : State) (g : BitVec 6) (n : Nat) (p : Grp) (a : GrpAsker), s.sl.calm = true → n = g.toNat → s.sl.grp? n = some p →
    s.sl.grpState n = GSt.OPENING → p.opener = some a → a.staged = false → a.req.via = .mq →
    (gEXPLICIT p.desc = true ∨ gEXPECT p.desc ≠ 0) → (gMEM p.desc = true ∨ (gCHUNKL p.desc = 0 ∧ gPRELOAD p.desc = false)) →
    ∃ t, exec (.groupInitDone g) s = .next t ∧ s.loggedOwn t ∧
      t.sl = { s.sl with regs := t.sl.regs, meas := t.sl.meas, mem := { s.sl.mem with tier := t.sl.mem.tier, tags := t.sl.mem.tags },
                         port := { s.sl.port with beats := t.sl.port.beats, grants := t.sl.port.grants },
                         grps := (s.sl.modGrp n fun p => { p with opener := none }).grps } ∧
      s.sl.queuesBeat t.sl (fun b => b.answers .grpctl a.req a.born Stat.GRPCTL 0 0 0 ∧ b.detail = GS.OK) ∧
      t.sl.grpState n = GSt.OPEN ∧ t.sl.fld NS_GRPOPEN.RSTATUS = GS.OK ∧
      s.sl.keepsFields t.sl [NS_GRPSTAT.STATE n, NS_GRPOPEN.RSTATUS] ∧
      (gMEM p.desc = true → t.sl.mem = s.sl.mem) ∧
      (gMEM p.desc = false →
        (∀ b, t.sl.mem.byte b = if b / 128 ∈ s.sl.accLines p.desc ∧ s.sl.vtQuar (b / 128) = false then lineByte (initImage p.desc) (b % 128)
          else s.sl.mem.byte b) ∧
        (∀ l, t.sl.tag (l / 8192) (l % 8192) = if l ∈ s.sl.accLines p.desc ∧ s.sl.vtQuar l = false then
          setSV (s.sl.tag (l / 8192) (l % 8192)) 15 else s.sl.tag (l / 8192) (l % 8192)))

/-- The oldest accepted arrival is combined and answered ACK, its tracker is free, and its count enters the group's. One to a line that
its memory-target group holds, below EXPECT, leaves in the line the elements combined with its own (R228 to R232), dirty and counted in
the line's group-line word. One to a vitrine-target group leaves the group, its storage and NS_GRPSTAT as combineVit of the model gives
them. -/
def Obligations.ArrivalCombines : Prop :=
  ∀ (s : State) (x : Trk) (p : Grp) (n : Nat), s.sl.calmHolding [x] [] → x.stage = .combine → x.op = .redc ∨ x.op = .redn →
    n = x.req.group.toNat → s.sl.grp? n = some p → (∀ q ∈ s.sl.grps, q.num = n → q = p) → x.plain → s.sl.blocked x = false →
    (∀ w cnt, x.req.vsp = false → p.lines.contains x.req.line = true → s.sl.lookup Use.L x.req.line = some w →
      reqCauses x.req.pois x.req.pcause = 0 → s.sl.mem.loanAt w (setOf x.req.line) = 0 →
      cnt = (s.sl.mem.glwAt w (setOf x.req.line)).toNat % 65536 → gEXPECT p.desc = 0 ∨ cnt + arrK x.req < gEXPECT p.desc →
      ∃ t, exec .arrivalCombined s = .next t ∧ s.loggedOwn t ∧
        t.sl = { s.sl with regs := t.sl.regs, meas := t.sl.meas, port := t.sl.port, grps := t.sl.grps,
                           mem := { s.sl.mem with tier := t.sl.mem.tier, tags := t.sl.mem.tags, glw := t.sl.mem.glw } } ∧
        s.sl.port.keeps t.sl.port ∧ s.sl.queuesBeat t.sl (fun b => b.answers x.op x.req x.born Stat.ACK 0 0 0) ∧ t.sl.port.trks = [] ∧
        t.sl.grps = (s.sl.modGrp n fun q => { q with arrivals := q.arrivals + arrK x.req, booked := q.booked + arrK x.req }).grps ∧
        s.sl.storesLine t.sl w (setOf x.req.line) (redLine p.desc (s.sl.mem.readLine w (setOf x.req.line)) x.req.data) fullMask ∧
        s.sl.keepsTags t.sl w (setOf x.req.line) ∧
        tagRest (t.sl.tag w (setOf x.req.line)) = setSD (setSV (tagRest (s.sl.tag w (setOf x.req.line))) 15) 15 ∧
        t.sl.mem.glw = (s.sl.mem.setGlw w (setOf x.req.line)
          (setBits (s.sl.mem.glwAt w (setOf x.req.line)) 0 16 (min 0xFFFF (cnt + arrK x.req)))).glw ∧
        s.sl.keepsFields t.sl [NS_GRPSTAT.CNTSAT n, NS_GRPSTAT.FLAGS n, wholeReg Reg.NS_RA_STICKY, NS_RET_EVT.KEEPDEM, NS_RET_EVT.REVIVE,
          NS_REG_SLKEVT.URGENT x.req.cls.toNat]) ∧
    (x.req.vsp = true → p.lines = [] →
      ∃ t, exec .arrivalCombined s = .next t ∧ s.loggedOwn t ∧
        t.sl = { s.sl with regs := t.sl.regs, meas := t.sl.meas, port := t.sl.port, grps := (s.sl.combineVit p x.req).grps,
                           mem := (s.sl.combineVit p x.req).mem } ∧
        s.sl.port.keeps t.sl.port ∧ s.sl.queuesBeat t.sl (fun b => b.answers x.op x.req x.born Stat.ACK 0 0 0) ∧ t.sl.port.trks = [] ∧
        t.sl.rd (Reg.NS_GRPSTAT n) = (s.sl.combineVit p x.req).rd (Reg.NS_GRPSTAT n) ∧
        s.sl.keepsFields t.sl [wholeReg (Reg.NS_GRPSTAT n), wholeReg Reg.NS_RA_STICKY, NS_REG_SLKEVT.URGENT x.req.cls.toNat])

/-- The epilogue of a CLOSING group for which nothing waits begins and writes its output: a vitrine-target group with one output line
writes that line, as the accumulators and the epilogue's steps give it; a memory-target group that holds no line writes nothing. The units
short of EXPECT are what NS_GRPSTAT shows when it begins. The epilogue ends: the marks on the group's lines are cleared, and a group that
does not forward is FREE, with status 0 or, closed by CLOSE with units short of EXPECT, 1 in LAST, and its record is due. The answer to a
forward arrival is counted, a rejection as such. When SHORTU is taken (log 97) and its value with EXPECT = 0 (log 118) are the model's. -/
def Obligations.GroupCompletes : Prop :=
  ∀ (s : State) (g : BitVec 6) (n : Nat) (p : Grp), s.sl.calm = true → n = g.toNat → s.sl.grp? n = some p →
    (∀ line out, s.sl.grpState n = GSt.CLOSING → p.epiDone = false → gMEM p.desc = false → gCHUNKL p.desc = 0 → gOutLines p.desc = 1 →
      gOUTFMT p.desc < 16 → line = gTEXT p.desc / 128 → out = s.sl.epiLine p 0 → out.pz = 0 → s.sl.vtQuar line = false →
      ∃ t, exec (.epilogueStart g) s = .next t ∧ s.loggedOwn t ∧
        t.sl = { s.sl with regs := t.sl.regs, meas := t.sl.meas, mem := { s.sl.mem with tier := t.sl.mem.tier, tags := t.sl.mem.tags },
                           port := { s.sl.port with grants := t.sl.port.grants },
                           grps := (s.sl.modGrp n fun q => { q with epiDone := true, shortU := s.sl.fld (NS_GRPSTAT.SHORTU n) }).grps } ∧
        s.sl.storesLine t.sl (line / 8192) (line % 8192) out.data fullMask ∧ s.sl.keepsTags t.sl (line / 8192) (line % 8192) ∧
        t.sl.tag (line / 8192) (line % 8192) = setSV (s.sl.tag (line / 8192) (line % 8192)) 15 ∧
        s.sl.keepsFields t.sl [NS_GRPSTAT.FLAGS n, wholeReg Reg.NS_RA_STICKY]) ∧
    (s.sl.grpState n = GSt.CLOSING → p.epiDone = false → gMEM p.desc = true → p.lines = [] →
      ∃ t, exec (.epilogueStart g) s = .next t ∧ s.loggedOwn t ∧
        t.sl = { s.sl with grps :=
          (s.sl.modGrp n fun q => { q with epiDone := true, shortU := s.sl.fld (NS_GRPSTAT.SHORTU n) }).grps }) ∧
    (∀ st, s.sl.grpState n = GSt.CLOSING → p.epiDone = true → gFWD p.desc = false →
      st = (if p.byClose = true ∧ p.shortU ≠ 0 ∧ gEXPECT p.desc ≠ 0 then 1 else 0) →
      ∃ t, exec (.epilogueDone g) s = .next t ∧ s.loggedOwn t ∧
        t.sl = { s.sl with regs := t.sl.regs, meas := t.sl.meas, mem := (s.sl.markGrp p.desc false).mem,
                           grps := s.sl.grps.filter (fun q => q.num != n),
                           bulk := { s.sl.bulk with cpls := s.sl.bulk.cpls ++ [s.sl.grpRecord p st], nextCpl := s.sl.bulk.nextCpl + 1 } } ∧
        t.sl.grpState n = GSt.FREE ∧ t.sl.fld (NS_GRPSTAT.LAST n) = st ∧ s.sl.keepsBytes t.sl ∧
        s.sl.keepsFields t.sl [NS_GRPSTAT.STATE n, NS_GRPSTAT.LAST n]) ∧
    (∀ (m : RepMsg) (i : Issue), s.sl.grpState n = GSt.FORWARDING → s.sl.miTakes = true → s.sl.awaits m i → i.why = .arrival n →
      p.fwdSent = gOutLines p.desc → p.fwdDone + 1 < gOutLines p.desc →
      ∃ t, exec (.forwardReply m) s = .next t ∧ s.loggedOwn t ∧
        t.sl = { s.sl with regs := t.sl.regs, meas := t.sl.meas, out := s.sl.out.without i.entry,
                           grps := (s.sl.modGrp n fun q => { q with
                             fwdDone := q.fwdDone + 1, fwdRej := q.fwdRej + b2n (m.status.toNat != Stat.ACK) }).grps } ∧
        t.sl.fld NS_GRP_EVT.FWDREJ = min (2 ^ NS_GRP_EVT.FWDREJ.w - 1) (s.sl.fld NS_GRP_EVT.FWDREJ + b2n (m.status.toNat != Stat.ACK)) ∧
        s.sl.keepsFields t.sl [NS_GRP_EVT.FWDREJ])

/-- A register write that reaches a register without further rules changes each field as its access code says and nothing else of the
slice; a write to locked fields leaves them and is recorded LOCKED. A write that a register's rules refuse changes nothing and is
recorded. A misaligned write is answered 1 and recorded ACCESS, one of too low a privilege 2 and PRIV, one to an offset without a register
is answered and changes nothing. Every write to the alias page is ignored and recorded, ACCESS if misaligned and ALIASWR otherwise. A
write ends its cycle, by the register values that held in it (the model's choice, log 16). -/
def Obligations.RegisterWriteStores : Prop :=
  ∀ (v s : State) (off : BitVec 16) (a : CtAcc) (o : Nat), v.ctFor = s → o = off.toNat → s.sl.ctTakes = true → s.sl.between = true →
    (∀ fs, s.sl.ctAdmits o true a = true → regFields o = some fs → plainReg o = true →
      ∃ t, exec (.registerWrite off false a) v = .next (t.cycleBy s.sl.regs) ∧ s.ctLogged o a t ∧ s.sl.ctRegs t.sl 0 a 0 ∧
        (∀ f ∈ fs, ∀ i, f.lo ≤ i → i < f.lo + f.w → bitAt (t.sl.rd o) i =
          f.bitAfter (s.sl.flag (lockOf o)) (o != Reg.NS_ID && o != Reg.NS_PL_HBMBASE) a i (bitAt (s.view o) i) (bitAt (s.sl.rd o) i)) ∧
        (s.sl.lockedTouch o a fs = false → s.sl.keepsFields t.sl [wholeReg o]) ∧
        (s.sl.lockedTouch o a fs = true →
          s.sl.entersErr t.sl (ctEvent ErrCode.LOCKED o a) ∧ s.sl.keepsFields t.sl (wholeReg o :: errFlds))) ∧
    (∀ code, s.sl.ctAdmits o true a = true → (regFields o).isSome = true → s.judged o a = .ignored code →
      ∃ t, exec (.registerWrite off false a) v = .next (t.cycleBy s.sl.regs) ∧ s.logged t ∧ s.sl.ctRegs t.sl 0 a 0 ∧
        s.sl.entersErr t.sl (ctEvent code o a) ∧ s.sl.keepsFields t.sl errFlds) ∧
    (s.sl.ctAdmits o true a = true → regFields o = none →
      ∃ t, exec (.registerWrite off false a) v = .next (t.cycleBy s.sl.regs) ∧ s.logged t ∧ s.sl.ctRegs t.sl 0 a 0 ∧ s.sl.keepsFields t.sl []) ∧
    (∀ page, o % 8 ≠ 0 →
      ∃ t, exec (.registerWrite off page a) v = .next (if page then t else t.cycleBy s.sl.regs) ∧ s.logged t ∧ s.sl.ctRegs t.sl 1 a 0 ∧
        s.sl.entersErr t.sl (ctEvent ErrCode.ACCESS o a) ∧ s.sl.keepsFields t.sl errFlds) ∧
    (o % 8 = 0 → a.priv.toNat < s.sl.needPriv o true a →
      ∃ t, exec (.registerWrite off false a) v = .next (t.cycleBy s.sl.regs) ∧ s.logged t ∧ s.sl.ctRegs t.sl 2 a 0 ∧
        s.sl.entersErr t.sl (ctEvent ErrCode.PRIV o a) ∧ s.sl.keepsFields t.sl errFlds) ∧
    (o % 8 = 0 →
      ∃ t, exec (.registerWrite off true a) v = .next t ∧ s.logged t ∧ s.sl.ctRegs t.sl 0 a 0 ∧
        s.sl.entersErr t.sl (ctEvent ErrCode.ALIASWR o a) ∧ s.sl.keepsFields t.sl errFlds)

/-- A register read that reaches its register returns the word it shows, in the half asked for, and clears whole the RC fields it touches;
nothing else of the slice changes. A register that shows no other state returns its own word. The alias page returns the register it
stands for, to a user only with UREAD and, for a counter, its selector and its snapshot, the counter's bit of UPMC, and else answers 2 and
records PRIV; to any other privilege always. A read of an offset without a register returns 0; one misaligned is answered 1 and recorded
ACCESS, one of too low a privilege 2 and PRIV. -/
def Obligations.RegisterReadAnswers : Prop :=
  ∀ (v s : State) (off : BitVec 16) (a : CtAcc) (o : Nat), v.ctFor = s → o = off.toNat → s.sl.ctTakes = true → s.sl.between = true →
    (o % 8 = 0 → (s.sl.userReads (aliasOf o) = true ↔ s.sl.flag NS_CNT_PRIV.UREAD = true ∧ ∀ i < 8,
      aliasOf o = some (Reg.NS_CNT_PMC i) ∨ aliasOf o = some (Reg.NS_CNT_SEL i) ∨ aliasOf o = some (Reg.NS_CNT_SNAP_PMC i) →
      (s.sl.fld NS_CNT_PRIV.UPMC).testBit i = true)) ∧
    (∀ (page : Bool) (r : Nat) (fs : List FieldRow),
      (page = false ∧ s.sl.ctAdmits o false a = true ∧ r = o) ∨
        (page = true ∧ o % 8 = 0 ∧ aliasOf o = some r ∧ (a.priv.toNat ≠ Priv.user ∨ s.sl.userReads (some r) = true)) →
      regFields r = some fs →
      ∃ t, exec (.registerRead off page a) v = .next t ∧
        ({ s with prov := { s.prov with lost := if r = Reg.NS_PV_LOST ∧ readClears fs (ctMask a) ≠ 0 then 0 else s.prov.lost } } :
          State).logged t ∧
        s.sl.ctRegs t.sl 0 a (ctData a (s.view r)) ∧ (shownReg r = false → s.view r = s.sl.rd r) ∧
        (∀ f ∈ fs, ∀ i, f.lo ≤ i → i < f.lo + f.w → bitAt (t.sl.rd r) i =
          if f.acc = .rc ∧ f.bits &&& ctMask a ≠ 0 then false else bitAt (s.sl.rd r) i) ∧
        s.sl.keepsFields t.sl [wholeReg r]) ∧
    (∀ page, (page = false ∧ s.sl.ctAdmits o false a = true ∧ regFields o = none) ∨
        (page = true ∧ o % 8 = 0 ∧ (aliasOf o).bind regFields = none ∧ (a.priv.toNat ≠ Priv.user ∨ s.sl.userReads (aliasOf o) = true)) →
      ∃ t, exec (.registerRead off page a) v = .next t ∧ s.logged t ∧ s.sl.ctRegs t.sl 0 a 0 ∧ s.sl.keepsFields t.sl []) ∧
    (∀ page, o % 8 ≠ 0 →
      ∃ t, exec (.registerRead off page a) v = .next t ∧ s.logged t ∧ s.sl.ctRegs t.sl 1 a 0 ∧
        s.sl.entersErr t.sl (ctEvent ErrCode.ACCESS o a) ∧ s.sl.keepsFields t.sl errFlds) ∧
    (∀ page, o % 8 = 0 → (page = false ∧ a.priv.toNat < s.sl.needPriv o false a) ∨
        (page = true ∧ a.priv.toNat = Priv.user ∧ s.sl.userReads (aliasOf o) = false) →
      ∃ t, exec (.registerRead off page a) v = .next t ∧ s.logged t ∧ s.sl.ctRegs t.sl 2 a 0 ∧
        s.sl.entersErr t.sl (ctEvent ErrCode.PRIV o a) ∧ s.sl.keepsFields t.sl errFlds)

/-- Register writes that start upkeep. PAUSE stores its bit; a change of BUSY in NS_DIST_CTL advances SEQ; ABORT ends the one bulk command
with ABORTED, at once when nothing of it is outstanding, else once that is over; PREDCLR empties the predictor. GO of NS_WAYCHG gives
STATUS, and with 0 begins to drain every way whose code changes. QSET of a place in a V or X way, or of an empty one, sets QUAR and QCLR
lifts it; a refused one gives only STATUS. RAWRD reads a word with its check bits and RAWWR writes it. A write of NS_IRQ_SET sets
interrupts, and GO of NS_DG_SEL starts a diagnostic read. -/
def Obligations.UpkeepWritesAct : Prop :=
  ∀ (v s : State) (a : CtAcc), v.ctFor = s →
    (s.ctTakesWrite Reg.NS_BLK_CTL a = true → s.sl.ctSets a NS_BLK_CTL.ABORT = false →
      ∃ t, exec (.blkCtlPause a) v = .next (t.cycleBy s.sl.regs) ∧ s.ctLogged Reg.NS_BLK_CTL a t ∧
        t.sl = { s.sl.answered a with regs := t.sl.regs } ∧
        bitAt (t.sl.rd Reg.NS_BLK_CTL) 1 = (if bitAt (ctMask a) 1 then bitAt (ctWord a) 1 else bitAt (s.sl.rd Reg.NS_BLK_CTL) 1) ∧
        s.holdsWrite Reg.NS_BLK_CTL a t ∧ s.sl.keepsFields t.sl [wholeReg Reg.NS_BLK_CTL]) ∧
    (∀ c, s.ctDoes a NS_BLK_CTL.ABORT = true → s.sl.calm = true → s.sl.bulk.cmds = [c] → c.status = none → s.sl.imageInv c = false →
      s.sl.bulk.active = some c.id → s.sl.bulk.cpls = [] →
      ∃ t, exec (.blkCtlAbort a) v = .next (t.cycleBy s.sl.regs) ∧ s.ctLogged Reg.NS_BLK_CTL a t ∧
        t.sl = { s.sl with regs := t.sl.regs, meas := t.sl.meas, out := s.sl.out.ctReply a, bulk := t.sl.bulk } ∧
        t.sl.bulk = (if s.sl.bulkOut c = 0 then s.sl.bulkEnded c c BSt.ABORTED
          else { s.sl.bulk with cmds := [{ c with status := some BSt.ABORTED }] }) ∧
        s.holdsWrite Reg.NS_BLK_CTL a t ∧ s.sl.keepsFields t.sl [wholeReg Reg.NS_BLK_CTL]) ∧
    (s.ctTakesWrite Reg.NS_DIST_CTL a = true →
      ∃ t, exec (.distCtlWrite a) v = .next (t.cycleBy s.sl.regs) ∧ s.ctLogged Reg.NS_DIST_CTL a t ∧
        t.sl = { s.sl.answered a with regs := t.sl.regs } ∧
        t.sl.flag NS_DIST_CTL.BUSY = (if bitAt (ctMask a) 32 then bitAt (ctWord a) 32 else s.sl.flag NS_DIST_CTL.BUSY) ∧
        t.sl.fld NS_DIST_CTL.SEQ =
          (s.sl.fld NS_DIST_CTL.SEQ + b2n (t.sl.flag NS_DIST_CTL.BUSY != s.sl.flag NS_DIST_CTL.BUSY)) % 2 ^ NS_DIST_CTL.SEQ.w ∧
        s.sl.keepsFields t.sl [wholeReg Reg.NS_DIST_CTL]) ∧
    (s.ctDoes a NS_UU_CTL.PREDCLR = true →
      ∃ t, exec (.predclr a) v = .next (t.cycleBy s.sl.regs) ∧ s.ctLogged Reg.NS_UU_CTL a t ∧
        t.sl = { s.sl.answered a with regs := t.sl.regs, mem := { s.sl.mem with pred := [] } } ∧
        s.holdsWrite Reg.NS_UU_CTL a t ∧ s.sl.keepsFields t.sl [wholeReg Reg.NS_UU_CTL]) ∧
    (∀ w, s.ctDoes a NS_WAYCHG.GO = true → s.sl.flag NS_WAYCHG.BUSY = false → w < 16 →
      ∃ t, exec (.waychgGo a) v = .next (t.cycleBy s.sl.regs) ∧ s.ctLogged Reg.NS_WAYCHG a t ∧ t.sl.fld NS_WAYCHG.STATUS = s.sl.wayCheck ∧
        t.sl.flag NS_WAYCHG.BUSY = (s.sl.wayCheck == 0) ∧
        (s.sl.wayCheck = 0 → bitAt (t.sl.rd Reg.NS_WAYCHG) (16 + w) =
          (getBits (s.sl.rd Reg.NS_WAYMAP_NEXT) (4 * w) 4 != getBits (s.sl.rd Reg.NS_WAYMAP) (4 * w) 4)) ∧
        (s.sl.wayCheck = 0 → t.sl = { s.sl.answered a with regs := t.sl.regs, walk := { s.sl.walk with
          drain := ((List.range 16).find? fun v => bitAt (t.sl.rd Reg.NS_WAYCHG) (16 + v)).map fun v => (v, 0) } }) ∧
        (s.sl.wayCheck ≠ 0 → t.sl = { s.sl.answered a with regs := t.sl.regs }) ∧
        s.sl.keepsFields t.sl [wholeReg Reg.NS_WAYCHG]) ∧
    (∀ way set : Nat, s.ctDoes a NS_ECC_QUAR.QSET = true → s.sl.ctSets a NS_ECC_QUAR.QCLR = false → s.sl.calm = true →
      way = (s.stored Reg.NS_ECC_QUAR a).fld NS_ECC_QUAR.WAY → set = (s.stored Reg.NS_ECC_QUAR a).fld NS_ECC_QUAR.SET →
      s.sl.wayCode way = Use.V ∨ s.sl.wayCode way = Use.X ∨ (tagSV (s.sl.tag way set) = 0 ∧ tagBUSY (s.sl.tag way set) = false) →
      ∃ t, exec (.qset a) v = .next (t.cycleBy s.sl.regs) ∧ s.ctLogged Reg.NS_ECC_QUAR a t ∧
        t.sl = { s.sl.answered a with regs := t.sl.regs, mem := { s.sl.mem with tags := t.sl.mem.tags } } ∧
        t.sl.fld NS_ECC_QUAR.STATUS = s.sl.quarCheck true way set ∧ t.sl.flag NS_ECC_QUAR.DONE = true ∧
        t.sl.tag way set = setQUAR (s.sl.tag way set) (tagQUAR (s.sl.tag way set) || s.sl.quarCheck true way set == 0) ∧
        s.sl.keepsTags t.sl way set ∧ s.sl.keepsFields t.sl [wholeReg Reg.NS_ECC_QUAR]) ∧
    (∀ way set : Nat, s.ctDoes a NS_ECC_QUAR.QCLR = true → s.sl.ctSets a NS_ECC_QUAR.QSET = false → s.sl.calm = true →
      way = (s.stored Reg.NS_ECC_QUAR a).fld NS_ECC_QUAR.WAY → set = (s.stored Reg.NS_ECC_QUAR a).fld NS_ECC_QUAR.SET →
      ∃ t, exec (.qclr a) v = .next (t.cycleBy s.sl.regs) ∧ s.ctLogged Reg.NS_ECC_QUAR a t ∧
        t.sl = { s.sl.answered a with regs := t.sl.regs, mem := { s.sl.mem with tags := t.sl.mem.tags } } ∧
        t.sl.fld NS_ECC_QUAR.STATUS = s.sl.quarCheck false way set ∧ t.sl.flag NS_ECC_QUAR.DONE = true ∧
        t.sl.tag way set = (if s.sl.quarCheck false way set ≠ 0 ∨ tagQUAR (s.sl.tag way set) = false then s.sl.tag way set
          else if s.sl.wayCode way = Use.X then setQUAR (s.sl.tag way set) false
          else if s.sl.wayCode way = Use.V then setSV (setQUAR (s.sl.tag way set) false) 0 else 0) ∧
        s.sl.keepsTags t.sl way set ∧ s.sl.keepsFields t.sl [wholeReg Reg.NS_ECC_QUAR]) ∧
    (∀ (u : Slice) (way set word : Nat), s.ctDoes a NS_ECC_CBCTL.RAWRD = true → s.sl.ctSets a NS_ECC_CBCTL.RAWWR = false →
      s.sl.calm = true → u = s.stored Reg.NS_ECC_CBCTL a → way = u.fld NS_ECC_CBCTL.WAY → set = u.fld NS_ECC_CBCTL.SET →
      word = u.fld NS_ECC_CBCTL.WORD →
      ∃ t, exec (.rawrd a) v = .next (t.cycleBy s.sl.regs) ∧ s.ctLogged Reg.NS_ECC_CBCTL a t ∧
        t.sl = { s.sl.answered a with regs := t.sl.regs, port := { s.sl.port with nextId := s.sl.port.nextId + 1 } } ∧
        t.sl.flag NS_ECC_CBCTL.DONE = true ∧
        (u.fld NS_ECC_CBCTL.TARGET = 0 → t.sl.fld NS_ECC_CBDATA.DATA = (s.sl.mem.word (wordIx way set word)).toNat ∧
          t.sl.fld NS_ECC_CBCHK.CHECK = (chkData (s.sl.mem.word (wordIx way set word))).toNat) ∧
        (u.fld NS_ECC_CBCTL.TARGET = 1 → t.sl.rd Reg.NS_ECC_CBDATA = s.sl.tagWord way set ∧
          t.sl.fld NS_ECC_CBCHK.CHECK = (chkBk (s.sl.tagWord way set)).toNat) ∧
        (u.fld NS_ECC_CBCTL.TARGET = 2 → t.sl.rd Reg.NS_ECC_CBDATA = s.sl.mem.dirWord set (way % 8) (word % 2) ∧
          t.sl.fld NS_ECC_CBCHK.CHECK = (chkBk (s.sl.mem.dirWord set (way % 8) (word % 2))).toNat) ∧
        s.sl.keepsFields t.sl [wholeReg Reg.NS_ECC_CBCTL, NS_ECC_CBDATA.DATA, NS_ECC_CBCHK.CHECK]) ∧
    (∀ (u : Slice) (way set word : Nat) (d : Word), s.ctDoes a NS_ECC_CBCTL.RAWWR = true → s.sl.ctSets a NS_ECC_CBCTL.RAWRD = false →
      s.sl.calm = true → u = s.stored Reg.NS_ECC_CBCTL a → way = u.fld NS_ECC_CBCTL.WAY → set = u.fld NS_ECC_CBCTL.SET →
      word = u.fld NS_ECC_CBCTL.WORD → d = s.sl.rd Reg.NS_ECC_CBDATA →
      ∃ t, exec (.rawwr a) v = .next (t.cycleBy s.sl.regs) ∧ s.ctLogged Reg.NS_ECC_CBCTL a t ∧ t.sl.flag NS_ECC_CBCTL.DONE = true ∧
        t.sl = { s.sl.answered a with regs := t.sl.regs, mem := t.sl.mem, port := { s.sl.port with nextId := s.sl.port.nextId + 1 } } ∧
        (u.fld NS_ECC_CBCTL.TARGET = 0 → t.sl.mem = (s.sl.mem.setWord (wordIx way set word) (d.extractLsb' 0 32)).setChk
          (wordIx way set word) (BitVec.ofNat 7 (s.sl.fld NS_ECC_CBCHK.CHECK) ^^^ chkData (d.extractLsb' 0 32))) ∧
        (u.fld NS_ECC_CBCTL.TARGET = 1 → t.sl.mem = { s.sl.mem with tags := t.sl.mem.tags, bkchk := t.sl.mem.bkchk } ∧
          t.sl.tagWord way set = d ∧ s.sl.keepsTags t.sl way set ∧
          t.sl.mem.bkchk = (s.sl.mem.setBk 0 (wsIx way set) (BitVec.ofNat 8 (s.sl.fld NS_ECC_CBCHK.CHECK) ^^^ chkBk d)).bkchk) ∧
        (u.fld NS_ECC_CBCTL.TARGET = 2 → t.sl.mem = { s.sl.mem with dir := t.sl.mem.dir, bkchk := t.sl.mem.bkchk } ∧
          t.sl.mem.dirWord set (way % 8) (word % 2) = d ∧ s.sl.keepsDir t.sl set (way % 8) ∧ t.sl.mem.bkchk =
            (s.sl.mem.setBk 3 (dirIx set (way % 8) (word % 2)) (BitVec.ofNat 8 (s.sl.fld NS_ECC_CBCHK.CHECK) ^^^ chkBk d)).bkchk) ∧
        s.sl.keepsFields t.sl [wholeReg Reg.NS_ECC_CBCTL]) ∧
    (s.ctTakesWrite Reg.NS_IRQ_SET a = true →
      ∃ t, exec (.irqSet a) v = .next (t.cycleBy s.sl.regs) ∧ s.ctLogged Reg.NS_IRQ_SET a t ∧
        t.sl = { s.sl.answered a with regs := t.sl.regs } ∧
        t.sl.rd Reg.NS_IRQ_STAT = s.sl.rd Reg.NS_IRQ_STAT ||| s.written Reg.NS_IRQ_SET a ∧
        s.sl.keepsFields t.sl [wholeReg Reg.NS_IRQ_STAT, wholeReg Reg.NS_IRQ_SET]) ∧
    (s.ctDoes a NS_DG_SEL.GO = true →
      ∃ t, exec (.diagGo a) v = .next (t.cycleBy s.sl.regs) ∧ s.ctLogged Reg.NS_DG_SEL a t ∧
        t.sl = { s.sl.answered a with regs := t.sl.regs, walk := { s.sl.walk with diag := some s.sl.port.nextId },
                                      port := { s.sl.port with nextId := s.sl.port.nextId + 1 } } ∧
        t.sl.flag NS_DG_SEL.BUSY = true ∧ t.sl.fld NS_DG_SEL.TARGET = (s.stored Reg.NS_DG_SEL a).fld NS_DG_SEL.TARGET ∧
        s.sl.keepsFields t.sl [wholeReg Reg.NS_DG_SEL])

/-- Writes of a vitrine region, a format window, the map-out list, NS_DIR_DEADMASK, an accession counter, a budget, NS_PV_CTL and
NS_PV_SPILL. What the register's rules accept is stored; what they refuse (R133, R135, R324, R325, R572, R410, R468) changes nothing and
is recorded. COUNT of the map-out list leaves 32 - COUNT visible channels. A DEADMASK bit written 1 reads 0. EN of a counter written 0
ends its hold, whose sender is told SEAL_ERR: a HOLDING or ERROR counter is IDLE, and for a RELEASING one the disable waits for the
release. A master over its new budget counts so. POP removes the oldest held entry. NS_PV_SPILL resets both pointers. -/
def Obligations.RuledWritesJudged : Prop :=
  ∀ (v s : State) (a : CtAcc), v.ctFor = s →
    (∀ (c : Instr) (o : Nat), (∃ n, c = .vtRegionWrite n a ∧ o = Reg.NS_VT_REGION n.toNat) ∨
        (∃ n, c = .fpWinWrite n false a ∧ o = Reg.NS_FP_WINA n.toNat) ∨ (∃ n, c = .fpWinWrite n true a ∧ o = Reg.NS_FP_WINB n.toNat) ∨
        (c = .maplistWrite a ∧ o = Reg.NS_CH_MAPLIST) ∨ (c = .deadmaskWrite a ∧ o = Reg.NS_DIR_DEADMASK) ∨
        (∃ k, c = .accnTargetWrite k a ∧ o = Reg.NS_ACCN_TARGET k.toNat) →
      s.sl.ctAdmits o true a = true → s.judged o a = .ignored ErrCode.REGVAL →
      ∃ t, exec c v = .next (t.cycleBy s.sl.regs) ∧ s.logged t ∧ t.sl = { s.sl.answered a with regs := t.sl.regs } ∧
        s.sl.entersErr t.sl (ctEvent ErrCode.REGVAL o a) ∧ s.sl.keepsFields t.sl errFlds) ∧
    (∀ (n : BitVec 6) (o : Nat), o = Reg.NS_VT_REGION n.toNat → s.sl.ctAdmits o true a = true →
      s.judged o a = (if s.sl.regionBusy n.toNat = true ∨
        (fldOf (s.written o a) (NS_VT_REGION.EN n.toNat) = 1 ∧ s.sl.regionBad n.toNat (s.written o a) = true)
          then .ignored ErrCode.REGVAL else .ok) ∧
      (s.judged o a = .ok → ∃ t, exec (.vtRegionWrite n a) v = .next (t.cycleBy s.sl.regs) ∧ s.ctLogged o a t ∧
        t.sl = { s.sl.answered a with regs := t.sl.regs } ∧ s.holdsWrite o a t ∧
        s.sl.keepsFields t.sl [wholeReg o])) ∧
    (∀ (n : BitVec 4) (b : Bool) (o : Nat), o = (if b then Reg.NS_FP_WINB n.toNat else Reg.NS_FP_WINA n.toNat) →
      s.ctTakesWrite o a = true →
      ∃ t, exec (.fpWinWrite n b a) v = .next (t.cycleBy s.sl.regs) ∧ s.ctLogged o a t ∧
        t.sl = { s.sl.answered a with regs := t.sl.regs } ∧ s.holdsWrite o a t ∧ s.sl.keepsFields t.sl [wholeReg o]) ∧
    (s.ctTakesWrite Reg.NS_CH_MAPLIST a = true →
      ∃ t, exec (.maplistWrite a) v = .next (t.cycleBy s.sl.regs) ∧ s.ctLogged Reg.NS_CH_MAPLIST a t ∧
        t.sl = { s.sl.answered a with regs := t.sl.regs } ∧ s.holdsWrite Reg.NS_CH_MAPLIST a t ∧
        t.sl.fld NS_PL_STACKLIM.VISCH = 32 - t.sl.fld NS_CH_MAPLIST.COUNT ∧
        s.sl.keepsFields t.sl [wholeReg Reg.NS_CH_MAPLIST, NS_PL_STACKLIM.VISCH]) ∧
    (∀ c, s.ctTakesWrite Reg.NS_DIR_DEADMASK a = true → c < 32 →
      ∃ t, exec (.deadmaskWrite a) v = .next (t.cycleBy s.sl.regs) ∧ s.ctLogged Reg.NS_DIR_DEADMASK a t ∧
        t.sl = { s.sl.answered a with regs := t.sl.regs } ∧
        bitAt (t.sl.rd Reg.NS_DIR_DEADMASK) c = (bitAt (s.sl.rd Reg.NS_DIR_DEADMASK) c && !(bitAt (ctMask a) c && bitAt (ctWord a) c)) ∧
        s.sl.keepsFields t.sl [NS_DIR_DEADMASK.DEAD]) ∧
    (∀ (k : BitVec 8) (o : Nat), o = Reg.NS_ACCN_TARGET k.toNat → s.ctTakesWrite o a = true →
      (s.sl.fld (NS_ACCN_TARGET.EN k.toNat) = 0 ∨ fldOf (s.written o a) (NS_ACCN_TARGET.EN k.toNat) = 1 ∧
          (bitAt (ctMask a) 63 = false ∨ bitAt (ctWord a) 63 = true) →
        ∃ t, exec (.accnTargetWrite k a) v = .next (t.cycleBy s.sl.regs) ∧ s.ctLogged o a t ∧
          t.sl = { s.sl.answered a with regs := t.sl.regs } ∧ s.holdsWrite o a t ∧ s.sl.keepsFields t.sl [wholeReg o]) ∧
      (∀ n, n = ((s.sl.holds.filter fun h => h.k == k.toNat && h.issued).map (·.n)).foldl max 0 →
        s.sl.fld (NS_ACCN_TARGET.EN k.toNat) = 1 → bitAt (ctMask a) 63 = true → bitAt (ctWord a) 63 = false →
        (∀ h, s.sl.hold? k.toNat = some h → s.sl.accState k.toNat ≠ AccSt.RELEASING → h.req.via = .mq →
          ∃ t, exec (.accnTargetWrite k a) v = .next (t.cycleBy s.sl.regs) ∧ s.ctLogged o a t ∧
            t.sl = { s.sl.answered a with regs := t.sl.regs, holds := (s.sl.dropHold k.toNat).holds,
                                          port := { s.sl.port with beats := t.sl.port.beats } } ∧
            s.sl.queuesBeat t.sl (fun b => b.answers .sealwr h.req h.born Stat.SEAL_ERR 0 0 0) ∧
            t.sl.fld (NS_ACCN_TARGET.EN k.toNat) = 0 ∧
            t.sl.accState k.toNat = (if s.sl.accState k.toNat = AccSt.HOLDING ∨ s.sl.accState k.toNat = AccSt.ERROR then AccSt.IDLE
              else s.sl.accState k.toNat) ∧ s.sl.keepsFields t.sl [wholeReg o]) ∧
        (s.sl.hold? k.toNat = none ∨ s.sl.accState k.toNat = AccSt.RELEASING →
        ∃ t, exec (.accnTargetWrite k a) v = .next (t.cycleBy s.sl.regs) ∧ s.ctLogged o a t ∧
          t.sl = { s.sl.answered a with regs := t.sl.regs, holds := t.sl.holds } ∧
          (s.sl.accState k.toNat ≠ AccSt.RELEASING → t.sl.fld (NS_ACCN_TARGET.EN k.toNat) = 0 ∧ t.sl.holds = s.sl.holds ∧
            t.sl.accState k.toNat = (if s.sl.accState k.toNat = AccSt.HOLDING ∨ s.sl.accState k.toNat = AccSt.ERROR then AccSt.IDLE
              else s.sl.accState k.toNat)) ∧
          (s.sl.accState k.toNat = AccSt.RELEASING → t.sl.fld (NS_ACCN_TARGET.EN k.toNat) = 1 ∧
            t.sl.accState k.toNat = AccSt.RELEASING ∧
            t.sl.holds = replaceFirst (fun h => h.k == k.toNat && h.n == n && h.issued) (fun h => { h with disable := true }) s.sl.holds) ∧
          s.sl.keepsFields t.sl [wholeReg o]))) ∧
    (∀ (m : BitVec 8) (o : Nat), o = Reg.NS_REG_BUDGET m.toNat → s.ctTakesWrite o a = true →
      ∃ t, exec (.budgetWrite m a) v = .next (t.cycleBy s.sl.regs) ∧ s.ctLogged o a t ∧ s.holdsWrite o a t ∧
        t.sl = { s.sl.answered a with regs := t.sl.regs, meas := { (s.sl.answered a).meas with overBud := t.sl.meas.overBud } } ∧
        t.sl.meas.overBud = (if t.sl.overBudget m.toNat then s.sl.meas.overBud ||| ((1 : BitVec 256) <<< m.toNat)
          else s.sl.meas.overBud) ∧
        s.sl.keepsFields t.sl [wholeReg o]) ∧
    (s.ctDoes a NS_PV_CTL.POP = true → loggedWrite Reg.NS_PV_CTL (s.view Reg.NS_PV_CTL) (s.written Reg.NS_PV_CTL a) = false →
      ∃ t, exec (.pop a) v = .next (t.cycleBy s.sl.regs) ∧
        ({ s with prov := { s.prov with held := s.prov.held.tail } } : State).logged t ∧
      t.sl = { s.sl.answered a with regs := t.sl.regs } ∧
        s.holdsWrite Reg.NS_PV_CTL a t ∧ s.sl.keepsFields t.sl [NS_PV_CTL.POP]) ∧
    (s.ctTakesWrite Reg.NS_PV_SPILL a = true →
      ∃ t, exec (.pvSpillWrite a) v = .next (t.cycleBy s.sl.regs) ∧ s.ctLogged Reg.NS_PV_SPILL a t ∧
        t.sl = { s.sl.answered a with regs := t.sl.regs } ∧ s.holdsWrite Reg.NS_PV_SPILL a t ∧
        t.sl.rd Reg.NS_PV_SPILLWP = 0 ∧ t.sl.rd Reg.NS_PV_SPILLRP = 0 ∧
        s.sl.keepsFields t.sl [wholeReg Reg.NS_PV_SPILL, wholeReg Reg.NS_PV_SPILLWP, wholeReg Reg.NS_PV_SPILLRP])

/-- Register writes that start service work. GO of NS_DIR_RECLAIM declares a cluster dead and starts the reclaim of its entries; GO of
NS_RC_CREDREL takes the requester's credit back; GO of NS_FWIF compares the interface numbers and sets RESULT, COMMON, the disabled
features and the readiness; IDLEREQ requests idle, which IDLE then shows; GO of NS_RC_BLK starts a block reset at the next quiet moment;
GO of NS_RC_WB starts the write-back of dirty lines; PREP of a list that does not hold this slice's own channel begins to poison the
reserve lines, and SAVE of the lost and listed channel begins to save lines, each BUSY with STATUS 0. -/
def Obligations.ServiceWritesAct : Prop :=
  ∀ (v s : State) (a : CtAcc), v.ctFor = s →
    (∀ c, s.ctDoes a NS_DIR_RECLAIM.GO = true → s.sl.calm = true → c = (s.stored Reg.NS_DIR_RECLAIM a).fld NS_DIR_RECLAIM.CLUSTER →
      ∃ t, exec (.dirReclaimGo a) v = .next (t.cycleBy s.sl.regs) ∧ s.ctLogged Reg.NS_DIR_RECLAIM a t ∧
        t.sl = { s.sl.answered a with regs := t.sl.regs, coh := { s.sl.coh with
          reclaim := some c, reclCleared := 0, reclPoisoned := 0, portCred := s.sl.coh.portCred.filter (fun d => d.cluster != c) } } ∧
        t.sl.dead c = true ∧ t.sl.flag NS_DIR_STAT.RECLBUSY = true ∧ s.holdsWrite Reg.NS_DIR_RECLAIM a t ∧
        s.sl.keepsFields t.sl [wholeReg Reg.NS_DIR_RECLAIM, ⟨Reg.NS_DIR_DEADMASK, c, 1⟩, NS_DIR_STAT.RECLBUSY]) ∧
    (∀ x, s.ctDoes a NS_RC_CREDREL.GO = true → s.sl.port.credits = [x] → (s.sl.modPort fun p => { p with credits := [] }).calm = true →
      x.reqid.toNat = (s.stored Reg.NS_RC_CREDREL a).fld NS_RC_CREDREL.REQID →
      ∃ t, exec (.credrel a) v = .next (t.cycleBy s.sl.regs) ∧ s.ctLogged Reg.NS_RC_CREDREL a t ∧
        t.sl = { s.sl.answered a with regs := t.sl.regs, port := { s.sl.port with credits := [] },
                                      meas := { (s.sl.answered a).meas with credBook := s.sl.meas.credBook - 1 } } ∧
        s.holdsWrite Reg.NS_RC_CREDREL a t ∧ s.sl.keepsFields t.sl [wholeReg Reg.NS_RC_CREDREL]) ∧
    (∀ (u : Slice) (fw img : Nat), s.ctDoes a NS_FWIF.GO = true → u = s.stored Reg.NS_FWIF a → fw = u.fld NS_FWIF.FWMIN →
      img = u.fld NS_FWIF.IMGMIN →
      ∃ t, exec (.fwifGo a) v = .next (t.cycleBy s.sl.regs) ∧ s.ctLogged Reg.NS_FWIF a t ∧
        t.sl = { s.sl.answered a with regs := t.sl.regs } ∧
        (u.fld NS_FWIF.FWMAJ ≠ u.fld NS_FWIF.IMGMAJ → t.sl.fld NS_FWIF.RESULT = 3 ∧ t.sl.fld NS_FWIF.COMMON = 0 ∧
          t.sl.fld NS_FWIF_FEAT.DISABLED = s.sl.fld NS_FWIF_FEAT.PRESENT ∧ t.sl.safe = true) ∧
        (u.fld NS_FWIF.FWMAJ = u.fld NS_FWIF.IMGMAJ → t.sl.fld NS_FWIF.RESULT = (if fw = img then 1 else 2) ∧
          t.sl.fld NS_FWIF.COMMON = min fw img ∧
          t.sl.fld NS_FWIF_FEAT.DISABLED = (if min fw img = 0 then 0x1F else if min fw img = 1 then 0x18 else 0) ∧
          t.sl.safe = s.sl.safe) ∧
        t.sl.flag NS_READY.CACHE = s.sl.flag NS_PORTSTAT.MESHRDY ∧ t.sl.flag NS_READY.UPDATE = s.sl.flag NS_PORTSTAT.MESHRDY ∧
        t.sl.flag NS_READY.VITRINE = (s.sl.flag NS_PORTSTAT.MESHRDY && t.sl.fld NS_FWIF.RESULT != 3) ∧
        t.sl.flag NS_READY.REDUCE = (s.sl.flag NS_PORTSTAT.MESHRDY && t.sl.fld NS_FWIF.RESULT != 3) ∧
        t.sl.flag NS_READY.HOSTCOH = (s.sl.flag NS_PORTSTAT.LWRDY && t.sl.fld NS_FWIF.RESULT != 3) ∧
        s.sl.keepsFields t.sl [wholeReg Reg.NS_FWIF, NS_FWIF_FEAT.DISABLED, NS_READY.SAFE, NS_READY.CACHE, NS_READY.UPDATE,
          NS_READY.VITRINE, NS_READY.REDUCE, NS_READY.HOSTCOH]) ∧
    (s.ctTakesWrite Reg.NS_RC_BLK a = true → s.sl.ctSets a NS_RC_BLK.GO = false →
      ∃ t, exec (.idlereq a) v = .next (t.cycleBy s.sl.regs) ∧ s.ctLogged Reg.NS_RC_BLK a t ∧
        t.sl = { s.sl.answered a with regs := t.sl.regs } ∧
        t.sl.flag NS_RC_BLK.IDLEREQ = (if bitAt (ctMask a) 1 then bitAt (ctWord a) 1 else s.sl.flag NS_RC_BLK.IDLEREQ) ∧
        bitAt (t.view Reg.NS_RC_BLK) 2 = (t.sl.flag NS_RC_BLK.IDLEREQ && t.sl.quiescent) ∧
        s.sl.keepsFields t.sl [wholeReg Reg.NS_RC_BLK]) ∧
    (s.ctDoes a NS_RC_BLK.GO = true →
      ∃ t, exec (.blockResetGo a) v = .next (t.cycleBy s.sl.regs) ∧ s.ctLogged Reg.NS_RC_BLK a t ∧
        t.sl = { s.sl.answered a with regs := t.sl.regs, sys := { s.sl.sys with blockSince := some s.sl.now } } ∧
        t.sl.flag NS_RC_BLK.BUSY = true ∧ t.sl.flag NS_RC_BLK.IDLEREQ = true ∧ s.sl.keepsFields t.sl [wholeReg Reg.NS_RC_BLK]) ∧
    (s.ctDoes a NS_RC_WB.GO = true →
      ∃ t, exec (.rcWbGo a) v = .next (t.cycleBy s.sl.regs) ∧ s.ctLogged Reg.NS_RC_WB a t ∧
        t.sl = { s.sl.answered a with regs := t.sl.regs, walk := { s.sl.walk with wb := some false } } ∧
        t.sl.flag NS_RC_WB.BUSY = true ∧ t.sl.fld NS_RC_WB.LINES = 0 ∧ s.sl.keepsFields t.sl [wholeReg Reg.NS_RC_WB]) ∧
    (∀ (l : LineAddr) (bay : Nat), s.ctDoes a NS_CH_MAPCTL.PREP = true → s.sl.ctSets a NS_CH_MAPCTL.SAVE = false → s.sl.calm = true →
      s.sl.flag NS_CH_MAPCTL.BUSY = false → s.sl.chanListed = false → s.sl.mapList ≠ [] → s.sl.holdsWithdrawn = false →
      s.sl.chanReady = true → s.sl.fld NS_PORTSTAT.HCCRED = 1 → l = s.sl.bayLine s.sl.ownStack (31 * 2 ^ 19) s.sl.ownChan →
      s.sl.memTgt l = .chan bay →
      ∃ t, exec (.prep a) v = .next (t.cycleBy s.sl.regs) ∧ s.ctLogged Reg.NS_CH_MAPCTL a t ∧
        t.sl = { s.sl.answered a with regs := t.sl.regs, chan := t.sl.chan, walk := { s.sl.walk with prep := some 1 },
                                      port := { s.sl.port with grants := t.sl.port.grants }, meas := t.sl.meas } ∧
        s.sl.sendsHC t.sl (fun h => h.write = true ∧ h.line = true ∧ h.bay = bay ∧ h.data = 0 ∧ h.wpois = allCause Cause.MAPOUT) ∧
        t.sl.flag NS_CH_MAPCTL.BUSY = true ∧ t.sl.fld NS_CH_MAPCTL.STATUS = 0 ∧ t.sl.fld NS_CH_MAPCTL.PROGRESS = 1 ∧
        t.sl.fld NS_PORTSTAT.HCCRED = 0 ∧ s.sl.keepsFields t.sl [wholeReg Reg.NS_CH_MAPCTL, NS_PORTSTAT.HCCRED]) ∧
    (s.ctDoes a NS_CH_MAPCTL.SAVE = true → s.sl.ctSets a NS_CH_MAPCTL.PREP = false → s.sl.calm = true →
      s.sl.flag NS_CH_MAPCTL.BUSY = false → s.sl.cstate = CState.LOST → s.sl.chanListed = true →
      (∀ p ∈ s.sl.mem.tags, s.sl.wayCode (p.1 / 8192) ≠ Use.L ∨ tagSV p.2 = 0) →
      ∃ t, exec (.save a) v = .next (t.cycleBy s.sl.regs) ∧ s.ctLogged Reg.NS_CH_MAPCTL a t ∧
        t.sl = { s.sl.answered a with regs := t.sl.regs, walk := { s.sl.walk with save := true },
                                      chan := { s.sl.chan with rtCycles := 0, rtRaised := false } } ∧
        t.sl.cstate = CState.MAPPING ∧ t.sl.flag NS_READY.CHANNEL = false ∧ t.sl.flag NS_CH_MAPCTL.BUSY = true ∧
        t.sl.fld NS_CH_MAPCTL.STATUS = 0 ∧
        t.sl.fld NS_CH_MAPCTL.PROGRESS = 0 ∧ s.sl.keepsFields t.sl [wholeReg Reg.NS_CH_MAPCTL, NS_CH_STAT.CSTATE, NS_READY.CHANNEL])

/-- The ends and steps of the slice's walks. In safe mode the way drain and its end stand (R47). The way drain clears an entry of a V, X
or O way, or one without a valid sector, or a clean one of an L way, and goes to its next place; with every draining way empty the new map
is taken. Reclaim with no directory entry left to reap, write-back, PREP and SAVE end with their DONE. A scrub visit advances SCRUBPOS and
counts a skipped line. The oldest provenance entry is spilled into the ring, or spilling ends. A diagnostic read fills its windows; the
books of NS_BALANCE become valid. -/
def Obligations.WalksGoOn : Prop :=
  ∀ (s : State), s.sl.sys.sclkRuns = true → (s.sl.modWalk fun q => { q with prep := none, diag := none }).calm = true →
    (s.sl.walk.prep = none → s.sl.walk.diag = none → s.sl.safe = true →
      ∃ t u, exec .drainWalkStep s = .next t ∧ exec .waychgDone s = .next u ∧ s.loggedOwn t ∧ s.loggedOwn u ∧ t.sl = s.sl ∧ u.sl = s.sl) ∧
    (∀ w n : Nat, s.sl.walk.prep = none → s.sl.walk.diag = none → s.sl.safe = false → s.sl.walk.drain = some (w, n) → s.sl.flag NS_RC_BLK.IDLEREQ = false → w < 16 →
      n < 8192 →
      s.sl.wayCode w = Use.V ∨ s.sl.wayCode w = Use.X ∨ (tagBUSY (s.sl.tag w n) = false ∧ (s.sl.wayCode w = Use.O ∨
        (tagGRP (s.sl.tag w n) = false ∧ (tagSV (s.sl.tag w n) = 0 ∨
          s.sl.wayCode w = Use.L ∧ tagSD (s.sl.tag w n) = 0 ∧ s.sl.mem.loanAt w n = 0)))) →
      ∃ t, exec .drainWalkStep s = .next t ∧ s.loggedOwn t ∧
        t.sl = { s.sl with mem := { s.sl.mem with tags := t.sl.mem.tags, loan := t.sl.mem.loan, glw := t.sl.mem.glw },
                           walk := { s.sl.walk with drain := s.sl.drainNext w n } } ∧
        tagSV (t.sl.tag w n) = 0 ∧ tagGRP (t.sl.tag w n) = false ∧ tagQUAR (t.sl.tag w n) = tagQUAR (s.sl.tag w n) ∧
        s.sl.keepsTags t.sl w n) ∧
    (s.sl.walk.prep = none → s.sl.walk.diag = none → s.sl.safe = false → s.sl.flag NS_WAYCHG.BUSY = true → s.sl.drained? = true →
      ∃ t, exec .waychgDone s = .next t ∧ s.loggedOwn t ∧
        t.sl = { s.sl with regs := t.sl.regs, walk := { s.sl.walk with drain := none } } ∧
        t.sl.rd Reg.NS_WAYMAP = s.sl.rd Reg.NS_WAYMAP_NEXT ∧ t.sl.flag NS_WAYCHG.BUSY = false ∧ t.sl.fld NS_WAYCHG.DRAIN = 0 ∧
        t.sl.flag NS_WAYCHG.DONE = true ∧ t.sl.flag NS_IRQ_STAT.WAYCHG = true ∧
        (∀ w < 16, (t.sl.fld NS_VT_CTL.VMASK).testBit w = (s.sl.fld ⟨Reg.NS_WAYMAP_NEXT, 4 * w, 4⟩ == Use.V)) ∧
        s.sl.keepsFields t.sl [wholeReg Reg.NS_WAYMAP, NS_VT_CTL.VMASK, NS_WAYCHG.BUSY, NS_WAYCHG.DRAIN, NS_WAYCHG.DONE,
          NS_IRQ_STAT.WAYCHG]) ∧
    (∀ c, s.sl.walk.prep = none → s.sl.walk.diag = none → s.sl.coh.reclaim = some c → s.sl.flag NS_DIR_STAT.RECLBUSY = true →
      s.sl.flag NS_RC_BLK.IDLEREQ = false → s.sl.mem.dir = [] →
      ∃ t, exec .reclaimDone s = .next t ∧ s.loggedOwn t ∧
        t.sl = { s.sl with regs := t.sl.regs, coh := { s.sl.coh with reclaim := none } } ∧
        t.sl.flag NS_DIR_STAT.RECLBUSY = false ∧ t.sl.flag NS_DIR_STAT.RECLDONE = true ∧ t.sl.fld NS_DIR_RECLOG.CLUSTER = c % 32 ∧
        t.sl.fld NS_DIR_RECLOG.CLEARED = min 0xFFFFFF s.sl.coh.reclCleared ∧
        t.sl.fld NS_DIR_RECLOG.POISONED = min 0xFFFFFF s.sl.coh.reclPoisoned ∧
        t.sl.fld NS_ERR_CNT.LASTCODE = ErrCode.RECLAIM ∧ t.sl.flag NS_IRQ_STAT.ERROR = true ∧
        s.sl.keepsFields t.sl (NS_DIR_STAT.RECLBUSY :: NS_DIR_STAT.RECLDONE :: wholeReg Reg.NS_DIR_RECLOG :: errFlds)) ∧
    (s.sl.walk.prep = none → s.sl.walk.diag = none → s.sl.walk.wb = some true →
      ∃ t, exec .rcWbDone s = .next t ∧ s.loggedOwn t ∧ t.sl = { s.sl with regs := t.sl.regs, walk := { s.sl.walk with wb := none } } ∧
        t.sl.flag NS_RC_WB.BUSY = false ∧ t.sl.flag NS_RC_WB.DONE = true ∧
        s.sl.keepsFields t.sl [NS_RC_WB.BUSY, NS_RC_WB.DONE]) ∧
    (∀ k, s.sl.walk.diag = none → s.sl.walk.prep = some k → s.sl.prepTotal ≤ k → s.sl.holdsWithdrawn = false →
      ∃ t, exec .prepDone s = .next t ∧ s.loggedOwn t ∧ t.sl = { s.sl with regs := t.sl.regs, walk := { s.sl.walk with prep := none } } ∧
        t.sl.flag NS_CH_MAPCTL.BUSY = false ∧ t.sl.flag NS_CH_MAPCTL.DONE = true ∧
        s.sl.keepsFields t.sl [NS_CH_MAPCTL.BUSY, NS_CH_MAPCTL.DONE]) ∧
    (s.sl.walk.prep = none → s.sl.walk.diag = none → s.sl.walk.save = true → s.sl.holdsWithdrawn = false → s.sl.cstate = CState.MAPPING →
      ∃ t, exec .saveDone s = .next t ∧ s.loggedOwn t ∧
        t.sl = { s.sl with regs := t.sl.regs, walk := { s.sl.walk with save := false },
                           chan := { s.sl.chan with rtCycles := 0, rtRaised := false, resumed := s.sl.chan.nextOp } } ∧
        t.sl.flag NS_CH_MAPCTL.BUSY = false ∧ t.sl.flag NS_CH_MAPCTL.DONE = true ∧ t.sl.cstate = CState.MAPPED ∧
        t.sl.flag NS_READY.CHANNEL = true ∧
        s.sl.keepsFields t.sl [NS_CH_MAPCTL.BUSY, NS_CH_MAPCTL.DONE, NS_CH_STAT.CSTATE, NS_READY.CHANNEL]) ∧
    (∀ pos, s.sl.walk.prep = none → s.sl.walk.diag = none → s.sl.fld NS_ECC_CTL.SCRUBINT ≠ 0 → 3 ≤ s.sl.sys.released → s.sl.flag NS_RC_BLK.IDLEREQ = false →
      pos = s.sl.fld NS_ECC_STAT.SCRUBPOS →
      (List.range 8).all (fun e => !dirBroken (s.sl.mem.dirWord (pos % 8192) e 0) (s.sl.mem.dirWord (pos % 8192) e 1)) = true →
      ∃ t, exec .scrubVisit s = .next t ∧ s.loggedOwn t ∧ t.sl = { s.sl with regs := t.sl.regs, meas := t.sl.meas } ∧
        t.sl.fld NS_ECC_STAT.SCRUBPOS = (pos + 1) % 131072 ∧
        t.sl.fld NS_ECC_STAT.SCRUBPASS = min (2 ^ NS_ECC_STAT.SCRUBPASS.w - 1) (s.sl.fld NS_ECC_STAT.SCRUBPASS + b2n (pos == 131071)) ∧
        t.sl.fld NS_ECC_EVT2.SKIP = min (2 ^ NS_ECC_EVT2.SKIP.w - 1) (s.sl.fld NS_ECC_EVT2.SKIP +
          b2n (tagBUSY (s.sl.tag (pos / 8192) (pos % 8192)) || tagQUAR (s.sl.tag (pos / 8192) (pos % 8192)))) ∧
        s.sl.keepsFields t.sl [NS_ECC_STAT.SCRUBPOS, NS_ECC_STAT.SCRUBPASS, NS_ECC_EVT2.SKIP]) ∧
    (∀ (e : PvEntry) (rest : List PvEntry) (o : Nat), s.sl.walk.prep = none → s.sl.walk.diag = none → s.prov.held = e :: rest → s.sl.spillMay = true →
      o = s.sl.spillAt →
      (s.sl.spillOk (s.sl.fld NS_PV_SPILL.BASE) (s.sl.fld NS_PV_SPILL.LIMIT) = false →
        ∃ t, exec .spillEntry s = .next t ∧ s.loggedOwn t ∧ t.sl = { s.sl with regs := t.sl.regs } ∧ t.sl.flag NS_PV_SPILL.EN = false ∧
          t.sl.flag NS_PV_STAT.SPILLERR = true ∧ s.sl.keepsFields t.sl [NS_PV_SPILL.EN, NS_PV_STAT.SPILLERR]) ∧
      (s.sl.spillOk (s.sl.fld NS_PV_SPILL.BASE) (s.sl.fld NS_PV_SPILL.LIMIT) = true →
        (s.sl.fld NS_PV_SPILLWP.WP + 2 ^ 32 - s.sl.fld NS_PV_SPILLRP.RP) % 2 ^ 32 < s.sl.spillSize → s.sl.vtQuar (o / 128) = false →
        s.sl.lineWaits (.vit (BitVec.ofNat 17 (o / 128))) = false →
        ∃ t, exec .spillEntry s = .next t ∧
          ({ s with prov := { s.prov with held := rest, noted :=
            if e.kind = 1 ∧ e.stamp = s.sl.rd Reg.NS_CNT_CYCLE then s.prov.noted.filter (· != e.offset.toNat) else s.prov.noted } } :
              State).loggedOwn t ∧
          t.sl = { s.sl with regs := t.sl.regs, port := { s.sl.port with grants := t.sl.port.grants },
                             mem := { s.sl.mem with tier := t.sl.mem.tier, tags := t.sl.mem.tags } } ∧
          (∀ b, t.sl.mem.byte b = if o ≤ b ∧ b < o + 32 then (e.word ((b - o) / 8)).extractLsb' (8 * ((b - o) % 8)) 8
            else s.sl.mem.byte b) ∧
          t.sl.tag (o / 128 / 8192) (o / 128 % 8192) = setSV (s.sl.tag (o / 128 / 8192) (o / 128 % 8192))
            (tagSV (s.sl.tag (o / 128 / 8192) (o / 128 % 8192)) ||| 2 ^ (o % 128 / 32)) ∧
          t.sl.fld NS_PV_SPILLWP.WP = (s.sl.fld NS_PV_SPILLWP.WP + 1) % 2 ^ 32 ∧ s.sl.keepsTags t.sl (o / 128 / 8192) (o / 128 % 8192) ∧
          s.sl.keepsFields t.sl [NS_PV_SPILLWP.WP])) ∧
    (∀ since i, s.sl.walk.prep = none → s.sl.walk.diag = some since → i < 16 →
      ∃ t, exec .diagDone s = .next t ∧ s.loggedOwn t ∧ t.sl = { s.sl with regs := t.sl.regs, walk := { s.sl.walk with diag := none } } ∧
        t.sl.flag NS_DG_SEL.BUSY = false ∧ t.sl.flag NS_DG_SEL.DONE = true ∧
        t.sl.rd (Reg.NS_DG_DATA i) = s.sl.diagRead.data.getD i 0 ∧ t.sl.flag NS_DG_STAT2.RANGE = s.sl.diagRead.range ∧
        (s.sl.fld NS_DG_SEL.TARGET = 0 → i = 0 →
          t.sl.rd (Reg.NS_DG_DATA i) = s.sl.tagWord (s.sl.fld NS_DG_SEL.WAY) (s.sl.fld NS_DG_SEL.SET)) ∧
        s.sl.keepsFields t.sl (NS_DG_SEL.BUSY :: NS_DG_SEL.DONE :: wholeReg Reg.NS_DG_STAT :: wholeReg Reg.NS_DG_STAT2 ::
          (List.range 16).map fun i => wholeReg (Reg.NS_DG_DATA i))) ∧
    (∀ k, s.sl.balanceDue = true → k < 9 →
      ∃ t, exec .balanceValid s = .next t ∧ s.loggedOwn t ∧ t.sl = { s.sl with regs := t.sl.regs } ∧ t.sl.flag NS_BALANCE.VALID = true ∧
        bitAt (t.sl.rd Reg.NS_BALANCE) k = s.sl.books.getD k false ∧
        (s.sl.books.all id = true → s.sl.keepsFields t.sl [NS_BALANCE.VALID, balanceBits]) ∧
        (s.sl.books.getD k false = false → t.sl.flag NS_BALANCE.FAULT = true ∧
          (s.sl.flag NS_BALANCE.VALID = false ∨ bitAt (s.sl.rd Reg.NS_BALANCE) k = true →
            t.sl.fld NS_ERR_CNT.LASTCODE = ErrCode.BALANCE)) ∧
        s.sl.keepsFields t.sl (wholeReg Reg.NS_BALANCE :: errFlds))

/-- A regulation window begins: each class's MEAN and BOOST follow R485, each master's USED is 0 and OVERCNT counts one that was over
budget. A request whose slack has run out is counted once in DLMISS. The reply point grants the beat that R475 chooses, and the outbound
point the one message that waits with its credit. A granted status beat leaves on MR under a credit; one whose every destination is stale
is counted and not sent. A cycle of SCLK counts in NS_CNT_CYCLE and the census of its two slots, counts the units that have become urgent
(when they are looked at is the model's choice, log 91), frees the trackers of stale requests, moves a flit of the wing bridge, and drives
IRQ; what it decides by registers goes by those that held in the cycle, which are the ones before a register write that ends it (log 16). -/
def Obligations.TimeAndGrants : Prop :=
  ∀ (s : State), s.sl.between = true →
    (∀ n mean tgt : Nat, s.sl.clocked = true → s.sl.now % 4096 = 0 → s.sl.meas.window ≠ some s.sl.now → n < 256 →
      mean = (if s.sl.meas.latCnt.getD n 0 = 0 then 0 else min 0xFFFF (s.sl.meas.latSum.getD n 0 / s.sl.meas.latCnt.getD n 0)) →
      tgt = s.sl.fld (NS_REG_CLASS.TARGET n) →
      ∃ t, exec .regWindowStart s = .next t ∧ s.loggedOwn t ∧ t.sl = { s.sl with regs := t.sl.regs, meas := { s.sl.meas with
          overBud := 0, latSum := List.replicate 8 0, latCnt := List.replicate 8 0, window := some s.sl.now } } ∧
        (n < 8 → t.sl.fld (NS_REG_CLASS.MEAN n) = mean ∧ t.sl.fld (NS_REG_CLASS.BOOST n) =
          (if tgt = 0 ∨ 2 * mean < tgt then 0 else if 4 * mean < 3 * tgt then 1 else if mean < tgt then 2 else 3)) ∧
        t.sl.fld (NS_REG_BUDGET.USED n) = 0 ∧
        t.sl.fld (NS_REG_BUDGET.OVERCNT n) = min (2 ^ (NS_REG_BUDGET.OVERCNT n).w - 1)
          (s.sl.fld (NS_REG_BUDGET.OVERCNT n) + b2n (bitAt s.sl.meas.overBud n || s.sl.overBudget n)) ∧
        s.sl.keepsFields t.sl ((List.range 8).flatMap (fun k => [NS_REG_CLASS.MEAN k, NS_REG_CLASS.BOOST k]) ++
          (List.range 256).flatMap fun m => [NS_REG_BUDGET.USED m, NS_REG_BUDGET.OVERCNT m])) ∧
    (∀ (reqid : BitVec 8) (srcdie : BitVec 3) (tag : BitVec 12) (d : Dest) (k : Nat), s.sl.openReqs = [(d, k)] → d.reqid = reqid →
      d.srcdie = srcdie → d.tag = tag → k ≠ 0xFFF → s.sl.sys.sclkRuns = true → s.sl.slackLeft k d.born = 0 →
      s.sl.port.late.contains d = false → d.cls < 8 →
      ∃ t, exec (.slackZero reqid srcdie tag) s = .next t ∧ s.loggedOwn t ∧
        t.sl = { s.sl with regs := t.sl.regs, port := { s.sl.port with late := [d] } } ∧
        t.sl.fld (NS_REG_SLKEVT.DLMISS d.cls) = min (2 ^ (NS_REG_SLKEVT.DLMISS d.cls).w - 1) (s.sl.fld (NS_REG_SLKEVT.DLMISS d.cls) + 1) ∧
        s.sl.keepsFields t.sl [NS_REG_SLKEVT.DLMISS d.cls]) ∧
    (∀ i b, s.sl.sys.sclkRuns = true → s.sl.choose Point.reply.num (s.sl.port.beats.map fun b => (b.job, true)) = some i →
      s.sl.port.beats[i]? = some b →
      ∃ t, exec (.serviceGrant .reply) s = .next t ∧ s.loggedOwn t ∧
        t.sl = { s.sl with regs := t.sl.regs, port := { s.sl.port with
          beats := s.sl.port.beats.eraseIdx i, granted := s.sl.port.granted ++ [b], grants := t.sl.port.grants } } ∧
        (∀ k < 8, s.sl.urgentCounts t.sl [b.job] k) ∧
        s.sl.keepsFields t.sl (b.job.claims.map fun q => NS_REG_SLKEVT.URGENT q.cls)) ∧
    (∀ (it : OutItem) (w : LwMsg), s.sl.calm = true → s.sl.sys.sclkRuns = true → s.sl.out.outq = [it] → it.msg = .lw w →
      s.sl.out.lwCred.getD w.name.cls 0 ≠ 0 →
      ∃ t, exec (.serviceGrant .outbound) s = .next t ∧ s.loggedOwn t ∧
        t.sl = { s.sl with regs := t.sl.regs, meas := t.sl.meas, port := { s.sl.port with grants := t.sl.port.grants },
                           out := { s.sl.out with
          outq := [], lwCred := subAt s.sl.out.lwCred w.name.cls, bridgeOut := t.sl.out.bridgeOut,
          sentLW := s.sl.out.sentLW ++
            [if w.name.cls = 4 then { w with slack := BitVec.ofNat 12 (s.sl.slackLeft it.job.slack it.job.born) } else w] } } ∧
        t.sl.out.bridgeOut = s.sl.bridgeTaken w ∧ (∀ k < 8, s.sl.urgentCounts t.sl [it.job] k) ∧
        s.sl.keepsFields t.sl (it.job.claims.map fun q => NS_REG_SLKEVT.URGENT q.cls)) ∧
    (∀ b, s.sl.calm = true → s.sl.mqRdy = true → s.sl.port.granted = [b] → b.trk = none → b.isData = false →
      (b.live s.gentab = b.dests → b.dests ≠ [] → s.sl.fld NS_PORTSTAT.MRCRED ≠ 0 →
        ∃ t, exec .replyBeat s = .next t ∧ s.loggedOwn t ∧
          t.sl = { s.sl with regs := t.sl.regs, meas := t.sl.meas, port := { s.sl.port with granted := [] },
                             out := { s.sl.out with sentMR := s.sl.out.sentMR ++ [b] } } ∧
          t.sl.fld NS_PORTSTAT.MRCRED + 1 = s.sl.fld NS_PORTSTAT.MRCRED ∧ s.sl.keepsFields t.sl [NS_PORTSTAT.MRCRED]) ∧
      (b.live s.gentab = [] → b.dests ≠ [] → s.sl.fld NS_PORTSTAT.MRCRED ≠ 0 →
        ∃ t, exec .replyBeat s = .next t ∧ s.loggedOwn t ∧
          t.sl = { s.sl with regs := t.sl.regs, meas := t.sl.meas, port := { s.sl.port with granted := [] } } ∧
          t.sl.fld NS_RC_STALE.RPL = min (2 ^ NS_RC_STALE.RPL.w - 1) (s.sl.fld NS_RC_STALE.RPL + b.dests.length) ∧
          s.sl.keepsFields t.sl [NS_RC_STALE.RPL])) ∧
    exec .sclkCycle s = .next (s.cycleBy s.sl.regs) ∧
    (∀ (regs : List (Nat × Word)) (b : Slice) (t : State) (k : Nat), b = { s.sl with regs := regs } → t = s.cycleBy regs →
      s.sl.clocked = true → s.sl.sys.frzEdge = none → (∀ q ∈ s.sl.waitClaims, q.cls < 8) → k < 7 →
      s.loggedCycle t ∧ s.sl.cycleFrame t.sl ∧
      t.sl.sys.irq = (t.sl.flag NS_CTL.IRQEN && (t.sl.rd Reg.NS_IRQ_STAT &&& t.sl.rd Reg.NS_IRQ_EN) != 0) ∧
      t.sl.rd Reg.NS_CNT_CYCLE = s.sl.rd Reg.NS_CNT_CYCLE + 1 ∧
      (b.mqRdy = true → b.frozen = false → t.sl.fld (NS_CNT_SLOT.COUNT k) =
        (s.sl.fld (NS_CNT_SLOT.COUNT k) + b2n (slotNum s.sl.port.slotE == k) + b2n (slotNum s.sl.port.slotO == k)) % 2 ^ 48) ∧
      (∀ j < 8, s.sl.urgentCounts t.sl s.sl.waitJobs j b) ∧
      (b.frozen = true → t.sl.fld (NS_CNT_SLOT.COUNT k) = s.sl.fld (NS_CNT_SLOT.COUNT k)) ∧
      s.sl.keepsFields t.sl (wholeReg Reg.NS_CNT_CYCLE :: wholeReg Reg.NS_BALANCE :: NS_IRQ_STAT.COUNTER :: errFlds ++
        (List.range 8).map NS_REG_SLKEVT.URGENT ++
        (List.range 7).map (fun i => wholeReg (Reg.NS_CNT_SLOT i)) ++ (List.range 8).map fun i => wholeReg (Reg.NS_CNT_PMC i)))

/-- Clock, sleep and capture. SCLK takes the divisor that is set, while it runs. A slice that may sleep stops SCLK and raises SLEEP_ACK, a
woken one after 4096 drowsy cycles; WAKE lets SLEEP_ACK fall, and when SCLK runs again AWAKE reads 1 and the retries the LCL port gave
meanwhile are counted. A cluster's message to a slice that sleeps waits, and wakes it (its place is the model's, log 82). FRZ rising sets
FRZ and wakes a slice that sleeps; with the third cycle of SCLK from there, or as soon as the slice that slept has SCLK, the counters and
the log's sequence number are copied into their snapshots, CAPSEQ advances and a FREEZE entry is made (the count of cycles and the capture
of a slice that slept are the model's, log 125). FRZ falling ends the freeze. -/
def Obligations.ClockAndCapture : Prop :=
  ∀ (s : State), s.sl.between = true →
    (s.sl.sys.released ≠ 0 →
      ∃ t, exec .sclkDivChange s = .next t ∧ s.loggedOwn t ∧ t.sl = { s.sl with regs := t.sl.regs, meas := t.sl.meas } ∧
        t.sl.meas = (if s.sl.sys.sclkRuns = true ∧ s.sl.fld NS_CLKCTL.SCLKDIV ≠ s.sl.fld NS_PORTSTAT.DIVNOW then
          { s.sl.meas with divs := (s.sl.now, s.sl.sclkDiv) :: s.sl.meas.divs } else s.sl.meas) ∧
        t.sl.fld NS_PORTSTAT.DIVNOW = (if s.sl.sys.sclkRuns = true then s.sl.fld NS_CLKCTL.SCLKDIV else s.sl.fld NS_PORTSTAT.DIVNOW) ∧
        s.sl.keepsFields t.sl [NS_PORTSTAT.DIVNOW]) ∧
    (∀ c, (c = .sleepEnter ∧ s.sl.sys.woken = false) ∨ (c = .resleep ∧ s.sl.sys.woken = true ∧ 4096 ≤ s.sl.meas.drowsy) →
      s.sl.clocked = true → s.sl.flag NS_CLKCTL.SLEEP = true → s.sl.sys.released = 6 → s.sl.maySleep = true →
      ∃ t, exec c s = .next t ∧ s.loggedOwn t ∧
        t.sl = { s.sl with regs := t.sl.regs, sys := { s.sl.sys with sleepAck := true, sclkRuns := false, waking := false } } ∧
        t.sl.flag NS_PORTSTAT.AWAKE = false ∧ s.sl.keepsFields t.sl [NS_PORTSTAT.AWAKE]) ∧
    (s.sl.sys.sclkRuns = false →
      ∃ t, exec .wake s = .next t ∧ s.loggedOwn t ∧
        t.sl = { s.sl with sys := { s.sl.sys with sleepAck := false, waking := true } }) ∧
    (∀ m : ClMsg, s.sl.sys.sclkRuns = false → s.sl.flag NS_PORTSTAT.LWRDY = true → s.sl.coh.bridge = [] → s.sl.coh.portCred = [] →
      ∃ t, exec (.rdS m) s = .next t ∧ s.loggedOwn t ∧ t.sl = { s.sl with
        coh := { s.sl.coh with bridge :=
          [{ msg := .req m .rdS, slot := if s.sl.crosses m.cluster.toNat = true then .own else .crossing }] },
        sys := { s.sl.sys with sleepAck := false, waking := true } }) ∧
    (s.sl.sys.sclkRuns = false → s.sl.sys.waking = true → s.sl.chan.hcLate = none → s.sl.calm = true →
      ∃ t, exec .sclkRunsAgain s = .next t ∧
        t.sl = { s.sl with regs := t.sl.regs, meas := { s.sl.meas with drowsy := 0 }, coh := { s.sl.coh with portCr := 0, portNc := 0 }, sys := { s.sl.sys with
          sclkRuns := true, waking := false, woken := s.sl.flag NS_CLKCTL.SLEEP, frzEdge := t.sl.sys.frzEdge } } ∧
        t.sl.flag NS_PORTSTAT.AWAKE = true ∧
        t.sl.fld NS_DIR_EVT.RETRYCR = min (2 ^ NS_DIR_EVT.RETRYCR.w - 1) (s.sl.fld NS_DIR_EVT.RETRYCR + s.sl.coh.portCr) ∧
        t.sl.fld NS_DIR_EVT.RETRYNC = min (2 ^ NS_DIR_EVT.RETRYNC.w - 1) (s.sl.fld NS_DIR_EVT.RETRYNC + s.sl.coh.portNc) ∧
        (s.sl.sys.frzEdge = some 0 → s.captures t Turn.own ∧
          s.sl.keepsFields t.sl (NS_PORTSTAT.AWAKE :: NS_DIR_EVT.RETRYCR :: NS_DIR_EVT.RETRYNC :: captureFlds)) ∧
        (s.sl.sys.frzEdge ≠ some 0 → t.sl.sys.frzEdge = s.sl.sys.frzEdge ∧ s.loggedOwn t ∧
          s.sl.keepsFields t.sl [NS_PORTSTAT.AWAKE, NS_DIR_EVT.RETRYCR, NS_DIR_EVT.RETRYNC])) ∧
    (s.sl.sys.released ≠ 0 → s.sl.sys.inReset = none → s.sl.sys.frz = false →
      ∃ t, exec .frz s = .next t ∧ s.loggedOwn t ∧
        t.sl = { s.sl with regs := t.sl.regs, sys := { s.sl.sys with
          frz := true, frzEdge := some (if s.sl.sys.sclkRuns = true then 3 else 0),
          sleepAck := s.sl.sys.sleepAck && s.sl.sys.sclkRuns, waking := s.sl.sys.waking || !s.sl.sys.sclkRuns } } ∧
        t.sl.flag NS_CNT_CTL.FRZ = true ∧ s.sl.keepsFields t.sl [NS_CNT_CTL.FRZ]) ∧
    (∀ n, s.sl.clocked = true → s.sl.sys.frzEdge = some n → (∀ q ∈ s.sl.waitClaims, q.cls < 8) →
      ∃ t, exec .sclkCycle s = .next t ∧ (n ≤ 1 → s.captures t 0) ∧
        (1 < n → t.sl.sys.frzEdge = some (n - 1) ∧ s.loggedCycle t ∧ ∀ p ∈ snapPairs, t.sl.rd p.1 = s.sl.rd p.1)) ∧
    (s.sl.sys.frz = true →
      ∃ t, exec .frzFall s = .next t ∧ s.loggedOwn t ∧ t.sl = { s.sl with regs := t.sl.regs, sys := { s.sl.sys with frz := false } } ∧
        t.sl.flag NS_CNT_CTL.FRZ = false ∧ s.sl.keepsFields t.sl [NS_CNT_CTL.FRZ])

/-- The channel's states as HC_STATE moves them: RETRAIN is entered from NORMAL, counted, and lowers NS_READY.CHANNEL; NORMAL ends INIT,
RETRAIN and LOST of a channel that is not in the map-out list, and RTLAST then reports a RETRAIN's length; MAPPED_OUT makes INIT, NORMAL
and RETRAIN LOST; a RETRAIN of the timeout's length is counted once and raises CHANNEL. While SCLK stands the change is seen when it runs
again. What is seen of HC_STATE while SCLK stands is the model's choice (log 127). -/
def Obligations.ChannelStateFollows : Prop :=
  ∀ (s : State), s.sl.flag NS_PORTSTAT.MEMRDY = true → s.sl.calm = true →
    (∀ c v, (c = .retrainEnter ∧ v = HcState.RETRAIN) ∨ (c = .channelNormal ∧ v = HcState.NORMAL) ∨
        (c = .channelLost ∧ v = HcState.MAPPED_OUT) → s.sl.sys.sclkRuns = false →
      ∃ t, exec c s = .next t ∧ s.loggedOwn t ∧ t.sl = { s.sl with chan := { s.sl.chan with hcLate := some v } }) ∧
    (s.sl.sys.sclkRuns = true → s.sl.cstate = CState.NORMAL →
      ∃ t, exec .retrainEnter s = .next t ∧ s.loggedOwn t ∧
        t.sl = { s.sl with regs := t.sl.regs, chan := { s.sl.chan with rtCycles := 0, rtRaised := false } } ∧
        t.sl.fld NS_PORTSTAT.HCSTATE = HcState.RETRAIN ∧ t.sl.cstate = CState.RETRAIN ∧ t.sl.flag NS_READY.CHANNEL = false ∧
        t.sl.fld NS_CH_STAT.RTCOUNT = min (2 ^ NS_CH_STAT.RTCOUNT.w - 1) (s.sl.fld NS_CH_STAT.RTCOUNT + 1) ∧
        s.sl.keepsFields t.sl [NS_PORTSTAT.HCSTATE, NS_CH_STAT.CSTATE, NS_CH_STAT.RTCOUNT, NS_READY.CHANNEL]) ∧
    (s.sl.sys.sclkRuns = true → s.sl.chanListed = false →
      s.sl.cstate = CState.INIT ∨ s.sl.cstate = CState.RETRAIN ∨ s.sl.cstate = CState.LOST →
      ∃ t, exec .channelNormal s = .next t ∧ s.loggedOwn t ∧
        t.sl = { s.sl with regs := t.sl.regs, chan := { s.sl.chan with rtCycles := 0, rtRaised := false, resumed := s.sl.chan.nextOp } } ∧
        t.sl.fld NS_PORTSTAT.HCSTATE = HcState.NORMAL ∧ t.sl.cstate = CState.NORMAL ∧ t.sl.flag NS_READY.CHANNEL = true ∧
        (s.sl.cstate = CState.RETRAIN → t.sl.fld NS_CH_STAT.RTLAST = min 0xFFFFFF s.sl.chan.rtCycles ∧
          t.sl.fld NS_CH_STALL.RTWORST = max (s.sl.fld NS_CH_STALL.RTWORST) (min 0xFFFFFF s.sl.chan.rtCycles)) ∧
        s.sl.keepsFields t.sl ([NS_PORTSTAT.HCSTATE, NS_CH_STAT.CSTATE, NS_READY.CHANNEL] ++
          (if s.sl.cstate = CState.RETRAIN then [NS_CH_STAT.RTLAST, NS_CH_STALL.RTWORST] else []))) ∧
    (s.sl.sys.sclkRuns = true → s.sl.cstate = CState.INIT ∨ s.sl.cstate = CState.NORMAL ∨ s.sl.cstate = CState.RETRAIN →
      ∃ t, exec .channelLost s = .next t ∧ s.loggedOwn t ∧
        t.sl = { s.sl with regs := t.sl.regs, chan := { s.sl.chan with rtCycles := 0, rtRaised := false } } ∧
        t.sl.fld NS_PORTSTAT.HCSTATE = HcState.MAPPED_OUT ∧ t.sl.cstate = CState.LOST ∧ t.sl.flag NS_READY.CHANNEL = false ∧
        (s.sl.cstate = CState.RETRAIN → t.sl.fld NS_CH_STAT.RTLAST = min 0xFFFFFF s.sl.chan.rtCycles ∧
          t.sl.fld NS_CH_STALL.RTWORST = max (s.sl.fld NS_CH_STALL.RTWORST) (min 0xFFFFFF s.sl.chan.rtCycles)) ∧
        s.sl.keepsFields t.sl ([NS_PORTSTAT.HCSTATE, NS_CH_STAT.CSTATE, NS_READY.CHANNEL] ++
          (if s.sl.cstate = CState.RETRAIN then [NS_CH_STAT.RTLAST, NS_CH_STALL.RTWORST] else []))) ∧
    (s.sl.cstate = CState.RETRAIN → s.sl.chan.rtRaised = false → 2 ^ max 12 (s.sl.fld NS_CH_CTL.RTMAXEXP) ≤ s.sl.chan.rtCycles →
      s.sl.sys.sclkRuns = true →
      ∃ t, exec .retrainTimeout s = .next t ∧ s.loggedOwn t ∧
        t.sl = { s.sl with regs := t.sl.regs, chan := { s.sl.chan with rtRaised := true } } ∧
        t.sl.flag NS_CH_STAT.RTTO = true ∧ t.sl.flag NS_IRQ_STAT.CHANNEL = true ∧
        t.sl.fld NS_CH_STALL.RTTOCNT = min (2 ^ NS_CH_STALL.RTTOCNT.w - 1) (s.sl.fld NS_CH_STALL.RTTOCNT + 1) ∧
        s.sl.keepsFields t.sl [NS_CH_STAT.RTTO, NS_CH_STALL.RTTOCNT, NS_IRQ_STAT.CHANNEL])

/-- A control message of a reserved type is recorded CTMSG. A PURGE of a context without commands, groups, credits or waiting work sets
the context's generation, clears its accession counters, orphans the issue entries of its older work, counted in ORPHAN, and is BUSY; when
nothing of the older work is left in an action it is counted and reported. A progress counter at the limit records the hang of its kind
and raises HANG. An orphaned issue entry is free again after the hang window. That a proxy is not orphaned by its context (log 31) and the
zero fields of a hang without a request (log 36) are the model's. -/
def Obligations.PurgeAndHang : Prop :=
  ∀ (s : State), s.sl.between = true →
    (∀ (v : State) (word : BitVec 32), v.msgFor = s → s.sl.msgReady = true →
      ∃ t, exec (.ctMsgReserved word) v = .next t ∧ s.logged t ∧ t.sl = { s.sl with regs := t.sl.regs, meas := t.sl.meas } ∧
        s.sl.entersErr t.sl { code := ErrCode.CTMSG, src := 3, priv := 0, opc := 0, who := 0, srcdie := 0, ctx := getBits word 16 12,
                              gen := getBits word 8 8, detail := word.toNat } ∧ s.sl.keepsFields t.sl errFlds) ∧
    (∀ (v : State) (ctx : BitVec 12) (gen : BitVec 8) (k : Nat), v.msgFor = s → s.sl.calm = true → s.sl.msgReady = true →
      s.sl.bulk.cmds = [] → s.sl.grps = [] →
      s.sl.bulk.cpls = [] → s.sl.out.outq = [] → s.sl.holds = [] → (s.sl.out.issue.map (·.entry)).Nodup → k < 256 →
      ∃ t, exec (.purge ctx gen) v = .next t ∧ ({ s with gentab := t.gentab } : State).logged t ∧
        (∀ c, genOf t.gentab c = if c = ctx then gen else genOf s.gentab c) ∧
        t.sl = { s.sl with regs := t.sl.regs, meas := t.sl.meas, out := t.sl.out, walk := { s.sl.walk with purge := some (ctx, gen) } } ∧
        t.sl.out = { s.sl.out with epochs := t.sl.out.epochs, issue := s.sl.out.issue.map fun i =>
          if !i.orphan && !i.why.isProxy && oldWork ctx gen i.ctx i.gen then { i with orphan := true, since := s.sl.now } else i } ∧
        (∀ i ∈ s.sl.out.issue, t.sl.out.epochOf i.entry =
          if !i.orphan && !i.why.isProxy && oldWork ctx gen i.ctx i.gen then s.sl.out.epochOf i.entry + 1 else s.sl.out.epochOf i.entry) ∧
        t.sl.flag NS_RC_PURGE.BUSY = true ∧ t.sl.fld NS_RC_PURGE.CTX = ctx.toNat ∧ t.sl.fld NS_RC_PURGE.GEN = gen.toNat ∧
        t.sl.fld NS_RC_PURGE.ORPHAN = ((s.sl.out.issue.filter fun i =>
          !i.orphan && !i.why.isProxy && oldWork ctx gen i.ctx i.gen).length) % 2 ^ NS_RC_PURGE.ORPHAN.w ∧
        (s.sl.fld (NS_ACCN_TARGET.CTX k) = ctx.toNat → t.sl.accState k = AccSt.IDLE ∧ t.sl.fld (NS_ACCN_TARGET.COUNT k) = 0 ∧
          t.sl.fld (NS_ACCN_TARGET.TAINT k) = 0) ∧
        (s.sl.fld (NS_ACCN_TARGET.CTX k) ≠ ctx.toNat → t.sl.rd (Reg.NS_ACCN_TARGET k) = s.sl.rd (Reg.NS_ACCN_TARGET k)) ∧
        s.sl.keepsFields t.sl ([NS_RC_PURGE.BUSY, NS_RC_PURGE.CTX, NS_RC_PURGE.GEN, NS_RC_PURGE.ORPHAN] ++
          (List.range 256).flatMap fun j => [NS_ACCN_TARGET.COUNT j, NS_ACCN_TARGET.TAINT j, NS_ACCN_TARGET.STATE j])) ∧
    (∀ ctx gen, s.sl.walk.purge = some (ctx, gen) → (s.sl.modWalk fun q => { q with purge := none }).calm = true →
      s.sl.sys.sclkRuns = true → s.sl.teardownRegions ctx = [] →
      ∃ t, exec .purgeDone s = .next t ∧ s.loggedOwn t ∧
        t.sl = { s.sl with regs := t.sl.regs, sys := { s.sl.sys with msgDone := s.sl.sys.msgDone + 1 },
                           walk := { s.sl.walk with purge := none } } ∧
        t.sl.flag NS_RC_PURGE.BUSY = false ∧
        t.sl.fld NS_RC_PURGE.COUNT = min (2 ^ NS_RC_PURGE.COUNT.w - 1) (s.sl.fld NS_RC_PURGE.COUNT + 1) ∧
        s.sl.keepsFields t.sl [NS_RC_PURGE.BUSY, NS_RC_PURGE.COUNT]) ∧
    (∀ (kind : HangKind) (u : HangUnit) (us : List HangUnit) (k : Nat), k = HangKind.num kind →
      s.sl.hangLimit ≤ s.sl.meas.prog.getD k 0 → bitAt s.sl.meas.hung k = false → s.sl.hangUnits kind = u :: us →
      (∀ v ∈ us, u.born ≤ v.born) →
      ∃ t, exec (.hang kind) s = .next t ∧ s.loggedOwn t ∧
        t.sl = { s.sl with regs := t.sl.regs, meas := { s.sl.meas with hung := s.sl.meas.hung ||| ((1 : BitVec 8) <<< k) } } ∧
        bitAt (t.sl.rd Reg.NS_RC_HANG) (56 + k) = true ∧ t.sl.fld NS_RC_HANG.KIND = k ∧
        t.sl.fld NS_RC_HANG.REQID = u.reqid % 2 ^ NS_RC_HANG.REQID.w ∧ t.sl.fld NS_RC_HANG.CTX = u.ctx % 2 ^ NS_RC_HANG.CTX.w ∧
        t.sl.fld NS_RC_HANG.OPC = u.opc % 2 ^ NS_RC_HANG.OPC.w ∧ t.sl.fld NS_RC_HANG.AGE = min (2 ^ 27 - 1) (s.sl.now - u.born) ∧
        t.sl.flag NS_IRQ_STAT.HANG = true ∧ s.sl.keepsFields t.sl [wholeReg Reg.NS_RC_HANG, NS_IRQ_STAT.HANG]) ∧
    (∀ (entry : BitVec 9) (i : Issue), s.sl.calm = true → s.sl.out.issue = [i] → i.entry = entry.toNat → i.orphan = true →
      s.sl.hangLimit ≤ s.sl.now - i.since → s.sl.sys.sclkRuns = true →
      ∃ t, exec (.orphanEntryExpire entry) s = .next t ∧ s.loggedOwn t ∧ t.sl = { s.sl with out := s.sl.out.without entry.toNat })

/-- A reset input or a block reset that proceeds applies the higher of its level and that of a release not completed (R636). Every
register field that does not survive that level has its Reset value and every other one is kept; the cause is counted and LAST; trackers,
queues, engines, groups, counters' holds and transactions are gone; every issue entry's epoch advances; the data tier keeps its bytes. A
package or power-on reset clears the bookkeeping and the generation table, a power-on reset also the provenance log; any other reset
enters there the disables it carries out and its record of itself. A glitch is only counted. The standby supply coming up gives every
field its Reset value. The model's own are the tier kept through a power-on reset (log 95), FRZ forgotten (log 41), what stands through a
block reset (log 40), the record of what has left (log 44) and which requests count as lost (log 94). -/
def Obligations.ResetsLeave : Prop :=
  ∀ (s : State),
    (∀ c lvl cause eff, (c = .powerOnReset ∧ lvl = .por ∧ cause = 0) ∨ (c = .packageReset ∧ lvl = .pkg ∧ cause = 1) ∨
        (c = .computeReset ∧ lvl = .cmp ∧ cause = 2) → eff = Level.max lvl s.sl.sys.applied →
      ∃ t, exec c s = .next t ∧ t.pending = s.pending ∧ t.gentab = (if eff = .cmp then s.gentab else []) ∧
        t.turn = s.turn ∧
        t.prov = (if eff = .por then Prov.empty else { s.eachAlone.changes { s.eachAlone with sl := s.sl.resetMarks eff cause } with noted := [] }) ∧
        s.sl.resetLeaves t.sl eff cause recordRegs ∧
        t.sl.sys.inReset = some ((s.sl.sys.inReset.map (Level.max lvl)).getD lvl) ∧
        (eff = .cmp → t.sl.fld NS_RC_RSTREC.LOSTREQ = min 0xFFFF s.sl.lostRequests)) ∧
    (∀ eff, s.sl.blockDue = true → s.sl.quiescent = true → s.sl.between = true → eff = Level.max .cmp s.sl.sys.applied →
      ∃ t, exec .blockResetProceed s = .next t ∧ t.pending = s.pending ∧ t.gentab = (if eff = .cmp then s.gentab else []) ∧
        t.turn = s.turn ∧
        t.prov = (if eff = .por then Prov.empty else { s.eachAlone.changes { s.eachAlone with sl := s.sl.resetMarks eff 3 } with noted := [] }) ∧
        s.sl.resetLeaves t.sl eff 3 (Reg.NS_RC_BLK :: recordRegs) ∧
        t.sl.sys.inReset = s.sl.sys.inReset ∧ t.sl.flag NS_RC_BLK.BUSY = true ∧ t.sl.flag NS_RC_BLK.IDLEREQ = true) ∧
    (s.sl.between = true →
      ∃ t, exec .glitch s = .next t ∧ s.loggedOwn t ∧ t.sl = { s.sl with regs := t.sl.regs } ∧
        t.sl.fld NS_RST_CNT1.GLITCH = min (2 ^ NS_RST_CNT1.GLITCH.w - 1) (s.sl.fld NS_RST_CNT1.GLITCH + 1) ∧
        bitAt (t.sl.rd Reg.NS_RST_CAUSE) 5 = true ∧ s.sl.keepsFields t.sl [NS_RST_CNT1.GLITCH, ⟨Reg.NS_RST_CAUSE, 5, 1⟩]) ∧
    (s.sl.between = true →
      ∃ t, exec .resetEnd s = .next t ∧ s.loggedOwn t ∧ t.sl = { s.sl with sys := { s.sl.sys with inReset := none } }) ∧
    (∀ off fs, regFields off = some fs →
      ∃ t, exec .standbyPowerUp s = .next t ∧ t.pending = s.pending ∧ t.gentab = [] ∧ t.prov = Prov.empty ∧ t.turn = 0 ∧ t.sl = Slice.start ∧
        (∀ f ∈ fs, getBits (t.sl.rd off) f.lo f.w = f.reset))

/-- The release sequence, each step after the one before it and with no reset in effect: CT and SCLK run and the RESET entry is made; the
sweep empties the tags and the directory after power-on or package reset, clears BUSY and GRP after a compute or block reset and keeps the
lines whose directory entries were busy for recovery, and drops L, O and H entries whose bookkeeping was lost; the data tier, the memory
port (a listed channel is MAPPED), the mesh and DD, and LW are released, the last two with the announcement of their receive credits,
which completes the release and a block reset. Once the snoop timeout has passed, an entry that was busy is recovered by SNP_INV. The
model's own are QUAR kept (log 39), the list of lines to recover and its time (logs 37, 86) and that credits are announced in the step
(logs 108, 126). -/
def Obligations.ReleaseSteps : Prop :=
  ∀ (s : State), s.sl.between = true →
    (s.sl.releases 1 = true →
      ∃ t, exec .clockIslandRelease s = .next t ∧
        ({ s with prov := s.prov.enter (s.sl.flag NS_PV_CTL.MODE) s.sl.resetEntry } : State).loggedOwn t ∧
        t.sl = { s.sl with regs := t.sl.regs, sys := { s.sl.sys with released := 1, sclkRuns := true } } ∧
        t.sl.flag NS_PORTSTAT.CTRDY = true ∧ t.sl.flag NS_PORTSTAT.AWAKE = true ∧
        s.sl.keepsFields t.sl [NS_PORTSTAT.CTRDY, NS_PORTSTAT.AWAKE]) ∧
    (∀ i : Nat, s.sl.releases 2 = true → Sparse.wf (fun _ => 0) s.sl.mem.tags = true → s.sl.mem.bkchk = [] →
      ∃ t, exec .tagDirectorySweep s = .next t ∧ s.loggedOwn t ∧
        t.sl = { s.sl with regs := t.sl.regs, mem := t.sl.mem, coh := t.sl.coh,
                           sys := { s.sl.sys with released := 2, bkLost := false, reinv := t.sl.sys.reinv } } ∧
        t.sl.mem.tier = s.sl.mem.tier ∧ t.sl.mem.chk = s.sl.mem.chk ∧ t.sl.mem.glw = [] ∧
        (s.sl.sys.applied ≠ .cmp → t.sl.mem = { Mem.empty with tier := s.sl.mem.tier, chk := s.sl.mem.chk } ∧ t.sl.coh = s.sl.coh ∧
          s.sl.keepsFields t.sl []) ∧
        (s.sl.sys.applied = .cmp → s.sl.sys.bkLost = true → t.sl.mem.dir = [] ∧ t.sl.mem.loan = [] ∧
          Sparse.get (fun _ => 0) t.sl.mem.tags i =
            (if s.sl.wayCode (i / 8192) = Use.V ∨ s.sl.wayCode (i / 8192) = Use.X then
              setBUSY (setGRP (Sparse.get (fun _ => 0) s.sl.mem.tags i) false) false
            else setQUAR 0 (tagQUAR (Sparse.get (fun _ => 0) s.sl.mem.tags i)))) ∧
        (∀ set e, s.sl.sys.applied = .cmp → s.sl.sys.bkLost = false → Sparse.wf (fun _ => 0) s.sl.mem.dir = true →
          (s.sl.mem.dir.all fun p => !dirBroken (s.sl.mem.dirWord (p.1 / 16) (p.1 / 2 % 8) 0) (s.sl.mem.dirWord (p.1 / 16) (p.1 / 2 % 8) 1)) =
            true → e < 8 →
          Sparse.get (fun _ => 0) t.sl.mem.tags i = setGRP (setBUSY (Sparse.get (fun _ => 0) s.sl.mem.tags i) false) false ∧
          t.sl.mem.loan = s.sl.mem.loan ∧ (t.sl.mem.ent set e).busy = false ∧
          ((s.sl.mem.ent set e).busy = true →
            ((s.sl.mem.ent set e).tag, (s.sl.mem.ent set e).state == Dir.X) ∈ t.sl.coh.recover) ∧
          ((s.sl.mem.ent set e).busy = false → t.sl.mem.ent set e = s.sl.mem.ent set e) ∧
          s.sl.keepsFields t.sl [NS_RC_RSTREC.REINV, NS_RC_RSTREC.RSNOOP])) ∧
    (s.sl.releases 3 = true →
      ∃ t, exec .dataTierPortRelease s = .next t ∧ s.loggedOwn t ∧ t.sl = { s.sl with sys := { s.sl.sys with released := 3 } }) ∧
    (s.sl.releases 4 = true →
      ∃ t, exec .memoryPortRelease s = .next t ∧ s.loggedOwn t ∧
        t.sl = { s.sl with regs := t.sl.regs, chan := t.sl.chan, sys := { s.sl.sys with released := 4 } } ∧
        t.sl.flag NS_PORTSTAT.MEMRDY = true ∧
        (s.sl.chanListed = true → t.sl.cstate = CState.MAPPED ∧ t.sl.flag NS_READY.CHANNEL = true) ∧
        (s.sl.chanListed = false → t.sl.chan = s.sl.chan ∧ s.sl.keepsFields t.sl [NS_PORTSTAT.MEMRDY]) ∧
        s.sl.keepsFields t.sl [NS_PORTSTAT.MEMRDY, NS_CH_STAT.CSTATE, NS_CH_STAT.RTLAST, NS_CH_STALL.RTWORST, NS_READY.CHANNEL]) ∧
    (∀ ok : Bool, s.sl.releases 5 = true → s.sl.calm = true → s.sl.sys.reinv = [] →
      ok = (s.sl.fld NS_FWIF.RESULT == 1 || s.sl.fld NS_FWIF.RESULT == 2) →
      ∃ t, exec .meshPortRelease s = .next t ∧ s.loggedOwn t ∧
        t.sl = { s.sl with regs := t.sl.regs, sys := { s.sl.sys with released := 5 },
                           out := { s.sl.out with ddRx := t.sl.out.ddRx } } ∧
        t.sl.out.ddRx = s.sl.out.ddRx.map (· + 16) ∧
        t.sl.flag NS_PORTSTAT.MESHRDY = true ∧ t.sl.flag NS_PORTSTAT.DDRDY = true ∧ t.sl.flag NS_READY.CACHE = true ∧
        t.sl.flag NS_READY.UPDATE = true ∧ t.sl.flag NS_READY.VITRINE = ok ∧ t.sl.flag NS_READY.REDUCE = ok ∧
        t.sl.flag NS_READY.HOSTCOH = (s.sl.flag NS_PORTSTAT.LWRDY && ok) ∧
        s.sl.keepsFields t.sl [NS_PORTSTAT.MESHRDY, NS_PORTSTAT.DDRDY, NS_READY.CACHE, NS_READY.UPDATE, NS_READY.VITRINE,
          NS_READY.REDUCE, NS_READY.HOSTCOH]) ∧
    (s.sl.releases 6 = true →
      ∃ t, exec .lclPortRelease s = .next t ∧ s.loggedOwn t ∧
        t.sl = { s.sl with regs := t.sl.regs, coh := { s.sl.coh with recoverFrom := some s.sl.now },
                           out := { s.sl.out with lwRx := s.sl.out.lwRx.map (· + 8) }, sys :=
                             { s.sl.sys with released := 6, applied := .cmp } } ∧
        t.sl.flag NS_PORTSTAT.LWRDY = true ∧
        t.sl.flag NS_READY.HOSTCOH = (s.sl.fld NS_FWIF.RESULT == 1 || s.sl.fld NS_FWIF.RESULT == 2) ∧
        (s.sl.flag NS_RC_BLK.BUSY = true → t.sl.flag NS_RC_BLK.BUSY = false ∧ t.sl.flag NS_RC_BLK.IDLEREQ = false) ∧
        (s.sl.flag NS_RC_BLK.BUSY = false → t.sl.rd Reg.NS_RC_BLK = s.sl.rd Reg.NS_RC_BLK) ∧
        s.sl.keepsFields t.sl [NS_PORTSTAT.LWRDY, NS_READY.CACHE, NS_READY.UPDATE, NS_READY.VITRINE, NS_READY.REDUCE, NS_READY.HOSTCOH,
          NS_RC_BLK.BUSY, NS_RC_BLK.IDLEREQ]) ∧
    (∀ (l : LineAddr) (x : Bool) (c k e : Nat) (d : DirEnt), s.sl.coh.recoverFrom = some c → c + s.sl.snpTimeout ≤ s.sl.now →
      s.sl.coh.recover = [(l, x)] →
      (s.sl.modCoh fun q => { q with recover := [] }).calm = true → s.sl.findEnt l = some (e, d) →
      ((List.range 32).filter fun j => !s.sl.dead j) = [k] → s.sl.canSendLW 1 = true →
      ∃ t, exec .snoopRecovery s = .next t ∧ s.loggedOwn t ∧ s.sl.cohOnly t.sl ∧ s.sl.keepsFields t.sl [] ∧
        s.sl.sendsLW t.sl 1 (fun q => q = { lwMsg .snpInv k l with reqr := 32 }) ∧
        t.sl.coh = { s.sl.coh with txns :=
          [{ line := l, who := .recovery, kind := .recovery, snoops := [(k, s.sl.now)], snooped := oneCluster k, dataDue := 0,
             memDue := false, fromOwner := false, granted := false, compDue := false, hadX := false, timedOut := 0, wbp := 0,
             waitVictim := none, born := s.sl.now }] } ∧
        t.sl.mem = { s.sl.mem with dir := t.sl.mem.dir } ∧ s.sl.keepsDir t.sl (setOf l) e ∧
        t.sl.mem.ent (setOf l) e = { d with busy := true })
end

