-- ==== Sys2Proof/Laws/Bits.lean ====
section
/-! SUPPORT. Bit fields: a field reads back what was set in it, and every field that shares no bit with it is left alone. -/

namespace Sys2Proof

theorem getBits_testBit {n : Nat} (x : BitVec n) (lo w i : Nat) :
    (getBits x lo w).testBit i = (decide (i < w) && x.getLsbD (lo + i)) := by
  simp [getBits, Nat.testBit_mod_two_pow, Nat.testBit_shiftRight, BitVec.getLsbD]

theorem getBits_lt {n : Nat} (x : BitVec n) (lo w : Nat) : getBits x lo w < 2 ^ w := Nat.mod_lt _ (Nat.two_pow_pos w)

theorem setBits_getLsbD {n : Nat} (x : BitVec n) (lo w v j : Nat) :
    (setBits x lo w v).getLsbD j =
      if lo ≤ j ∧ j < lo + w then decide (j < n) && v.testBit (j - lo) else x.getLsbD j := by
  by_cases hj : j < n
  · simp only [setBits, BitVec.getLsbD_or, BitVec.getLsbD_and, BitVec.getLsbD_not, BitVec.getLsbD_shiftLeft, BitVec.getLsbD_ofNat,
      Nat.testBit_two_pow_sub_one, Nat.testBit_mod_two_pow]
    by_cases h1 : lo ≤ j
    · by_cases h2 : j < lo + w
      · simp [hj, h1, h2, show ¬ j < lo by omega, show j - lo < n by omega, show j - lo < w by omega]
      · simp [hj, h1, h2, show ¬ j < lo by omega, show ¬ j - lo < w by omega]
    · simp [hj, h1, show j < lo by omega]
  · have h1 : x.getLsbD j = false := BitVec.getLsbD_of_ge x j (by omega)
    have h2 : (setBits x lo w v).getLsbD j = false := BitVec.getLsbD_of_ge _ j (by omega)
    simp [h1, h2, hj]

/-- A field reads back what was set in it. -/
theorem getBits_setBits {n : Nat} (x : BitVec n) {lo w : Nat} (v : Nat) (h : lo + w ≤ n) :
    getBits (setBits x lo w v) lo w = v % 2 ^ w := by
  apply Nat.eq_of_testBit_eq
  intro i
  rw [getBits_testBit, setBits_getLsbD, Nat.testBit_mod_two_pow]
  by_cases c : i < w
  · simp [c, show lo + i < n by omega]
  · simp [c]

/-- A field that shares no bit with the one that is set keeps its value. -/
theorem getBits_setBits_other {n : Nat} (x : BitVec n) {lo w lo' w' : Nat} (v : Nat) (h : lo + w ≤ lo' ∨ lo' + w' ≤ lo) :
    getBits (setBits x lo w v) lo' w' = getBits x lo' w' := by
  apply Nat.eq_of_testBit_eq
  intro i
  rw [getBits_testBit, getBits_testBit, setBits_getLsbD]
  by_cases c : i < w'
  · rw [if_neg (by omega)]
  · simp [c]

/-- A bit outside the field that is set keeps its value. -/
theorem bitAt_setBits_other {n : Nat} (x : BitVec n) {lo w j : Nat} (v : Nat) (h : j < lo ∨ lo + w ≤ j) :
    bitAt (setBits x lo w v) j = bitAt x j := by
  unfold bitAt
  rw [setBits_getLsbD, if_neg (by omega)]

theorem bitAt_setBits {n : Nat} (x : BitVec n) {lo j : Nat} (v : Nat) (h : j = lo) (hn : lo < n) :
    bitAt (setBits x lo 1 v) j = v.testBit 0 := by
  subst h
  unfold bitAt
  rw [setBits_getLsbD, if_pos (by omega)]
  simp [hn]

end Sys2Proof
end

