-- ==== Sys2Proof/Laws/Columns.lean ====
section
/-! SUPPORT. The free choice of the check matrices' columns makes codes that correct every single-bit error (R578, R597). -/

namespace Sys2Proof.Machine

/-- The columns chosen are among those offered, none twice. -/
theorem takeColumns_spec (pick : Nat → Nat) : ∀ (n : Nat) (cs : List Nat), cs.Nodup → n ≤ cs.length →
    (takeColumns pick n cs).Nodup ∧ (∀ c ∈ takeColumns pick n cs, c ∈ cs) ∧ (takeColumns pick n cs).length = n
  | 0, cs, _, _ => by simp [takeColumns]
  | n + 1, cs, hc, hn => by
    have hlt : pick n % cs.length < cs.length := Nat.mod_lt _ (by omega)
    have hm : cs.getD (pick n % cs.length) 0 ∈ cs := by
      rw [List.getD_eq_getElem _ _ hlt]
      exact List.getElem_mem hlt
    obtain ⟨h1, h2, h3⟩ := takeColumns_spec pick n (cs.erase (cs.getD (pick n % cs.length) 0)) (hc.erase _)
      (by rw [List.length_erase_of_mem hm]; omega)
    refine ⟨?_, ?_, congrArg (· + 1) h3⟩
    · simp only [takeColumns, List.nodup_cons]
      exact ⟨fun h => absurd rfl (hc.mem_erase_iff.mp (h2 _ h)).1, h1⟩
    · intro c h
      rcases List.mem_cons.mp h with rfl | h
      · exact hm
      · exact List.mem_of_mem_erase (h2 c h)

/-- The first of `m` columns that equals the one of bit `i` is that one, where no two are equal. -/
theorem find_column {n m : Nat} (f : Nat → BitVec n) (inj : ∀ i j, i < m → j < m → f i = f j → i = j) (i : Nat) (hi : i < m) :
    (List.range m).find? (fun j => f j == f i) = some i := by
  cases h : (List.range m).find? (fun j => f j == f i) with
  | none => exact absurd (List.find?_eq_none.mp h i (List.mem_range.mpr hi)) (by simp)
  | some j =>
    have hj := List.mem_range.mp (List.mem_of_find?_eq_some h)
    have he := List.find?_some h
    rw [inj j i hj hi (by simpa using he)]

/-- Columns of `k` data bits, taken from `columnsOf n`, and the unit columns of `n` check bits: no two are equal. -/
theorem columns_inj {n k : Nat} {cs : List Nat} (hn : cs.Nodup) (hl : cs.length = k) (hm : ∀ c ∈ cs, c ∈ columnsOf n)
    (hu : ∀ j < n, 2 ^ j ∉ columnsOf n) (i j : Nat) (hi : i < k + n) (hj : j < k + n)
    (h : (if i < k then BitVec.ofNat n (cs.getD i 0) else (1 : BitVec n) <<< (i - k)) =
      if j < k then BitVec.ofNat n (cs.getD j 0) else (1 : BitVec n) <<< (j - k)) : i = j := by
  have lt : ∀ i, (hi : i < k) → cs.getD i 0 = cs[i]'(by omega) ∧ cs[i]'(by omega) ∈ columnsOf n ∧ cs[i]'(by omega) < 2 ^ n := by
    intro i hi
    have m := hm _ (List.getElem_mem (l := cs) (n := i) (by omega))
    exact ⟨List.getD_eq_getElem _ _ (by omega), m, List.mem_range.mp (List.mem_filter.mp m).1⟩
  have unit : ∀ i, ¬i < k → i < k + n → ((1 : BitVec n) <<< (i - k)).toNat = 2 ^ (i - k) := by
    intro i h1 h2
    have : 2 ^ (i - k) < 2 ^ n := Nat.pow_lt_pow_right (by omega) (by omega)
    have h1' : (1 : BitVec n).toNat = 1 := by simp [BitVec.toNat_one (by omega : 0 < n)]
    rw [BitVec.toNat_shiftLeft, h1', Nat.one_shiftLeft, Nat.mod_eq_of_lt this]
  have e := congrArg BitVec.toNat h
  by_cases h1 : i < k <;> by_cases h2 : j < k
  · obtain ⟨a1, -, a3⟩ := lt i h1
    obtain ⟨b1, -, b3⟩ := lt j h2
    simp only [h1, h2, if_true, BitVec.toNat_ofNat, a1, b1, Nat.mod_eq_of_lt a3, Nat.mod_eq_of_lt b3] at e
    exact (List.Nodup.getElem_inj_iff hn).mp e
  · obtain ⟨a1, a2, a3⟩ := lt i h1
    simp only [h1, h2, if_true, if_false, BitVec.toNat_ofNat, a1, Nat.mod_eq_of_lt a3, unit j h2 hj] at e
    exact absurd (e ▸ a2) (hu _ (by omega))
  · obtain ⟨a1, a2, a3⟩ := lt j h2
    simp only [h1, h2, if_true, if_false, BitVec.toNat_ofNat, a1, Nat.mod_eq_of_lt a3, unit i h1 hi] at e
    exact absurd (e ▸ a2) (hu _ (by omega))
  · simp only [h1, h2, if_false, unit i h1 hi, unit j h2 hj] at e
    have := Nat.pow_right_injective (le_refl 2) e
    omega

theorem dataCols_spec : dataCols.Nodup ∧ (∀ c ∈ dataCols, c ∈ columnsOf 7) ∧ dataCols.length = 32 :=
  takeColumns_spec _ _ _ (List.nodup_range.filter _) (by decide +kernel)

theorem bkCols_spec : bkCols.Nodup ∧ (∀ c ∈ bkCols, c ∈ columnsOf 8) ∧ bkCols.length = 64 :=
  takeColumns_spec _ _ _ (List.nodup_range.filter _) (by decide +kernel)

/-- Bit `i` of a stored data word alone in error: it is found (R578). -/
theorem decData_dataColumn (i : Nat) (hi : i < 39) : decData (dataColumn i) = .single i := by
  have hf := find_column dataColumn
    (fun i j hi hj h => columns_inj (k := 32) dataCols_spec.1 dataCols_spec.2.2 dataCols_spec.2.1 (by decide +kernel) i j hi hj h) i hi
  have hz : dataColumn i ≠ 0 ∧ dataColumn i ≠ 0x7F := by
    unfold dataColumn dataCol
    split
    · next h =>
      have m := dataCols_spec.2.1 _ (List.getElem_mem (l := dataCols) (n := i) (by rw [dataCols_spec.2.2]; exact h))
      rw [List.getD_eq_getElem _ _ (by rw [dataCols_spec.2.2]; exact h)]
      generalize dataCols[i]'(by rw [dataCols_spec.2.2]; exact h) = c at m
      revert c
      decide +kernel
    · next h =>
      have : i - 32 < 7 := by omega
      generalize i - 32 = j at this
      revert j
      decide +kernel
  unfold decData
  rw [if_neg hz.1, if_neg hz.2, hf]

/-- Bit `i` of a bookkeeping word alone in error: it is found (R597). -/
theorem decBk_bkColumn (i : Nat) (hi : i < 72) : decBk (bkColumn i) = .single i := by
  have hf := find_column bkColumn
    (fun i j hi hj h => columns_inj (k := 64) bkCols_spec.1 bkCols_spec.2.2 bkCols_spec.2.1 (by decide +kernel) i j hi hj h) i hi
  have hz : bkColumn i ≠ 0 := by
    unfold bkColumn bkCol
    split
    · next h =>
      have m := bkCols_spec.2.1 _ (List.getElem_mem (l := bkCols) (n := i) (by rw [bkCols_spec.2.2]; exact h))
      rw [List.getD_eq_getElem _ _ (by rw [bkCols_spec.2.2]; exact h)]
      generalize bkCols[i]'(by rw [bkCols_spec.2.2]; exact h) = c at m
      revert c
      decide +kernel
    · next h =>
      have : i - 64 < 8 := by omega
      generalize i - 64 = j at this
      revert j
      decide +kernel
  unfold decBk
  rw [if_neg hz, hf]

end Sys2Proof.Machine
end

