-- ==== Sys2Proof/Laws/Sparse.lean ====
section
/-! SUPPORT. Sparse maps: reading after writing, and the canonical form kept by every operation. -/

namespace Sys2Proof.Machine

variable {α : Type}

/-! ### The canonical form -/

@[simp] theorem Sparse.wfFrom_nil [DecidableEq α] (d : Nat → α) (lo : Nat) : Sparse.wfFrom d lo [] = true := rfl

theorem Sparse.wfFrom_cons [DecidableEq α] {d : Nat → α} {lo k : Nat} {v : α} {r : List (Nat × α)} :
    Sparse.wfFrom d lo ((k, v) :: r) = true ↔ lo ≤ k ∧ v ≠ d k ∧ Sparse.wfFrom d (k + 1) r = true := by
  simp [Sparse.wfFrom, and_assoc]

theorem Sparse.wfFrom_mono [DecidableEq α] {d : Nat → α} {lo lo' : Nat} {m : List (Nat × α)} (h : lo' ≤ lo)
    (w : Sparse.wfFrom d lo m = true) : Sparse.wfFrom d lo' m = true := by
  cases m with
  | nil => rfl
  | cons p r =>
    obtain ⟨k, v⟩ := p
    rw [Sparse.wfFrom_cons] at w ⊢
    exact ⟨by omega, w.2⟩

/-- Below the first key a canonical map reads as nothing listed. -/
theorem Sparse.get_below [DecidableEq α] {d : Nat → α} {lo k : Nat} {m : List (Nat × α)} (w : Sparse.wfFrom d lo m = true)
    (h : k < lo) : Sparse.get d m k = d k := by
  induction m generalizing lo with
  | nil => rfl
  | cons p r ih =>
    obtain ⟨k', v⟩ := p
    rw [Sparse.wfFrom_cons] at w
    simp only [Sparse.get, show k' ≠ k by omega, if_false]
    exact ih w.2.2 (by omega)

/-! ### Reading after writing -/

theorem Sparse.get_insert (d : Nat → α) (m : List (Nat × α)) (k j : Nat) (v : α) :
    Sparse.get d (Sparse.insert m k v) j = if j = k then v else Sparse.get d m j := by
  by_cases c : j = k
  · subst c
    induction m with
    | nil => simp [Sparse.insert, Sparse.get]
    | cons p r ih =>
      obtain ⟨k', v'⟩ := p
      simp only [Sparse.insert]
      split
      · simp [Sparse.get]
      · split
        · simp [Sparse.get]
        · simp only [Sparse.get, ih]
          simp [show ¬ k' = j by omega]
  · have c' : ¬ k = j := fun h => c h.symm
    induction m with
    | nil => simp [Sparse.insert, Sparse.get, c, c']
    | cons p r ih =>
      obtain ⟨k', v'⟩ := p
      simp only [Sparse.insert]
      split
      · simp [Sparse.get, c']
      · split
        · next h => subst h; simp [Sparse.get, c']
        · simp only [Sparse.get, ih, c, if_false]

theorem Sparse.get_erase (d : Nat → α) (m : List (Nat × α)) (k j : Nat) :
    Sparse.get d (Sparse.erase m k) j = if j = k then d k else Sparse.get d m j := by
  induction m with
  | nil => simp only [Sparse.erase, Sparse.get]; split <;> simp_all
  | cons p r ih =>
    obtain ⟨k', v'⟩ := p
    by_cases c : j = k
    · subst c
      simp only [Sparse.erase]
      split
      · simp [ih]
      · simp [Sparse.get, ih, *]
    · simp only [Sparse.erase]
      split
      · next h => rw [ih]; simp [Sparse.get, c, h, Ne.symm c]
      · simp only [Sparse.get, ih, c, if_false]

variable [DecidableEq α]

/-- Reading one key after writing another or the same. -/
theorem Sparse.get_set (d : Nat → α) (m : List (Nat × α)) (k j : Nat) (v : α) :
    Sparse.get d (Sparse.set d m k v) j = if j = k then v else Sparse.get d m j := by
  unfold Sparse.set
  split
  · next h => rw [Sparse.get_erase, h]
  · exact Sparse.get_insert ..

@[simp] theorem Sparse.get_set_same (d : Nat → α) (m : List (Nat × α)) (k : Nat) (v : α) :
    Sparse.get d (Sparse.set d m k v) k = v := by simp [Sparse.get_set]

theorem Sparse.get_set_other (d : Nat → α) (m : List (Nat × α)) {k j : Nat} (v : α) (h : j ≠ k) :
    Sparse.get d (Sparse.set d m k v) j = Sparse.get d m j := by simp [Sparse.get_set, h]

/-! ### Writing keeps the form -/

theorem Sparse.insert_wfFrom {d : Nat → α} {lo : Nat} {m : List (Nat × α)} (w : Sparse.wfFrom d lo m = true) {k : Nat} {v : α}
    (hk : lo ≤ k) (hv : v ≠ d k) : Sparse.wfFrom d lo (Sparse.insert m k v) = true := by
  induction m generalizing lo with
  | nil => simp [Sparse.insert, Sparse.wfFrom_cons, hk, hv]
  | cons p r ih =>
    obtain ⟨k', v'⟩ := p
    rw [Sparse.wfFrom_cons] at w
    simp only [Sparse.insert]
    split
    · simp only [Sparse.wfFrom_cons]; exact ⟨hk, hv, by omega, w.2⟩
    · split
      · next h => subst h; simp only [Sparse.wfFrom_cons]; exact ⟨hk, hv, w.2.2⟩
      · rw [Sparse.wfFrom_cons]; exact ⟨w.1, w.2.1, ih w.2.2 (by omega)⟩

theorem Sparse.erase_wfFrom {d : Nat → α} {lo : Nat} {m : List (Nat × α)} (w : Sparse.wfFrom d lo m = true) (k : Nat) :
    Sparse.wfFrom d lo (Sparse.erase m k) = true := by
  induction m generalizing lo with
  | nil => rfl
  | cons p r ih =>
    obtain ⟨k', v'⟩ := p
    rw [Sparse.wfFrom_cons] at w
    simp only [Sparse.erase]
    split
    · exact Sparse.wfFrom_mono (by omega) (ih w.2.2)
    · rw [Sparse.wfFrom_cons]; exact ⟨w.1, w.2.1, ih w.2.2⟩

/-- A write keeps the canonical form. -/
theorem Sparse.set_wf {d : Nat → α} {m : List (Nat × α)} (w : Sparse.wf d m = true) (k : Nat) (v : α) :
    Sparse.wf d (Sparse.set d m k v) = true := by
  unfold Sparse.set
  split
  · exact Sparse.erase_wfFrom w k
  · next h => exact Sparse.insert_wfFrom w (Nat.zero_le _) h

theorem Sparse.setAll_wf {d : Nat → α} {m : List (Nat × α)} (w : Sparse.wf d m = true) (ws : List (Nat × α)) :
    Sparse.wf d (Sparse.setAll d m ws) = true := by
  unfold Sparse.setAll
  induction ws generalizing m with
  | nil => exact w
  | cons p r ih => exact ih (Sparse.set_wf w p.1 p.2)

/-- Two canonical maps that read alike everywhere are the same list. -/
theorem Sparse.ext_wf {d : Nat → α} {lo : Nat} {a b : List (Nat × α)} (ha : Sparse.wfFrom d lo a = true)
    (hb : Sparse.wfFrom d lo b = true) (h : ∀ k, Sparse.get d a k = Sparse.get d b k) : a = b := by
  induction a generalizing b lo with
  | nil =>
    cases b with
    | nil => rfl
    | cons p r =>
      obtain ⟨k, v⟩ := p
      rw [Sparse.wfFrom_cons] at hb
      have := h k
      simp [Sparse.get] at this
      exact absurd this.symm hb.2.1
  | cons p r ih =>
    obtain ⟨k, v⟩ := p
    have ha' := ha
    rw [Sparse.wfFrom_cons] at ha
    cases b with
    | nil =>
      have := h k
      simp [Sparse.get] at this
      exact absurd this ha.2.1
    | cons q t =>
      obtain ⟨j, u⟩ := q
      rw [Sparse.wfFrom_cons] at hb
      have hk := h k
      have hj := h j
      simp only [Sparse.get, if_true] at hk hj
      have hkj : k = j := by
        rcases Nat.lt_trichotomy k j with c | c | c
        · rw [if_neg (by omega), Sparse.get_below hb.2.2 (by omega)] at hk; exact absurd hk ha.2.1
        · exact c
        · rw [if_neg (by omega), Sparse.get_below ha.2.2 (by omega)] at hj; exact absurd hj.symm hb.2.1
      subst hkj
      simp at hk
      subst hk
      congr 1
      refine ih ha.2.2 hb.2.2 fun i => ?_
      rcases Nat.lt_or_ge i (k + 1) with c | c
      · rw [Sparse.get_below ha.2.2 c, Sparse.get_below hb.2.2 c]
      · have := h i
        simpa [Sparse.get, show k ≠ i by omega] using this

end Sys2Proof.Machine
end

