-- ==== Sys2Proof/Laws/Mem.lean ====
section
/-! SUPPORT. The data tier and the bookkeeping arrays: every operation keeps their canonical form, and a byte, a tag or a vector reads
back what was written to it and leaves every other one alone. -/

namespace Sys2Proof.Machine

/-! ### The canonical form -/

/-- The canonical form, array by array. -/
theorem Mem.wf_iff {m : Mem} : m.wf = true ↔
    Sparse.wf (fun _ => 0) m.tier = true ∧ Sparse.wf (fun _ => 0) m.chk = true ∧ Sparse.wf (fun _ => 0) m.tags = true ∧
    Sparse.wf (fun _ => 0) m.glw = true ∧ Sparse.wf (fun _ => 0) m.loan = true ∧ Sparse.wf (fun _ => 0) m.dir = true ∧
    Sparse.wf (fun _ => 0) m.bkchk = true ∧ Sparse.wf (fun _ => 0) m.pred = true := by
  simp [Mem.wf, and_assoc]

/-- The arrays after reset are canonical. -/
theorem Mem.empty_wf : Mem.empty.wf = true := rfl

theorem State.reset_mem_wf : State.reset.sl.mem.wf = true := rfl

theorem Mem.setByte_wf {m : Mem} (h : m.wf = true) (a : Nat) (v : Byte) : (m.setByte a v).wf = true := by
  simp only [Mem.wf_iff, Mem.setByte] at h ⊢; exact ⟨Sparse.set_wf h.1 .., h.2⟩

theorem Mem.setChk_wf {m : Mem} (h : m.wf = true) (a : Nat) (v : BitVec 7) : (m.setChk a v).wf = true := by
  simp only [Mem.wf_iff, Mem.setChk] at h ⊢; exact ⟨h.1, Sparse.set_wf h.2.1 .., h.2.2⟩

theorem Mem.setTag_wf {m : Mem} (h : m.wf = true) (way set : Nat) (v : Word) : (m.setTag way set v).wf = true := by
  simp only [Mem.wf_iff, Mem.setTag] at h ⊢; exact ⟨h.1, h.2.1, Sparse.set_wf h.2.2.1 .., h.2.2.2⟩

theorem Mem.setGlw_wf {m : Mem} (h : m.wf = true) (way set : Nat) (v : BitVec 24) : (m.setGlw way set v).wf = true := by
  simp only [Mem.wf_iff, Mem.setGlw] at h ⊢; exact ⟨h.1, h.2.1, h.2.2.1, Sparse.set_wf h.2.2.2.1 .., h.2.2.2.2⟩

theorem Mem.setLoan_wf {m : Mem} (h : m.wf = true) (way set : Nat) (v : BitVec 8) : (m.setLoan way set v).wf = true := by
  simp only [Mem.wf_iff, Mem.setLoan] at h ⊢; exact ⟨h.1, h.2.1, h.2.2.1, h.2.2.2.1, Sparse.set_wf h.2.2.2.2.1 .., h.2.2.2.2.2⟩

theorem Mem.setDirWord_wf {m : Mem} (h : m.wf = true) (set e i : Nat) (v : Word) : (m.setDirWord set e i v).wf = true := by
  simp only [Mem.wf_iff, Mem.setDirWord] at h ⊢
  exact ⟨h.1, h.2.1, h.2.2.1, h.2.2.2.1, h.2.2.2.2.1, Sparse.set_wf h.2.2.2.2.2.1 .., h.2.2.2.2.2.2⟩

theorem Mem.setBk_wf {m : Mem} (h : m.wf = true) (kind ix : Nat) (v : BitVec 8) : (m.setBk kind ix v).wf = true := by
  simp only [Mem.wf_iff, Mem.setBk] at h ⊢
  exact ⟨h.1, h.2.1, h.2.2.1, h.2.2.2.1, h.2.2.2.2.1, h.2.2.2.2.2.1, Sparse.set_wf h.2.2.2.2.2.2.1 .., h.2.2.2.2.2.2.2⟩

theorem Mem.flipBk_wf {m : Mem} (h : m.wf = true) (kind ix b : Nat) : (m.flipBk kind ix b).wf = true := by
  unfold Mem.flipBk
  split
  · simp only [Mem.wf_iff] at h ⊢; exact ⟨h.1, h.2.1, Sparse.set_wf h.2.2.1 .., h.2.2.2⟩
  · simp only [Mem.wf_iff] at h ⊢; exact ⟨h.1, h.2.1, h.2.2.1, Sparse.set_wf h.2.2.2.1 .., h.2.2.2.2⟩
  · simp only [Mem.wf_iff] at h ⊢; exact ⟨h.1, h.2.1, h.2.2.1, h.2.2.2.1, Sparse.set_wf h.2.2.2.2.1 .., h.2.2.2.2.2⟩
  · simp only [Mem.wf_iff] at h ⊢
    exact ⟨h.1, h.2.1, h.2.2.1, h.2.2.2.1, h.2.2.2.2.1, Sparse.set_wf h.2.2.2.2.2.1 .., h.2.2.2.2.2.2⟩

/-- A fold whose every step keeps the form keeps it. -/
theorem Mem.foldl_wf {α : Type} {f : Mem → α → Mem} (hf : ∀ m a, m.wf = true → (f m a).wf = true) {m : Mem} (h : m.wf = true)
    (l : List α) : (l.foldl f m).wf = true := by
  induction l generalizing m with
  | nil => exact h
  | cons a r ih => exact ih (hf m a h)

theorem Mem.writeLine_wf {m : Mem} (h : m.wf = true) (way set : Nat) (d : LineData) (mask : BitVec 128) :
    (m.writeLine way set d mask).wf = true := by
  refine Mem.foldl_wf (fun m b h => ?_) h _
  split
  · exact Mem.setChk_wf (Mem.setByte_wf h ..) ..
  · exact h

theorem Mem.setWord_wf {m : Mem} (h : m.wf = true) (wi : Nat) (v : BitVec 32) : (m.setWord wi v).wf = true :=
  Mem.foldl_wf (fun _ _ h => Mem.setByte_wf h ..) h _

theorem Mem.poisonSector_wf {m : Mem} (h : m.wf = true) (way set sec cause : Nat) : (m.poisonSector way set sec cause).wf = true :=
  Mem.foldl_wf (fun _ _ h => Mem.setChk_wf (Mem.setWord_wf h ..) ..) h _

theorem Mem.vtSetNum_wf {m : Mem} (h : m.wf = true) (o n v : Nat) : (m.vtSetNum o n v).wf = true :=
  Mem.foldl_wf (fun _ _ h => Mem.setByte_wf h ..) h _

theorem Slice.fillSectors_wf {s : Slice} (h : s.mem.wf = true) (way set : Nat) (d : LineData) (pz : BitVec 12) (ss : Nat) :
    (s.fillSectors way set d pz ss).mem.wf = true := by
  refine Mem.foldl_wf (fun m b h => ?_) h _
  split
  · exact h
  · split
    · exact Mem.poisonSector_wf h ..
    · exact Mem.writeLine_wf h ..

/-- The arrays after a store of a request's bytes. -/
theorem Slice.storeBytes_wf {s : Slice} (h : s.mem.wf = true) (way set : Nat) (d : LineData) (mask : BitVec 128) (pz : BitVec 12)
    (cv : Bool) : (s.storeBytes way set d mask pz cv).mem.wf = true := by
  have key : ∀ (l : List Nat) (p : Mem × Bool), p.1.wf = true → (l.foldl (fun (p : Mem × Bool) sec =>
      if !(touched mask).testBit sec then p
      else
        let (m, lost) := p
        if m.storedPoison way set sec != 0 && !(covered mask).testBit sec then
          (if cv && causeAt pz sec != 0 then m.poisonSector way set sec (causeAt pz sec) else m, true)
        else if causeAt pz sec != 0 then (m.poisonSector way set sec (causeAt pz sec), lost)
        else (m.writeLine way set d (mask &&& sectorMask sec), lost)) p).1.wf = true := by
    intro l
    induction l with
    | nil => exact fun p hp => hp
    | cons a r ih =>
      intro p hp
      refine ih _ ?_
      obtain ⟨m, lost⟩ := p
      dsimp only
      split
      · exact hp
      · split
        · dsimp only
          split
          · exact Mem.poisonSector_wf hp way set a _
          · exact hp
        · split
          · exact Mem.poisonSector_wf hp way set a _
          · dsimp only
            exact Mem.writeLine_wf hp way set d _
  have k := key (List.range 4) (s.mem, false) h
  revert k
  unfold Slice.storeBytes
  dsimp only
  generalize (List.range 4).foldl _ (s.mem, false) = p
  intro k
  split <;> exact k

/-! ### Reading after writing -/

theorem Mem.byte_setByte (m : Mem) (a b : Nat) (v : Byte) : (m.setByte a v).byte b = if b = a then v else m.byte b :=
  Sparse.get_set ..

@[simp] theorem Mem.byte_setChk (m : Mem) (a b : Nat) (v : BitVec 7) : (m.setChk a v).byte b = m.byte b := rfl
@[simp] theorem Mem.byte_setTag (m : Mem) (w n : Nat) (v : Word) (b : Nat) : (m.setTag w n v).byte b = m.byte b := rfl
@[simp] theorem Mem.byte_setGlw (m : Mem) (w n : Nat) (v : BitVec 24) (b : Nat) : (m.setGlw w n v).byte b = m.byte b := rfl
@[simp] theorem Mem.byte_setLoan (m : Mem) (w n : Nat) (v : BitVec 8) (b : Nat) : (m.setLoan w n v).byte b = m.byte b := rfl

theorem Mem.chkAt_setChk (m : Mem) (a b : Nat) (v : BitVec 7) : (m.setChk a v).chkAt b = if b = a then v else m.chkAt b :=
  Sparse.get_set ..

/-- Two places of the tag arrays are the same one only for the same way and set. -/
theorem wsIx_inj {w w' n n' : Nat} (hn : n < 8192) (hn' : n' < 8192) : wsIx w n = wsIx w' n' ↔ w = w' ∧ n = n' := by
  unfold wsIx; omega

theorem Mem.tag_setTag (m : Mem) (w n w' n' : Nat) (v : Word) :
    (m.setTag w n v).tag w' n' = if wsIx w' n' = wsIx w n then v else m.tag w' n' :=
  Sparse.get_set ..

theorem Mem.loanAt_setLoan (m : Mem) (w n w' n' : Nat) (v : BitVec 8) :
    (m.setLoan w n v).loanAt w' n' = if wsIx w' n' = wsIx w n then v else m.loanAt w' n' :=
  Sparse.get_set ..

/-- A byte of a line that `writeLine` stores: the new byte where the mask selects it, and every other byte of the tier as before. -/
theorem Mem.byte_writeLine (m : Mem) (way set : Nat) (d : LineData) (mask : BitVec 128) (a : Nat) :
    (m.writeLine way set d mask).byte a =
      if tierIx way set 0 ≤ a ∧ a < tierIx way set 128 ∧ bitAt mask (a - tierIx way set 0) = true
      then lineByte d (a - tierIx way set 0) else m.byte a := by
  unfold Mem.writeLine
  have key : ∀ n, n ≤ 128 → let m' := ((List.range n).foldl (fun m b =>
      if bitAt mask b then (m.setByte (tierIx way set b) (lineByte d b)).setChk (tierIx way set b / 4) 0 else m) m)
      m'.byte a = if tierIx way set 0 ≤ a ∧ a < tierIx way set n ∧ bitAt mask (a - tierIx way set 0) = true
        then lineByte d (a - tierIx way set 0) else m.byte a := by
    intro n
    induction n with
    | zero =>
      intro _
      simp only [List.range_zero, List.foldl_nil]
      rw [if_neg (by omega)]
    | succ n ih =>
      intro hn
      have hb := ih (by omega)
      simp only [List.range_succ, List.foldl_append, List.foldl_cons, List.foldl_nil]
      have e : tierIx way set (n + 1) = tierIx way set n + 1 := by unfold tierIx; omega
      have e0 : tierIx way set n = tierIx way set 0 + n := by unfold tierIx; omega
      split
      · next hm =>
        rw [Mem.byte_setChk, Mem.byte_setByte, hb]
        split
        · next ha =>
          have hs : a - tierIx way set 0 = n := by omega
          rw [if_pos ⟨by omega, by omega, by rw [hs]; exact hm⟩, hs]
        · next ha =>
          by_cases c : tierIx way set 0 ≤ a ∧ a < tierIx way set n ∧ bitAt mask (a - tierIx way set 0) = true
          · rw [if_pos c, if_pos ⟨c.1, by omega, c.2.2⟩]
          · rw [if_neg c, if_neg (fun q => c ⟨q.1, by omega, q.2.2⟩)]
      · next hm =>
        rw [hb]
        by_cases c : tierIx way set 0 ≤ a ∧ a < tierIx way set n ∧ bitAt mask (a - tierIx way set 0) = true
        · rw [if_pos c, if_pos ⟨c.1, by omega, c.2.2⟩]
        · rw [if_neg c, if_neg]
          rintro ⟨q1, q2, q3⟩
          have : a ≠ tierIx way set n := by
            intro ha
            apply hm
            have hs : a - tierIx way set 0 = n := by omega
            rw [hs] at q3; exact q3
          exact c ⟨q1, by omega, q3⟩
  exact key 128 (Nat.le_refl _)

end Sys2Proof.Machine
end

