-- ==== Sys2Proof/WellFormed.lean ====
section
/-! DEFINITION. Which commands are well formed: each carries operands that its row of the command table can carry. A command that fails
one of these checks never reaches a slice; the meanings do not rely on the checks. -/

namespace Sys2Proof

/-- The access carries a 1 for bit `i` of the register (R14: a 32-bit access carries its half in the low 32 bits). -/
def CtAcc.carries (a : CtAcc) (i : Nat) : Bool :=
  if !a.half then bitAt a.data i
  else if a.upper then decide (32 ≤ i) && bitAt a.data (i - 32)
  else decide (i < 32) && bitAt a.data i

/-- The access writes a 1 to a one-bit field. -/
def CtAcc.sets (a : CtAcc) (f : Machine.Fld) : Bool := a.carries f.lo

/-- The codes that R512 reserves, and TINV, which no slice takes on MQ (R513). -/
def opcodeReserved (c : BitVec 6) : Bool :=
  c == 0x16 || (decide (0x17 ≤ c.toNat) && decide (c.toNat ≤ 0x1F)) || c == 0x3E || c == 0x3F

/-- The opcodes that carry a data line (R512). -/
def carriesData : Op → Bool
  | .wr | .wrrel | .cwr | .vwr | .vcwr | .cmdwr | .grpctl | .redc | .redn | .cntwr | .sealwr | .pxwr | .atom _ _ => true
  | _ => false

/-- A presented request: the other pipe is named only for a data-carrying request it presents in the same cycle (R517), and a request
that arrives over DD uses no pipe and no credit (R538). -/
def Req.wf (r : Req) : Bool :=
  match r.via with
  | .mq => r.peer.all fun p => carriesData p.op
  | .dd _ => r.peer.isNone && !r.cred

/-- CMD of a GRPCTL descriptor (R266): bits [3:0] of its first word. -/
def Req.grpCmd (r : Req) : Nat := getBits r.data 0 4

/-- A group-control command is of the row its descriptor names: CLOSE 2 and ABORT 3; every other code, OPEN's 1 among them, is of row
OPEN, which refuses the codes that R266 does not name. -/
def GrpReq.wf (q : GrpReq) (ok : Nat → Bool) : Bool :=
  match q with
  | .mesh r => r.wf && ok r.grpCmd
  | .staged _ => true

/-- A reply names one of its parts (R525). -/
def RepMsg.wf (m : RepMsg) : Bool := m.npart = 0 || m.part.toNat < m.npart.toNat

open Machine in
/-- The command is one that its row can carry. -/
def Instr.wf : Instr → Bool
  | .rd r | .rdc r | .rdacq r | .wr r | .wrrel r | .fence r | .flush r | .crd r | .cwr r | .vrd r | .vwr r | .vcrd r | .vcwr r
  | .cmdwr r | .redc r | .redn r | .cntwr r | .sealwr r | .accinc r | .pxrd r | .pxwr r
  | .swap r | .cas r | .add r | .smax r | .smin r | .umax r | .umin r | .band r | .bor r | .bxor r | .fadd r
  | .lswap r | .lcstore r | .ladd r | .land r | .lor r | .lxor r
  | .addP r | .smaxP r | .sminP r | .umaxP r | .uminP r | .bandP r | .borP r | .bxorP r | .faddP r
  | .laddP r | .landP r | .lorP r | .lxorP r => r.wf
  | .reservedOpcode c r => opcodeReserved c && r.wf
  | .openGrp q => q.wf fun c => c != 2 && c != 3
  | .closeGrp q => q.wf fun c => c == 2
  | .abortGrp q => q.wf fun c => c == 3
  | .ddReply m | .forwardReply m | .sealReleaseReply m | .proxyReply m | .bulkLineReply m | .issuedReply m => m.wf
  | .tileInvAck tile _ => tile.toNat < 144
  | .hcReadBeat otag _ _ => otag.toNat < 96
  | .translationDone va pa => pa.toNat < 2 ^ 52 && va.toNat % 4096 == pa.toNat % 4096
  | .ctMsgReserved w => getBits w 28 4 != 1
  | .blkCtlPause a => !a.sets NS_BLK_CTL.ABORT
  | .blkCtlAbort a => a.sets NS_BLK_CTL.ABORT
  | .idlereq a => !a.sets NS_RC_BLK.GO
  | .blockResetGo a => a.sets NS_RC_BLK.GO
  | .prep a => a.sets NS_CH_MAPCTL.PREP
  | .save a => a.sets NS_CH_MAPCTL.SAVE
  | .qset a => a.sets NS_ECC_QUAR.QSET
  | .qclr a => a.sets NS_ECC_QUAR.QCLR
  | .rawrd a => a.sets NS_ECC_CBCTL.RAWRD
  | .rawwr a => a.sets NS_ECC_CBCTL.RAWWR
  | .waychgGo _ | .distCtlWrite _ | .vtRegionWrite _ _ | .fpWinWrite _ _ _ | .predclr _ | .dirReclaimGo _ | .deadmaskWrite _
  | .accnTargetWrite _ _ | .budgetWrite _ _ | .rcWbGo _ | .credrel _ | .fwifGo _ | .maplistWrite _ | .pop _ | .pvSpillWrite _
  | .irqSet _ | .diagGo _ | .registerWrite _ _ _ | .registerRead _ _ _
  | .fill | .copy | .snapshotSave | .snapshotRestore | .scatterReduce | .binv
  | .rdS _ | .rdX _ | .upg _ | .wb _ | .evc _ | .atom _ _ | .snpAck _ _ _ _ | .compAck _ | .snpData _ _ _ | .wbData _ _ _
  | .memData _ _ _ | .dinv _ _ | .invConfirm _ _ | .hcCreditReturn | .mrCreditReturn | .moCreditReturn | .lwCreditReturn _
  | .ddCreditReturn _ _ | .iommuFault _ | .bulkCommandStart | .bulkLineIssue | .bulkPreempt | .completionRecord _
  | .drainWalkStep | .waychgDone | .groupInitDone _ | .arrivalCombined | .epilogueStart _ | .epilogueDone _ | .reclaimDone
  | .snoopTimeout _ | .creditTimeout _ | .regWindowStart | .slackZero _ _ _ | .serviceGrant _ | .replyBeat | .sclkDivChange
  | .sleepEnter | .wake | .resleep | .frz | .purge _ _ | .purgeDone | .hang _ | .orphanEntryExpire _ | .blockResetProceed
  | .rcWbDone | .powerOnReset | .packageReset | .computeReset | .glitch | .resetEnd | .clockIslandRelease | .tagDirectorySweep
  | .dataTierPortRelease | .memoryPortRelease | .meshPortRelease | .lclPortRelease | .snoopRecovery | .balanceValid
  | .retrainEnter | .channelNormal | .channelLost | .retrainTimeout | .prepDone | .saveDone | .scrubVisit | .spillEntry
  | .diagDone | .sclkCycle | .frzFall | .standbyPowerUp | .sclkRunsAgain => true

/-! ### What a command carries -/

/-- The requests a command carries. -/
def Instr.reqs : Instr → List Req
  | .rd r | .rdc r | .rdacq r | .wr r | .wrrel r | .fence r | .flush r | .crd r | .cwr r | .vrd r | .vwr r | .vcrd r
  | .vcwr r | .cmdwr r | .redc r | .redn r | .cntwr r | .sealwr r | .accinc r | .pxrd r | .pxwr r
  | .reservedOpcode _ r | .swap r | .cas r | .add r | .smax r | .smin r | .umax r | .umin r | .band r | .bor r
  | .bxor r | .fadd r | .lswap r | .lcstore r | .ladd r | .land r | .lor r | .lxor r | .addP r | .smaxP r | .sminP r
  | .umaxP r | .uminP r | .bandP r | .borP r | .bxorP r | .faddP r | .laddP r | .landP r | .lorP r | .lxorP r => [r]
  | .openGrp q | .closeGrp q | .abortGrp q => match q with
    | .mesh r => [r]
    | .staged _ => []
  | .ddReply _ | .forwardReply _ | .sealReleaseReply _ | .proxyReply _ | .bulkLineReply _ | .issuedReply _ | .fill
  | .copy | .snapshotSave | .snapshotRestore | .scatterReduce | .binv | .rdS _ | .rdX _ | .upg _ | .wb _ | .evc _
  | .atom _ _ | .snpAck _ _ _ _ | .compAck _ | .snpData _ _ _ | .wbData _ _ _ | .memData _ _ _ | .dinv _ _
  | .invConfirm _ _ | .tileInvAck _ _ | .hcReadBeat _ _ _ | .hcCreditReturn | .mrCreditReturn | .moCreditReturn
  | .lwCreditReturn _ | .ddCreditReturn _ _ | .translationDone _ _ | .iommuFault _ | .bulkCommandStart
  | .bulkLineIssue | .bulkPreempt | .completionRecord _ | .blkCtlPause _ | .blkCtlAbort _ | .waychgGo _
  | .drainWalkStep | .waychgDone | .distCtlWrite _ | .vtRegionWrite _ _ | .fpWinWrite _ _ _ | .groupInitDone _
  | .arrivalCombined | .epilogueStart _ | .epilogueDone _ | .predclr _ | .dirReclaimGo _ | .reclaimDone
  | .deadmaskWrite _ | .snoopTimeout _ | .creditTimeout _ | .accnTargetWrite _ _ | .regWindowStart | .slackZero _ _ _
  | .serviceGrant _ | .budgetWrite _ _ | .replyBeat | .sclkDivChange | .sleepEnter | .wake | .resleep | .frz
  | .ctMsgReserved _ | .purge _ _ | .purgeDone | .hang _ | .orphanEntryExpire _ | .idlereq _ | .blockResetGo _
  | .blockResetProceed | .rcWbGo _ | .rcWbDone | .credrel _ | .fwifGo _ | .powerOnReset | .packageReset
  | .computeReset | .glitch | .resetEnd | .clockIslandRelease | .tagDirectorySweep | .dataTierPortRelease
  | .memoryPortRelease | .meshPortRelease | .lclPortRelease | .snoopRecovery | .balanceValid | .retrainEnter
  | .channelNormal | .channelLost | .retrainTimeout | .maplistWrite _ | .prep _ | .prepDone | .save _ | .saveDone
  | .scrubVisit | .qset _ | .qclr _ | .rawrd _ | .rawwr _ | .pop _ | .spillEntry | .pvSpillWrite _ | .irqSet _
  | .diagGo _ | .diagDone | .registerWrite _ _ _ | .registerRead _ _ _ | .sclkCycle | .frzFall | .standbyPowerUp
  | .sclkRunsAgain => []

/-- The replies a command carries. -/
def Instr.reps : Instr → List RepMsg
  | .ddReply m | .forwardReply m | .sealReleaseReply m | .proxyReply m | .bulkLineReply m | .issuedReply m => [m]
  | .rd _ | .rdc _ | .rdacq _ | .wr _ | .wrrel _ | .fence _ | .flush _ | .crd _ | .cwr _ | .vrd _ | .vwr _ | .vcrd _
  | .vcwr _ | .cmdwr _ | .fill | .copy | .snapshotSave | .snapshotRestore | .scatterReduce | .binv | .openGrp _
  | .closeGrp _ | .abortGrp _ | .redc _ | .redn _ | .cntwr _ | .sealwr _ | .accinc _ | .pxrd _ | .pxwr _
  | .reservedOpcode _ _ | .swap _ | .cas _ | .add _ | .smax _ | .smin _ | .umax _ | .umin _ | .band _ | .bor _
  | .bxor _ | .fadd _ | .lswap _ | .lcstore _ | .ladd _ | .land _ | .lor _ | .lxor _ | .addP _ | .smaxP _ | .sminP _
  | .umaxP _ | .uminP _ | .bandP _ | .borP _ | .bxorP _ | .faddP _ | .laddP _ | .landP _ | .lorP _ | .lxorP _
  | .rdS _ | .rdX _ | .upg _ | .wb _ | .evc _ | .atom _ _ | .snpAck _ _ _ _ | .compAck _ | .snpData _ _ _
  | .wbData _ _ _ | .memData _ _ _ | .dinv _ _ | .invConfirm _ _ | .tileInvAck _ _ | .hcReadBeat _ _ _
  | .hcCreditReturn | .mrCreditReturn | .moCreditReturn | .lwCreditReturn _ | .ddCreditReturn _ _
  | .translationDone _ _ | .iommuFault _ | .bulkCommandStart | .bulkLineIssue | .bulkPreempt | .completionRecord _
  | .blkCtlPause _ | .blkCtlAbort _ | .waychgGo _ | .drainWalkStep | .waychgDone | .distCtlWrite _
  | .vtRegionWrite _ _ | .fpWinWrite _ _ _ | .groupInitDone _ | .arrivalCombined | .epilogueStart _ | .epilogueDone _
  | .predclr _ | .dirReclaimGo _ | .reclaimDone | .deadmaskWrite _ | .snoopTimeout _ | .creditTimeout _
  | .accnTargetWrite _ _ | .regWindowStart | .slackZero _ _ _ | .serviceGrant _ | .budgetWrite _ _ | .replyBeat
  | .sclkDivChange | .sleepEnter | .wake | .resleep | .frz | .ctMsgReserved _ | .purge _ _ | .purgeDone | .hang _
  | .orphanEntryExpire _ | .idlereq _ | .blockResetGo _ | .blockResetProceed | .rcWbGo _ | .rcWbDone | .credrel _
  | .fwifGo _ | .powerOnReset | .packageReset | .computeReset | .glitch | .resetEnd | .clockIslandRelease
  | .tagDirectorySweep | .dataTierPortRelease | .memoryPortRelease | .meshPortRelease | .lclPortRelease
  | .snoopRecovery | .balanceValid | .retrainEnter | .channelNormal | .channelLost | .retrainTimeout
  | .maplistWrite _ | .prep _ | .prepDone | .save _ | .saveDone | .scrubVisit | .qset _ | .qclr _ | .rawrd _
  | .rawwr _ | .pop _ | .spillEntry | .pvSpillWrite _ | .irqSet _ | .diagGo _ | .diagDone | .registerWrite _ _ _
  | .registerRead _ _ _ | .sclkCycle | .frzFall | .standbyPowerUp | .sclkRunsAgain => []

end Sys2Proof
end

