-- ==== Sys2Proof/Laws/PerInstr.lean ====
section
/-! SUPPORT. The family Fields: a well-formed command carries well-formed requests and replies. -/

namespace Sys2Proof.Laws.Fields

open Sys2Proof

/-- Every request and every reply that a well-formed command carries is well formed. -/
def Statement (i : Instr) : Prop := i.wf = true → (∀ r ∈ i.reqs, r.wf = true) ∧ (∀ m ∈ i.reps, m.wf = true)

theorem of_one_req {r : Req} (h : r.wf = true) :
    (∀ q ∈ [r], q.wf = true) ∧ (∀ m ∈ ([] : List RepMsg), m.wf = true) := by simpa using h

theorem of_one_rep {m : RepMsg} (h : m.wf = true) :
    (∀ q ∈ ([] : List Req), q.wf = true) ∧ (∀ k ∈ [m], k.wf = true) := by simpa using h

theorem of_none : (∀ q ∈ ([] : List Req), q.wf = true) ∧ (∀ m ∈ ([] : List RepMsg), m.wf = true) := by simp

theorem rd (r : Req) : Statement (.rd r) := fun h => of_one_req h

theorem rdc (r : Req) : Statement (.rdc r) := fun h => of_one_req h

theorem rdacq (r : Req) : Statement (.rdacq r) := fun h => of_one_req h

theorem wr (r : Req) : Statement (.wr r) := fun h => of_one_req h

theorem wrrel (r : Req) : Statement (.wrrel r) := fun h => of_one_req h

theorem fence (r : Req) : Statement (.fence r) := fun h => of_one_req h

theorem flush (r : Req) : Statement (.flush r) := fun h => of_one_req h

theorem crd (r : Req) : Statement (.crd r) := fun h => of_one_req h

theorem cwr (r : Req) : Statement (.cwr r) := fun h => of_one_req h

theorem vrd (r : Req) : Statement (.vrd r) := fun h => of_one_req h

theorem vwr (r : Req) : Statement (.vwr r) := fun h => of_one_req h

theorem vcrd (r : Req) : Statement (.vcrd r) := fun h => of_one_req h

theorem vcwr (r : Req) : Statement (.vcwr r) := fun h => of_one_req h

theorem cmdwr (r : Req) : Statement (.cmdwr r) := fun h => of_one_req h

theorem fill : Statement .fill := fun _ => of_none

theorem copy : Statement .copy := fun _ => of_none

theorem snapshotSave : Statement .snapshotSave := fun _ => of_none

theorem snapshotRestore : Statement .snapshotRestore := fun _ => of_none

theorem scatterReduce : Statement .scatterReduce := fun _ => of_none

theorem binv : Statement .binv := fun _ => of_none

theorem openGrp (g : GrpReq) : Statement (.openGrp g) := by
  intro h
  cases g with
  | mesh r => exact of_one_req (Bool.and_eq_true_iff.mp h).1
  | staged v => exact of_none

theorem closeGrp (g : GrpReq) : Statement (.closeGrp g) := by
  intro h
  cases g with
  | mesh r => exact of_one_req (Bool.and_eq_true_iff.mp h).1
  | staged v => exact of_none

theorem abortGrp (g : GrpReq) : Statement (.abortGrp g) := by
  intro h
  cases g with
  | mesh r => exact of_one_req (Bool.and_eq_true_iff.mp h).1
  | staged v => exact of_none

theorem redc (r : Req) : Statement (.redc r) := fun h => of_one_req h

theorem redn (r : Req) : Statement (.redn r) := fun h => of_one_req h

theorem cntwr (r : Req) : Statement (.cntwr r) := fun h => of_one_req h

theorem sealwr (r : Req) : Statement (.sealwr r) := fun h => of_one_req h

theorem accinc (r : Req) : Statement (.accinc r) := fun h => of_one_req h

theorem pxrd (r : Req) : Statement (.pxrd r) := fun h => of_one_req h

theorem pxwr (r : Req) : Statement (.pxwr r) := fun h => of_one_req h

theorem reservedOpcode (code : BitVec 6) (r : Req) : Statement (.reservedOpcode code r) := fun h =>
  of_one_req (Bool.and_eq_true_iff.mp h).2

theorem swap (r : Req) : Statement (.swap r) := fun h => of_one_req h

theorem cas (r : Req) : Statement (.cas r) := fun h => of_one_req h

theorem add (r : Req) : Statement (.add r) := fun h => of_one_req h

theorem smax (r : Req) : Statement (.smax r) := fun h => of_one_req h

theorem smin (r : Req) : Statement (.smin r) := fun h => of_one_req h

theorem umax (r : Req) : Statement (.umax r) := fun h => of_one_req h

theorem umin (r : Req) : Statement (.umin r) := fun h => of_one_req h

theorem band (r : Req) : Statement (.band r) := fun h => of_one_req h

theorem bor (r : Req) : Statement (.bor r) := fun h => of_one_req h

theorem bxor (r : Req) : Statement (.bxor r) := fun h => of_one_req h

theorem fadd (r : Req) : Statement (.fadd r) := fun h => of_one_req h

theorem lswap (r : Req) : Statement (.lswap r) := fun h => of_one_req h

theorem lcstore (r : Req) : Statement (.lcstore r) := fun h => of_one_req h

theorem ladd (r : Req) : Statement (.ladd r) := fun h => of_one_req h

theorem land (r : Req) : Statement (.land r) := fun h => of_one_req h

theorem lor (r : Req) : Statement (.lor r) := fun h => of_one_req h

theorem lxor (r : Req) : Statement (.lxor r) := fun h => of_one_req h

theorem addP (r : Req) : Statement (.addP r) := fun h => of_one_req h

theorem smaxP (r : Req) : Statement (.smaxP r) := fun h => of_one_req h

theorem sminP (r : Req) : Statement (.sminP r) := fun h => of_one_req h

theorem umaxP (r : Req) : Statement (.umaxP r) := fun h => of_one_req h

theorem uminP (r : Req) : Statement (.uminP r) := fun h => of_one_req h

theorem bandP (r : Req) : Statement (.bandP r) := fun h => of_one_req h

theorem borP (r : Req) : Statement (.borP r) := fun h => of_one_req h

theorem bxorP (r : Req) : Statement (.bxorP r) := fun h => of_one_req h

theorem faddP (r : Req) : Statement (.faddP r) := fun h => of_one_req h

theorem laddP (r : Req) : Statement (.laddP r) := fun h => of_one_req h

theorem landP (r : Req) : Statement (.landP r) := fun h => of_one_req h

theorem lorP (r : Req) : Statement (.lorP r) := fun h => of_one_req h

theorem lxorP (r : Req) : Statement (.lxorP r) := fun h => of_one_req h

theorem rdS (m : ClMsg) : Statement (.rdS m) := fun _ => of_none

theorem rdX (m : ClMsg) : Statement (.rdX m) := fun _ => of_none

theorem upg (m : ClMsg) : Statement (.upg m) := fun _ => of_none

theorem wb (m : ClMsg) : Statement (.wb m) := fun _ => of_none

theorem evc (m : ClMsg) : Statement (.evc m) := fun _ => of_none

theorem atom (m : ClMsg) (a : ClAtom) : Statement (.atom m a) := fun _ => of_none

theorem snpAck (m : ClMsg) (had : Had) (d wbp : Bool) : Statement (.snpAck m had d wbp) := fun _ => of_none

theorem compAck (m : ClMsg) : Statement (.compAck m) := fun _ => of_none

theorem snpData (m : ClMsg) (data : LineData) (pois : BitVec 4) : Statement (.snpData m data pois) := fun _ => of_none

theorem wbData (m : ClMsg) (data : LineData) (pois : BitVec 4) : Statement (.wbData m data pois) := fun _ => of_none

theorem memData (line : LineAddr) (data : LineData) (pois : BitVec 4) : Statement (.memData line data pois) := fun _ => of_none

theorem dinv (die : BitVec 3) (line : LineAddr) : Statement (.dinv die line) := fun _ => of_none

theorem invConfirm (die : BitVec 3) (line : LineAddr) : Statement (.invConfirm die line) := fun _ => of_none

theorem ddReply (m : RepMsg) : Statement (.ddReply m) := fun h => of_one_rep h

theorem tileInvAck (tile : BitVec 8) (tag : BitVec 12) : Statement (.tileInvAck tile tag) := fun _ => of_none

theorem forwardReply (m : RepMsg) : Statement (.forwardReply m) := fun h => of_one_rep h

theorem sealReleaseReply (m : RepMsg) : Statement (.sealReleaseReply m) := fun h => of_one_rep h

theorem proxyReply (m : RepMsg) : Statement (.proxyReply m) := fun h => of_one_rep h

theorem bulkLineReply (m : RepMsg) : Statement (.bulkLineReply m) := fun h => of_one_rep h

theorem issuedReply (m : RepMsg) : Statement (.issuedReply m) := fun h => of_one_rep h

theorem hcReadBeat (otag : BitVec 7) (data : LineData) (rerr : BitVec 4) : Statement (.hcReadBeat otag data rerr) := fun _ => of_none

theorem hcCreditReturn : Statement .hcCreditReturn := fun _ => of_none

theorem mrCreditReturn : Statement .mrCreditReturn := fun _ => of_none

theorem moCreditReturn : Statement .moCreditReturn := fun _ => of_none

theorem lwCreditReturn (cls : LwCls) : Statement (.lwCreditReturn cls) := fun _ => of_none

theorem ddCreditReturn (die : BitVec 3) (cls : DdCls) : Statement (.ddCreditReturn die cls) := fun _ => of_none

theorem translationDone (va pa : BitVec 64) : Statement (.translationDone va pa) := fun _ => of_none

theorem iommuFault (va : BitVec 64) : Statement (.iommuFault va) := fun _ => of_none

theorem bulkCommandStart : Statement .bulkCommandStart := fun _ => of_none

theorem bulkLineIssue : Statement .bulkLineIssue := fun _ => of_none

theorem bulkPreempt : Statement .bulkPreempt := fun _ => of_none

theorem completionRecord (cpl : Option (BitVec 52)) : Statement (.completionRecord cpl) := fun _ => of_none

theorem blkCtlPause (a : CtAcc) : Statement (.blkCtlPause a) := fun _ => of_none

theorem blkCtlAbort (a : CtAcc) : Statement (.blkCtlAbort a) := fun _ => of_none

theorem waychgGo (a : CtAcc) : Statement (.waychgGo a) := fun _ => of_none

theorem drainWalkStep : Statement .drainWalkStep := fun _ => of_none

theorem waychgDone : Statement .waychgDone := fun _ => of_none

theorem distCtlWrite (a : CtAcc) : Statement (.distCtlWrite a) := fun _ => of_none

theorem vtRegionWrite (n : BitVec 6) (a : CtAcc) : Statement (.vtRegionWrite n a) := fun _ => of_none

theorem fpWinWrite (n : BitVec 4) (b : Bool) (a : CtAcc) : Statement (.fpWinWrite n b a) := fun _ => of_none

theorem groupInitDone (g : BitVec 6) : Statement (.groupInitDone g) := fun _ => of_none

theorem arrivalCombined : Statement .arrivalCombined := fun _ => of_none

theorem epilogueStart (g : BitVec 6) : Statement (.epilogueStart g) := fun _ => of_none

theorem epilogueDone (g : BitVec 6) : Statement (.epilogueDone g) := fun _ => of_none

theorem predclr (a : CtAcc) : Statement (.predclr a) := fun _ => of_none

theorem dirReclaimGo (a : CtAcc) : Statement (.dirReclaimGo a) := fun _ => of_none

theorem reclaimDone : Statement .reclaimDone := fun _ => of_none

theorem deadmaskWrite (a : CtAcc) : Statement (.deadmaskWrite a) := fun _ => of_none

theorem snoopTimeout (m : ClMsg) : Statement (.snoopTimeout m) := fun _ => of_none

theorem creditTimeout (reqid : BitVec 8) : Statement (.creditTimeout reqid) := fun _ => of_none

theorem accnTargetWrite (k : BitVec 8) (a : CtAcc) : Statement (.accnTargetWrite k a) := fun _ => of_none

theorem regWindowStart : Statement .regWindowStart := fun _ => of_none

theorem slackZero (reqid : BitVec 8) (srcdie : BitVec 3) (tag : BitVec 12) : Statement (.slackZero reqid srcdie tag) := fun _ => of_none

theorem serviceGrant (p : Point) : Statement (.serviceGrant p) := fun _ => of_none

theorem budgetWrite (m : BitVec 8) (a : CtAcc) : Statement (.budgetWrite m a) := fun _ => of_none

theorem replyBeat : Statement .replyBeat := fun _ => of_none

theorem sclkDivChange : Statement .sclkDivChange := fun _ => of_none

theorem sleepEnter : Statement .sleepEnter := fun _ => of_none

theorem wake : Statement .wake := fun _ => of_none

theorem resleep : Statement .resleep := fun _ => of_none

theorem frz : Statement .frz := fun _ => of_none

theorem ctMsgReserved (word : BitVec 32) : Statement (.ctMsgReserved word) := fun _ => of_none

theorem purge (ctx : BitVec 12) (gen : BitVec 8) : Statement (.purge ctx gen) := fun _ => of_none

theorem purgeDone : Statement .purgeDone := fun _ => of_none

theorem hang (kind : HangKind) : Statement (.hang kind) := fun _ => of_none

theorem orphanEntryExpire (entry : BitVec 9) : Statement (.orphanEntryExpire entry) := fun _ => of_none

theorem idlereq (a : CtAcc) : Statement (.idlereq a) := fun _ => of_none

theorem blockResetGo (a : CtAcc) : Statement (.blockResetGo a) := fun _ => of_none

theorem blockResetProceed : Statement .blockResetProceed := fun _ => of_none

theorem rcWbGo (a : CtAcc) : Statement (.rcWbGo a) := fun _ => of_none

theorem rcWbDone : Statement .rcWbDone := fun _ => of_none

theorem credrel (a : CtAcc) : Statement (.credrel a) := fun _ => of_none

theorem fwifGo (a : CtAcc) : Statement (.fwifGo a) := fun _ => of_none

theorem powerOnReset : Statement .powerOnReset := fun _ => of_none

theorem packageReset : Statement .packageReset := fun _ => of_none

theorem computeReset : Statement .computeReset := fun _ => of_none

theorem glitch : Statement .glitch := fun _ => of_none

theorem resetEnd : Statement .resetEnd := fun _ => of_none

theorem clockIslandRelease : Statement .clockIslandRelease := fun _ => of_none

theorem tagDirectorySweep : Statement .tagDirectorySweep := fun _ => of_none

theorem dataTierPortRelease : Statement .dataTierPortRelease := fun _ => of_none

theorem memoryPortRelease : Statement .memoryPortRelease := fun _ => of_none

theorem meshPortRelease : Statement .meshPortRelease := fun _ => of_none

theorem lclPortRelease : Statement .lclPortRelease := fun _ => of_none

theorem snoopRecovery : Statement .snoopRecovery := fun _ => of_none

theorem balanceValid : Statement .balanceValid := fun _ => of_none

theorem retrainEnter : Statement .retrainEnter := fun _ => of_none

theorem channelNormal : Statement .channelNormal := fun _ => of_none

theorem channelLost : Statement .channelLost := fun _ => of_none

theorem retrainTimeout : Statement .retrainTimeout := fun _ => of_none

theorem maplistWrite (a : CtAcc) : Statement (.maplistWrite a) := fun _ => of_none

theorem prep (a : CtAcc) : Statement (.prep a) := fun _ => of_none

theorem prepDone : Statement .prepDone := fun _ => of_none

theorem save (a : CtAcc) : Statement (.save a) := fun _ => of_none

theorem saveDone : Statement .saveDone := fun _ => of_none

theorem scrubVisit : Statement .scrubVisit := fun _ => of_none

theorem qset (a : CtAcc) : Statement (.qset a) := fun _ => of_none

theorem qclr (a : CtAcc) : Statement (.qclr a) := fun _ => of_none

theorem rawrd (a : CtAcc) : Statement (.rawrd a) := fun _ => of_none

theorem rawwr (a : CtAcc) : Statement (.rawwr a) := fun _ => of_none

theorem pop (a : CtAcc) : Statement (.pop a) := fun _ => of_none

theorem spillEntry : Statement .spillEntry := fun _ => of_none

theorem pvSpillWrite (a : CtAcc) : Statement (.pvSpillWrite a) := fun _ => of_none

theorem irqSet (a : CtAcc) : Statement (.irqSet a) := fun _ => of_none

theorem diagGo (a : CtAcc) : Statement (.diagGo a) := fun _ => of_none

theorem diagDone : Statement .diagDone := fun _ => of_none

theorem registerWrite (off : BitVec 16) (userPage : Bool) (a : CtAcc) : Statement (.registerWrite off userPage a) := fun _ => of_none

theorem registerRead (off : BitVec 16) (userPage : Bool) (a : CtAcc) : Statement (.registerRead off userPage a) := fun _ => of_none

theorem sclkCycle : Statement .sclkCycle := fun _ => of_none

theorem frzFall : Statement .frzFall := fun _ => of_none

theorem standbyPowerUp : Statement .standbyPowerUp := fun _ => of_none

theorem sclkRunsAgain : Statement .sclkRunsAgain := fun _ => of_none

end Sys2Proof.Laws.Fields
end

