-- ==== Sys2Proof/Laws/Regs.lean ====
section
/-! SUPPORT. Registers and their fields: a register reads back what was written, and every other register and every other field keeps its
value. -/

namespace Sys2Proof.Machine

/-! ### Registers -/

theorem Slice.rd_wr (s : Slice) (a b : Nat) (w : Word) : (s.wr a w).rd b = if b = a then w else s.rd b := Sparse.get_set ..

@[simp] theorem Slice.rd_wr_same (s : Slice) (a : Nat) (w : Word) : (s.wr a w).rd a = w := by simp [Slice.rd_wr]

theorem Slice.rd_wr_other (s : Slice) {a b : Nat} (w : Word) (h : b ≠ a) : (s.wr a w).rd b = s.rd b := by simp [Slice.rd_wr, h]

/-! ### Fields -/

/-- A field lies inside its register. -/
abbrev Fld.fits (f : Fld) : Prop := f.lo + f.w ≤ 64

/-- Two fields share no bit: they lie in different registers, or apart in one. -/
abbrev Fld.apart (f g : Fld) : Prop := f.off ≠ g.off ∨ f.lo + f.w ≤ g.lo ∨ g.lo + g.w ≤ f.lo

theorem Slice.rd_setFld (s : Slice) (f : Fld) (n b : Nat) :
    (s.setFld f n).rd b = if b = f.off then setBits (s.rd f.off) f.lo f.w n else s.rd b := Slice.rd_wr ..

theorem Slice.rd_setFld_other (s : Slice) {f : Fld} (n : Nat) {b : Nat} (h : b ≠ f.off) : (s.setFld f n).rd b = s.rd b := by
  simp [Slice.rd_setFld, h]

/-- A field reads back what was set in it. -/
theorem Slice.fld_setFld (s : Slice) {f : Fld} (n : Nat) (h : f.fits) : (s.setFld f n).fld f = n % 2 ^ f.w := by
  unfold Slice.fld
  rw [Slice.rd_setFld, if_pos rfl]
  exact getBits_setBits _ n h

/-- A field that shares no bit with the one that is set keeps its value. -/
theorem Slice.fld_setFld_other (s : Slice) {f g : Fld} (n : Nat) (h : f.apart g) : (s.setFld f n).fld g = s.fld g := by
  unfold Slice.fld
  rw [Slice.rd_setFld]
  by_cases c : g.off = f.off
  · rw [if_pos c, c]
    rcases h with h | h
    · exact absurd c.symm h
    · exact getBits_setBits_other _ n h
  · rw [if_neg c]

theorem Slice.fld_wr_other (s : Slice) {a : Nat} (w : Word) {g : Fld} (h : g.off ≠ a) : (s.wr a w).fld g = s.fld g := by
  unfold Slice.fld
  rw [Slice.rd_wr_other s w h]

theorem Slice.fld_lt (s : Slice) (f : Fld) : s.fld f < 2 ^ f.w := getBits_lt ..

/-- A count that stops at its greatest value. -/
theorem Slice.fld_bump (s : Slice) {f : Fld} (n : Nat) (h : f.fits) :
    (s.bump f n).fld f = min (2 ^ f.w - 1) (s.fld f + n) := by
  unfold Slice.bump satAdd
  rw [Slice.fld_setFld _ _ h]
  exact Nat.mod_eq_of_lt (by have := Nat.two_pow_pos f.w; omega)

theorem Slice.fld_bump_other (s : Slice) {f g : Fld} (n : Nat) (h : f.apart g) : (s.bump f n).fld g = s.fld g :=
  Slice.fld_setFld_other s _ h

theorem Slice.rd_bump_other (s : Slice) {f : Fld} (n : Nat) {b : Nat} (h : b ≠ f.off) : (s.bump f n).rd b = s.rd b :=
  Slice.rd_setFld_other s _ h

/-- Slices with the same registers have the same fields. -/
theorem Slice.fld_congr {s t : Slice} (f : Fld) (h : s.rd f.off = t.rd f.off) : s.fld f = t.fld f := by
  unfold Slice.fld; rw [h]

theorem Slice.flag_congr {s t : Slice} (f : Fld) (h : s.rd f.off = t.rd f.off) : s.flag f = t.flag f := by
  unfold Slice.flag; rw [Slice.fld_congr f h]

end Sys2Proof.Machine
end

