-- ==== Sys2Proof/Laws/State.lean ====
section
/-! SUPPORT. What each update of a slice leaves alone: one lemma for each part of the state and each update, so that no proof has to
unfold a record. -/

namespace Sys2Proof.Machine

/-! ### Writing a register -/

@[simp] theorem Slice.wr_mem (s : Slice) (a : Nat) (v : Word) : (s.wr a v).mem = s.mem := rfl
@[simp] theorem Slice.wr_port (s : Slice) (a : Nat) (v : Word) : (s.wr a v).port = s.port := rfl
@[simp] theorem Slice.wr_out (s : Slice) (a : Nat) (v : Word) : (s.wr a v).out = s.out := rfl
@[simp] theorem Slice.wr_chan (s : Slice) (a : Nat) (v : Word) : (s.wr a v).chan = s.chan := rfl
@[simp] theorem Slice.wr_grps (s : Slice) (a : Nat) (v : Word) : (s.wr a v).grps = s.grps := rfl
@[simp] theorem Slice.wr_bulk (s : Slice) (a : Nat) (v : Word) : (s.wr a v).bulk = s.bulk := rfl
@[simp] theorem Slice.wr_holds (s : Slice) (a : Nat) (v : Word) : (s.wr a v).holds = s.holds := rfl
@[simp] theorem Slice.wr_grpHeld (s : Slice) (a : Nat) (v : Word) : (s.wr a v).grpHeld = s.grpHeld := rfl
@[simp] theorem Slice.wr_coh (s : Slice) (a : Nat) (v : Word) : (s.wr a v).coh = s.coh := rfl
@[simp] theorem Slice.wr_walk (s : Slice) (a : Nat) (v : Word) : (s.wr a v).walk = s.walk := rfl
@[simp] theorem Slice.wr_meas (s : Slice) (a : Nat) (v : Word) : (s.wr a v).meas = s.meas := rfl
@[simp] theorem Slice.wr_sys (s : Slice) (a : Nat) (v : Word) : (s.wr a v).sys = s.sys := rfl

/-! ### Setting a field, adding to a count, raising an interrupt -/

@[simp] theorem Slice.setFld_mem (s : Slice) (f : Fld) (n : Nat) : (s.setFld f n).mem = s.mem := rfl
@[simp] theorem Slice.setFld_port (s : Slice) (f : Fld) (n : Nat) : (s.setFld f n).port = s.port := rfl
@[simp] theorem Slice.setFld_out (s : Slice) (f : Fld) (n : Nat) : (s.setFld f n).out = s.out := rfl
@[simp] theorem Slice.setFld_chan (s : Slice) (f : Fld) (n : Nat) : (s.setFld f n).chan = s.chan := rfl
@[simp] theorem Slice.setFld_grps (s : Slice) (f : Fld) (n : Nat) : (s.setFld f n).grps = s.grps := rfl
@[simp] theorem Slice.setFld_bulk (s : Slice) (f : Fld) (n : Nat) : (s.setFld f n).bulk = s.bulk := rfl
@[simp] theorem Slice.setFld_holds (s : Slice) (f : Fld) (n : Nat) : (s.setFld f n).holds = s.holds := rfl
@[simp] theorem Slice.setFld_grpHeld (s : Slice) (f : Fld) (n : Nat) : (s.setFld f n).grpHeld = s.grpHeld := rfl
@[simp] theorem Slice.setFld_coh (s : Slice) (f : Fld) (n : Nat) : (s.setFld f n).coh = s.coh := rfl
@[simp] theorem Slice.setFld_walk (s : Slice) (f : Fld) (n : Nat) : (s.setFld f n).walk = s.walk := rfl
@[simp] theorem Slice.setFld_meas (s : Slice) (f : Fld) (n : Nat) : (s.setFld f n).meas = s.meas := rfl
@[simp] theorem Slice.setFld_sys (s : Slice) (f : Fld) (n : Nat) : (s.setFld f n).sys = s.sys := rfl
@[simp] theorem Slice.bump_mem (s : Slice) (f : Fld) (n : Nat) : (s.bump f n).mem = s.mem := rfl
@[simp] theorem Slice.bump_port (s : Slice) (f : Fld) (n : Nat) : (s.bump f n).port = s.port := rfl
@[simp] theorem Slice.bump_out (s : Slice) (f : Fld) (n : Nat) : (s.bump f n).out = s.out := rfl
@[simp] theorem Slice.bump_chan (s : Slice) (f : Fld) (n : Nat) : (s.bump f n).chan = s.chan := rfl
@[simp] theorem Slice.bump_grps (s : Slice) (f : Fld) (n : Nat) : (s.bump f n).grps = s.grps := rfl
@[simp] theorem Slice.bump_bulk (s : Slice) (f : Fld) (n : Nat) : (s.bump f n).bulk = s.bulk := rfl
@[simp] theorem Slice.bump_holds (s : Slice) (f : Fld) (n : Nat) : (s.bump f n).holds = s.holds := rfl
@[simp] theorem Slice.bump_grpHeld (s : Slice) (f : Fld) (n : Nat) : (s.bump f n).grpHeld = s.grpHeld := rfl
@[simp] theorem Slice.bump_coh (s : Slice) (f : Fld) (n : Nat) : (s.bump f n).coh = s.coh := rfl
@[simp] theorem Slice.bump_walk (s : Slice) (f : Fld) (n : Nat) : (s.bump f n).walk = s.walk := rfl
@[simp] theorem Slice.bump_meas (s : Slice) (f : Fld) (n : Nat) : (s.bump f n).meas = s.meas := rfl
@[simp] theorem Slice.bump_sys (s : Slice) (f : Fld) (n : Nat) : (s.bump f n).sys = s.sys := rfl
@[simp] theorem Slice.irqSet_mem (s : Slice) (f : Fld) : (s.irqSet f).mem = s.mem := rfl
@[simp] theorem Slice.irqSet_port (s : Slice) (f : Fld) : (s.irqSet f).port = s.port := rfl
@[simp] theorem Slice.irqSet_out (s : Slice) (f : Fld) : (s.irqSet f).out = s.out := rfl
@[simp] theorem Slice.irqSet_chan (s : Slice) (f : Fld) : (s.irqSet f).chan = s.chan := rfl
@[simp] theorem Slice.irqSet_grps (s : Slice) (f : Fld) : (s.irqSet f).grps = s.grps := rfl
@[simp] theorem Slice.irqSet_bulk (s : Slice) (f : Fld) : (s.irqSet f).bulk = s.bulk := rfl
@[simp] theorem Slice.irqSet_holds (s : Slice) (f : Fld) : (s.irqSet f).holds = s.holds := rfl
@[simp] theorem Slice.irqSet_grpHeld (s : Slice) (f : Fld) : (s.irqSet f).grpHeld = s.grpHeld := rfl
@[simp] theorem Slice.irqSet_coh (s : Slice) (f : Fld) : (s.irqSet f).coh = s.coh := rfl
@[simp] theorem Slice.irqSet_walk (s : Slice) (f : Fld) : (s.irqSet f).walk = s.walk := rfl
@[simp] theorem Slice.irqSet_meas (s : Slice) (f : Fld) : (s.irqSet f).meas = s.meas := rfl
@[simp] theorem Slice.irqSet_sys (s : Slice) (f : Fld) : (s.irqSet f).sys = s.sys := rfl

/-! ### Changing `mem` -/

@[simp] theorem Slice.modMem_regs (s : Slice) (f : Mem → Mem) : (s.modMem f).regs = s.regs := rfl
@[simp] theorem Slice.modMem_rd (s : Slice) (f : Mem → Mem) (a : Nat) : (s.modMem f).rd a = s.rd a := rfl
@[simp] theorem Slice.modMem_fld (s : Slice) (f : Mem → Mem) (g : Fld) : (s.modMem f).fld g = s.fld g := rfl
@[simp] theorem Slice.modMem_flag (s : Slice) (f : Mem → Mem) (g : Fld) : (s.modMem f).flag g = s.flag g := rfl
@[simp] theorem Slice.modMem_mem (s : Slice) (f : Mem → Mem) : (s.modMem f).mem = f s.mem := rfl
@[simp] theorem Slice.modMem_port (s : Slice) (f : Mem → Mem) : (s.modMem f).port = s.port := rfl
@[simp] theorem Slice.modMem_out (s : Slice) (f : Mem → Mem) : (s.modMem f).out = s.out := rfl
@[simp] theorem Slice.modMem_chan (s : Slice) (f : Mem → Mem) : (s.modMem f).chan = s.chan := rfl
@[simp] theorem Slice.modMem_grps (s : Slice) (f : Mem → Mem) : (s.modMem f).grps = s.grps := rfl
@[simp] theorem Slice.modMem_bulk (s : Slice) (f : Mem → Mem) : (s.modMem f).bulk = s.bulk := rfl
@[simp] theorem Slice.modMem_holds (s : Slice) (f : Mem → Mem) : (s.modMem f).holds = s.holds := rfl
@[simp] theorem Slice.modMem_grpHeld (s : Slice) (f : Mem → Mem) : (s.modMem f).grpHeld = s.grpHeld := rfl
@[simp] theorem Slice.modMem_coh (s : Slice) (f : Mem → Mem) : (s.modMem f).coh = s.coh := rfl
@[simp] theorem Slice.modMem_walk (s : Slice) (f : Mem → Mem) : (s.modMem f).walk = s.walk := rfl
@[simp] theorem Slice.modMem_meas (s : Slice) (f : Mem → Mem) : (s.modMem f).meas = s.meas := rfl
@[simp] theorem Slice.modMem_sys (s : Slice) (f : Mem → Mem) : (s.modMem f).sys = s.sys := rfl

/-! ### Changing `port` -/

@[simp] theorem Slice.modPort_regs (s : Slice) (f : Port → Port) : (s.modPort f).regs = s.regs := rfl
@[simp] theorem Slice.modPort_rd (s : Slice) (f : Port → Port) (a : Nat) : (s.modPort f).rd a = s.rd a := rfl
@[simp] theorem Slice.modPort_fld (s : Slice) (f : Port → Port) (g : Fld) : (s.modPort f).fld g = s.fld g := rfl
@[simp] theorem Slice.modPort_flag (s : Slice) (f : Port → Port) (g : Fld) : (s.modPort f).flag g = s.flag g := rfl
@[simp] theorem Slice.modPort_mem (s : Slice) (f : Port → Port) : (s.modPort f).mem = s.mem := rfl
@[simp] theorem Slice.modPort_port (s : Slice) (f : Port → Port) : (s.modPort f).port = f s.port := rfl
@[simp] theorem Slice.modPort_out (s : Slice) (f : Port → Port) : (s.modPort f).out = s.out := rfl
@[simp] theorem Slice.modPort_chan (s : Slice) (f : Port → Port) : (s.modPort f).chan = s.chan := rfl
@[simp] theorem Slice.modPort_grps (s : Slice) (f : Port → Port) : (s.modPort f).grps = s.grps := rfl
@[simp] theorem Slice.modPort_bulk (s : Slice) (f : Port → Port) : (s.modPort f).bulk = s.bulk := rfl
@[simp] theorem Slice.modPort_holds (s : Slice) (f : Port → Port) : (s.modPort f).holds = s.holds := rfl
@[simp] theorem Slice.modPort_grpHeld (s : Slice) (f : Port → Port) : (s.modPort f).grpHeld = s.grpHeld := rfl
@[simp] theorem Slice.modPort_coh (s : Slice) (f : Port → Port) : (s.modPort f).coh = s.coh := rfl
@[simp] theorem Slice.modPort_walk (s : Slice) (f : Port → Port) : (s.modPort f).walk = s.walk := rfl
@[simp] theorem Slice.modPort_meas (s : Slice) (f : Port → Port) : (s.modPort f).meas = s.meas := rfl
@[simp] theorem Slice.modPort_sys (s : Slice) (f : Port → Port) : (s.modPort f).sys = s.sys := rfl

/-! ### Changing `out` -/

@[simp] theorem Slice.modOut_regs (s : Slice) (f : Outs → Outs) : (s.modOut f).regs = s.regs := rfl
@[simp] theorem Slice.modOut_rd (s : Slice) (f : Outs → Outs) (a : Nat) : (s.modOut f).rd a = s.rd a := rfl
@[simp] theorem Slice.modOut_fld (s : Slice) (f : Outs → Outs) (g : Fld) : (s.modOut f).fld g = s.fld g := rfl
@[simp] theorem Slice.modOut_flag (s : Slice) (f : Outs → Outs) (g : Fld) : (s.modOut f).flag g = s.flag g := rfl
@[simp] theorem Slice.modOut_mem (s : Slice) (f : Outs → Outs) : (s.modOut f).mem = s.mem := rfl
@[simp] theorem Slice.modOut_port (s : Slice) (f : Outs → Outs) : (s.modOut f).port = s.port := rfl
@[simp] theorem Slice.modOut_out (s : Slice) (f : Outs → Outs) : (s.modOut f).out = f s.out := rfl
@[simp] theorem Slice.modOut_chan (s : Slice) (f : Outs → Outs) : (s.modOut f).chan = s.chan := rfl
@[simp] theorem Slice.modOut_grps (s : Slice) (f : Outs → Outs) : (s.modOut f).grps = s.grps := rfl
@[simp] theorem Slice.modOut_bulk (s : Slice) (f : Outs → Outs) : (s.modOut f).bulk = s.bulk := rfl
@[simp] theorem Slice.modOut_holds (s : Slice) (f : Outs → Outs) : (s.modOut f).holds = s.holds := rfl
@[simp] theorem Slice.modOut_grpHeld (s : Slice) (f : Outs → Outs) : (s.modOut f).grpHeld = s.grpHeld := rfl
@[simp] theorem Slice.modOut_coh (s : Slice) (f : Outs → Outs) : (s.modOut f).coh = s.coh := rfl
@[simp] theorem Slice.modOut_walk (s : Slice) (f : Outs → Outs) : (s.modOut f).walk = s.walk := rfl
@[simp] theorem Slice.modOut_meas (s : Slice) (f : Outs → Outs) : (s.modOut f).meas = s.meas := rfl
@[simp] theorem Slice.modOut_sys (s : Slice) (f : Outs → Outs) : (s.modOut f).sys = s.sys := rfl

/-! ### Changing `chan` -/

@[simp] theorem Slice.modChan_regs (s : Slice) (f : Chan → Chan) : (s.modChan f).regs = s.regs := rfl
@[simp] theorem Slice.modChan_rd (s : Slice) (f : Chan → Chan) (a : Nat) : (s.modChan f).rd a = s.rd a := rfl
@[simp] theorem Slice.modChan_fld (s : Slice) (f : Chan → Chan) (g : Fld) : (s.modChan f).fld g = s.fld g := rfl
@[simp] theorem Slice.modChan_flag (s : Slice) (f : Chan → Chan) (g : Fld) : (s.modChan f).flag g = s.flag g := rfl
@[simp] theorem Slice.modChan_mem (s : Slice) (f : Chan → Chan) : (s.modChan f).mem = s.mem := rfl
@[simp] theorem Slice.modChan_port (s : Slice) (f : Chan → Chan) : (s.modChan f).port = s.port := rfl
@[simp] theorem Slice.modChan_out (s : Slice) (f : Chan → Chan) : (s.modChan f).out = s.out := rfl
@[simp] theorem Slice.modChan_chan (s : Slice) (f : Chan → Chan) : (s.modChan f).chan = f s.chan := rfl
@[simp] theorem Slice.modChan_grps (s : Slice) (f : Chan → Chan) : (s.modChan f).grps = s.grps := rfl
@[simp] theorem Slice.modChan_bulk (s : Slice) (f : Chan → Chan) : (s.modChan f).bulk = s.bulk := rfl
@[simp] theorem Slice.modChan_holds (s : Slice) (f : Chan → Chan) : (s.modChan f).holds = s.holds := rfl
@[simp] theorem Slice.modChan_grpHeld (s : Slice) (f : Chan → Chan) : (s.modChan f).grpHeld = s.grpHeld := rfl
@[simp] theorem Slice.modChan_coh (s : Slice) (f : Chan → Chan) : (s.modChan f).coh = s.coh := rfl
@[simp] theorem Slice.modChan_walk (s : Slice) (f : Chan → Chan) : (s.modChan f).walk = s.walk := rfl
@[simp] theorem Slice.modChan_meas (s : Slice) (f : Chan → Chan) : (s.modChan f).meas = s.meas := rfl
@[simp] theorem Slice.modChan_sys (s : Slice) (f : Chan → Chan) : (s.modChan f).sys = s.sys := rfl

/-! ### Changing `bulk` -/

@[simp] theorem Slice.modBulk_regs (s : Slice) (f : Bulk → Bulk) : (s.modBulk f).regs = s.regs := rfl
@[simp] theorem Slice.modBulk_rd (s : Slice) (f : Bulk → Bulk) (a : Nat) : (s.modBulk f).rd a = s.rd a := rfl
@[simp] theorem Slice.modBulk_fld (s : Slice) (f : Bulk → Bulk) (g : Fld) : (s.modBulk f).fld g = s.fld g := rfl
@[simp] theorem Slice.modBulk_flag (s : Slice) (f : Bulk → Bulk) (g : Fld) : (s.modBulk f).flag g = s.flag g := rfl
@[simp] theorem Slice.modBulk_mem (s : Slice) (f : Bulk → Bulk) : (s.modBulk f).mem = s.mem := rfl
@[simp] theorem Slice.modBulk_port (s : Slice) (f : Bulk → Bulk) : (s.modBulk f).port = s.port := rfl
@[simp] theorem Slice.modBulk_out (s : Slice) (f : Bulk → Bulk) : (s.modBulk f).out = s.out := rfl
@[simp] theorem Slice.modBulk_chan (s : Slice) (f : Bulk → Bulk) : (s.modBulk f).chan = s.chan := rfl
@[simp] theorem Slice.modBulk_grps (s : Slice) (f : Bulk → Bulk) : (s.modBulk f).grps = s.grps := rfl
@[simp] theorem Slice.modBulk_bulk (s : Slice) (f : Bulk → Bulk) : (s.modBulk f).bulk = f s.bulk := rfl
@[simp] theorem Slice.modBulk_holds (s : Slice) (f : Bulk → Bulk) : (s.modBulk f).holds = s.holds := rfl
@[simp] theorem Slice.modBulk_grpHeld (s : Slice) (f : Bulk → Bulk) : (s.modBulk f).grpHeld = s.grpHeld := rfl
@[simp] theorem Slice.modBulk_coh (s : Slice) (f : Bulk → Bulk) : (s.modBulk f).coh = s.coh := rfl
@[simp] theorem Slice.modBulk_walk (s : Slice) (f : Bulk → Bulk) : (s.modBulk f).walk = s.walk := rfl
@[simp] theorem Slice.modBulk_meas (s : Slice) (f : Bulk → Bulk) : (s.modBulk f).meas = s.meas := rfl
@[simp] theorem Slice.modBulk_sys (s : Slice) (f : Bulk → Bulk) : (s.modBulk f).sys = s.sys := rfl

/-! ### Changing `coh` -/

@[simp] theorem Slice.modCoh_regs (s : Slice) (f : Coh → Coh) : (s.modCoh f).regs = s.regs := rfl
@[simp] theorem Slice.modCoh_rd (s : Slice) (f : Coh → Coh) (a : Nat) : (s.modCoh f).rd a = s.rd a := rfl
@[simp] theorem Slice.modCoh_fld (s : Slice) (f : Coh → Coh) (g : Fld) : (s.modCoh f).fld g = s.fld g := rfl
@[simp] theorem Slice.modCoh_flag (s : Slice) (f : Coh → Coh) (g : Fld) : (s.modCoh f).flag g = s.flag g := rfl
@[simp] theorem Slice.modCoh_mem (s : Slice) (f : Coh → Coh) : (s.modCoh f).mem = s.mem := rfl
@[simp] theorem Slice.modCoh_port (s : Slice) (f : Coh → Coh) : (s.modCoh f).port = s.port := rfl
@[simp] theorem Slice.modCoh_out (s : Slice) (f : Coh → Coh) : (s.modCoh f).out = s.out := rfl
@[simp] theorem Slice.modCoh_chan (s : Slice) (f : Coh → Coh) : (s.modCoh f).chan = s.chan := rfl
@[simp] theorem Slice.modCoh_grps (s : Slice) (f : Coh → Coh) : (s.modCoh f).grps = s.grps := rfl
@[simp] theorem Slice.modCoh_bulk (s : Slice) (f : Coh → Coh) : (s.modCoh f).bulk = s.bulk := rfl
@[simp] theorem Slice.modCoh_holds (s : Slice) (f : Coh → Coh) : (s.modCoh f).holds = s.holds := rfl
@[simp] theorem Slice.modCoh_grpHeld (s : Slice) (f : Coh → Coh) : (s.modCoh f).grpHeld = s.grpHeld := rfl
@[simp] theorem Slice.modCoh_coh (s : Slice) (f : Coh → Coh) : (s.modCoh f).coh = f s.coh := rfl
@[simp] theorem Slice.modCoh_walk (s : Slice) (f : Coh → Coh) : (s.modCoh f).walk = s.walk := rfl
@[simp] theorem Slice.modCoh_meas (s : Slice) (f : Coh → Coh) : (s.modCoh f).meas = s.meas := rfl
@[simp] theorem Slice.modCoh_sys (s : Slice) (f : Coh → Coh) : (s.modCoh f).sys = s.sys := rfl

/-! ### Changing `walk` -/

@[simp] theorem Slice.modWalk_regs (s : Slice) (f : Walk → Walk) : (s.modWalk f).regs = s.regs := rfl
@[simp] theorem Slice.modWalk_rd (s : Slice) (f : Walk → Walk) (a : Nat) : (s.modWalk f).rd a = s.rd a := rfl
@[simp] theorem Slice.modWalk_fld (s : Slice) (f : Walk → Walk) (g : Fld) : (s.modWalk f).fld g = s.fld g := rfl
@[simp] theorem Slice.modWalk_flag (s : Slice) (f : Walk → Walk) (g : Fld) : (s.modWalk f).flag g = s.flag g := rfl
@[simp] theorem Slice.modWalk_mem (s : Slice) (f : Walk → Walk) : (s.modWalk f).mem = s.mem := rfl
@[simp] theorem Slice.modWalk_port (s : Slice) (f : Walk → Walk) : (s.modWalk f).port = s.port := rfl
@[simp] theorem Slice.modWalk_out (s : Slice) (f : Walk → Walk) : (s.modWalk f).out = s.out := rfl
@[simp] theorem Slice.modWalk_chan (s : Slice) (f : Walk → Walk) : (s.modWalk f).chan = s.chan := rfl
@[simp] theorem Slice.modWalk_grps (s : Slice) (f : Walk → Walk) : (s.modWalk f).grps = s.grps := rfl
@[simp] theorem Slice.modWalk_bulk (s : Slice) (f : Walk → Walk) : (s.modWalk f).bulk = s.bulk := rfl
@[simp] theorem Slice.modWalk_holds (s : Slice) (f : Walk → Walk) : (s.modWalk f).holds = s.holds := rfl
@[simp] theorem Slice.modWalk_grpHeld (s : Slice) (f : Walk → Walk) : (s.modWalk f).grpHeld = s.grpHeld := rfl
@[simp] theorem Slice.modWalk_coh (s : Slice) (f : Walk → Walk) : (s.modWalk f).coh = s.coh := rfl
@[simp] theorem Slice.modWalk_walk (s : Slice) (f : Walk → Walk) : (s.modWalk f).walk = f s.walk := rfl
@[simp] theorem Slice.modWalk_meas (s : Slice) (f : Walk → Walk) : (s.modWalk f).meas = s.meas := rfl
@[simp] theorem Slice.modWalk_sys (s : Slice) (f : Walk → Walk) : (s.modWalk f).sys = s.sys := rfl

/-! ### Changing `meas` -/

@[simp] theorem Slice.modMeas_regs (s : Slice) (f : Meas → Meas) : (s.modMeas f).regs = s.regs := rfl
@[simp] theorem Slice.modMeas_rd (s : Slice) (f : Meas → Meas) (a : Nat) : (s.modMeas f).rd a = s.rd a := rfl
@[simp] theorem Slice.modMeas_fld (s : Slice) (f : Meas → Meas) (g : Fld) : (s.modMeas f).fld g = s.fld g := rfl
@[simp] theorem Slice.modMeas_flag (s : Slice) (f : Meas → Meas) (g : Fld) : (s.modMeas f).flag g = s.flag g := rfl
@[simp] theorem Slice.modMeas_mem (s : Slice) (f : Meas → Meas) : (s.modMeas f).mem = s.mem := rfl
@[simp] theorem Slice.modMeas_port (s : Slice) (f : Meas → Meas) : (s.modMeas f).port = s.port := rfl
@[simp] theorem Slice.modMeas_out (s : Slice) (f : Meas → Meas) : (s.modMeas f).out = s.out := rfl
@[simp] theorem Slice.modMeas_chan (s : Slice) (f : Meas → Meas) : (s.modMeas f).chan = s.chan := rfl
@[simp] theorem Slice.modMeas_grps (s : Slice) (f : Meas → Meas) : (s.modMeas f).grps = s.grps := rfl
@[simp] theorem Slice.modMeas_bulk (s : Slice) (f : Meas → Meas) : (s.modMeas f).bulk = s.bulk := rfl
@[simp] theorem Slice.modMeas_holds (s : Slice) (f : Meas → Meas) : (s.modMeas f).holds = s.holds := rfl
@[simp] theorem Slice.modMeas_grpHeld (s : Slice) (f : Meas → Meas) : (s.modMeas f).grpHeld = s.grpHeld := rfl
@[simp] theorem Slice.modMeas_coh (s : Slice) (f : Meas → Meas) : (s.modMeas f).coh = s.coh := rfl
@[simp] theorem Slice.modMeas_walk (s : Slice) (f : Meas → Meas) : (s.modMeas f).walk = s.walk := rfl
@[simp] theorem Slice.modMeas_meas (s : Slice) (f : Meas → Meas) : (s.modMeas f).meas = f s.meas := rfl
@[simp] theorem Slice.modMeas_sys (s : Slice) (f : Meas → Meas) : (s.modMeas f).sys = s.sys := rfl

/-! ### Changing `sys` -/

@[simp] theorem Slice.modSys_regs (s : Slice) (f : Sys → Sys) : (s.modSys f).regs = s.regs := rfl
@[simp] theorem Slice.modSys_rd (s : Slice) (f : Sys → Sys) (a : Nat) : (s.modSys f).rd a = s.rd a := rfl
@[simp] theorem Slice.modSys_fld (s : Slice) (f : Sys → Sys) (g : Fld) : (s.modSys f).fld g = s.fld g := rfl
@[simp] theorem Slice.modSys_flag (s : Slice) (f : Sys → Sys) (g : Fld) : (s.modSys f).flag g = s.flag g := rfl
@[simp] theorem Slice.modSys_mem (s : Slice) (f : Sys → Sys) : (s.modSys f).mem = s.mem := rfl
@[simp] theorem Slice.modSys_port (s : Slice) (f : Sys → Sys) : (s.modSys f).port = s.port := rfl
@[simp] theorem Slice.modSys_out (s : Slice) (f : Sys → Sys) : (s.modSys f).out = s.out := rfl
@[simp] theorem Slice.modSys_chan (s : Slice) (f : Sys → Sys) : (s.modSys f).chan = s.chan := rfl
@[simp] theorem Slice.modSys_grps (s : Slice) (f : Sys → Sys) : (s.modSys f).grps = s.grps := rfl
@[simp] theorem Slice.modSys_bulk (s : Slice) (f : Sys → Sys) : (s.modSys f).bulk = s.bulk := rfl
@[simp] theorem Slice.modSys_holds (s : Slice) (f : Sys → Sys) : (s.modSys f).holds = s.holds := rfl
@[simp] theorem Slice.modSys_grpHeld (s : Slice) (f : Sys → Sys) : (s.modSys f).grpHeld = s.grpHeld := rfl
@[simp] theorem Slice.modSys_coh (s : Slice) (f : Sys → Sys) : (s.modSys f).coh = s.coh := rfl
@[simp] theorem Slice.modSys_walk (s : Slice) (f : Sys → Sys) : (s.modSys f).walk = s.walk := rfl
@[simp] theorem Slice.modSys_meas (s : Slice) (f : Sys → Sys) : (s.modSys f).meas = s.meas := rfl
@[simp] theorem Slice.modSys_sys (s : Slice) (f : Sys → Sys) : (s.modSys f).sys = f s.sys := rfl

/-! ### An event of a programmable counter -/

@[simp] theorem Slice.ev_regs (s : Slice) (code n : Nat) (p : Option Bool) (c : Option Nat) : (s.ev code n p c).regs = s.regs := by
  unfold Slice.ev Slice.evBy; split <;> rfl
@[simp] theorem Slice.ev_rd (s : Slice) (code n : Nat) (p : Option Bool) (c : Option Nat) (a : Nat) :
    (s.ev code n p c).rd a = s.rd a := by unfold Slice.ev Slice.evBy; split <;> rfl
@[simp] theorem Slice.ev_fld (s : Slice) (code n : Nat) (p : Option Bool) (c : Option Nat) (g : Fld) :
    (s.ev code n p c).fld g = s.fld g := by unfold Slice.ev Slice.evBy; split <;> rfl
@[simp] theorem Slice.ev_flag (s : Slice) (code n : Nat) (p : Option Bool) (c : Option Nat) (g : Fld) :
    (s.ev code n p c).flag g = s.flag g := by unfold Slice.ev Slice.evBy; split <;> rfl
@[simp] theorem Slice.ev_mem (s : Slice) (code n : Nat) (p : Option Bool) (c : Option Nat) : (s.ev code n p c).mem = s.mem := by
  unfold Slice.ev Slice.evBy; split <;> rfl
@[simp] theorem Slice.ev_port (s : Slice) (code n : Nat) (p : Option Bool) (c : Option Nat) : (s.ev code n p c).port = s.port := by
  unfold Slice.ev Slice.evBy; split <;> rfl
@[simp] theorem Slice.ev_out (s : Slice) (code n : Nat) (p : Option Bool) (c : Option Nat) : (s.ev code n p c).out = s.out := by
  unfold Slice.ev Slice.evBy; split <;> rfl
@[simp] theorem Slice.ev_chan (s : Slice) (code n : Nat) (p : Option Bool) (c : Option Nat) : (s.ev code n p c).chan = s.chan := by
  unfold Slice.ev Slice.evBy; split <;> rfl
@[simp] theorem Slice.ev_grps (s : Slice) (code n : Nat) (p : Option Bool) (c : Option Nat) : (s.ev code n p c).grps = s.grps := by
  unfold Slice.ev Slice.evBy; split <;> rfl
@[simp] theorem Slice.ev_bulk (s : Slice) (code n : Nat) (p : Option Bool) (c : Option Nat) : (s.ev code n p c).bulk = s.bulk := by
  unfold Slice.ev Slice.evBy; split <;> rfl
@[simp] theorem Slice.ev_holds (s : Slice) (code n : Nat) (p : Option Bool) (c : Option Nat) : (s.ev code n p c).holds = s.holds := by
  unfold Slice.ev Slice.evBy; split <;> rfl
@[simp] theorem Slice.ev_grpHeld (s : Slice) (code n : Nat) (p : Option Bool) (c : Option Nat) : (s.ev code n p c).grpHeld = s.grpHeld := by
  unfold Slice.ev Slice.evBy; split <;> rfl
@[simp] theorem Slice.ev_coh (s : Slice) (code n : Nat) (p : Option Bool) (c : Option Nat) : (s.ev code n p c).coh = s.coh := by
  unfold Slice.ev Slice.evBy; split <;> rfl
@[simp] theorem Slice.ev_walk (s : Slice) (code n : Nat) (p : Option Bool) (c : Option Nat) : (s.ev code n p c).walk = s.walk := by
  unfold Slice.ev Slice.evBy; split <;> rfl
@[simp] theorem Slice.ev_sys (s : Slice) (code n : Nat) (p : Option Bool) (c : Option Nat) : (s.ev code n p c).sys = s.sys := by
  unfold Slice.ev Slice.evBy; split <;> rfl

/-! ### The error record -/

@[simp] theorem Slice.err_mem (s : Slice) (e : ErrEv) : (s.err e).mem = s.mem := by
  unfold Slice.err; dsimp only; split <;> rfl
@[simp] theorem Slice.err_port (s : Slice) (e : ErrEv) : (s.err e).port = s.port := by
  unfold Slice.err; dsimp only; split <;> rfl
@[simp] theorem Slice.err_out (s : Slice) (e : ErrEv) : (s.err e).out = s.out := by
  unfold Slice.err; dsimp only; split <;> rfl
@[simp] theorem Slice.err_chan (s : Slice) (e : ErrEv) : (s.err e).chan = s.chan := by
  unfold Slice.err; dsimp only; split <;> rfl
@[simp] theorem Slice.err_grps (s : Slice) (e : ErrEv) : (s.err e).grps = s.grps := by
  unfold Slice.err; dsimp only; split <;> rfl
@[simp] theorem Slice.err_bulk (s : Slice) (e : ErrEv) : (s.err e).bulk = s.bulk := by
  unfold Slice.err; dsimp only; split <;> rfl
@[simp] theorem Slice.err_holds (s : Slice) (e : ErrEv) : (s.err e).holds = s.holds := by
  unfold Slice.err; dsimp only; split <;> rfl
@[simp] theorem Slice.err_grpHeld (s : Slice) (e : ErrEv) : (s.err e).grpHeld = s.grpHeld := by
  unfold Slice.err; dsimp only; split <;> rfl
@[simp] theorem Slice.err_coh (s : Slice) (e : ErrEv) : (s.err e).coh = s.coh := by
  unfold Slice.err; dsimp only; split <;> rfl
@[simp] theorem Slice.err_walk (s : Slice) (e : ErrEv) : (s.err e).walk = s.walk := by
  unfold Slice.err; dsimp only; split <;> rfl
@[simp] theorem Slice.err_meas (s : Slice) (e : ErrEv) : (s.err e).meas = s.meas := by
  unfold Slice.err; dsimp only; split <;> rfl
@[simp] theorem Slice.err_sys (s : Slice) (e : ErrEv) : (s.err e).sys = s.sys := by
  unfold Slice.err; dsimp only; split <;> rfl
@[simp] theorem Slice.errReq_mem (s : Slice) (n : Nat) (op : Op) (r : Req) : (s.errReq n op r).mem = s.mem := Slice.err_mem ..
@[simp] theorem Slice.errReq_port (s : Slice) (n : Nat) (op : Op) (r : Req) : (s.errReq n op r).port = s.port := Slice.err_port ..
@[simp] theorem Slice.errReq_out (s : Slice) (n : Nat) (op : Op) (r : Req) : (s.errReq n op r).out = s.out := Slice.err_out ..
@[simp] theorem Slice.errReq_chan (s : Slice) (n : Nat) (op : Op) (r : Req) : (s.errReq n op r).chan = s.chan := Slice.err_chan ..
@[simp] theorem Slice.errReq_grps (s : Slice) (n : Nat) (op : Op) (r : Req) : (s.errReq n op r).grps = s.grps := Slice.err_grps ..
@[simp] theorem Slice.errReq_bulk (s : Slice) (n : Nat) (op : Op) (r : Req) : (s.errReq n op r).bulk = s.bulk := Slice.err_bulk ..
@[simp] theorem Slice.errReq_holds (s : Slice) (n : Nat) (op : Op) (r : Req) : (s.errReq n op r).holds = s.holds := Slice.err_holds ..
@[simp] theorem Slice.errReq_grpHeld (s : Slice) (n : Nat) (op : Op) (r : Req) : (s.errReq n op r).grpHeld = s.grpHeld := Slice.err_grpHeld ..
@[simp] theorem Slice.errReq_coh (s : Slice) (n : Nat) (op : Op) (r : Req) : (s.errReq n op r).coh = s.coh := Slice.err_coh ..
@[simp] theorem Slice.errReq_walk (s : Slice) (n : Nat) (op : Op) (r : Req) : (s.errReq n op r).walk = s.walk := Slice.err_walk ..
@[simp] theorem Slice.errReq_meas (s : Slice) (n : Nat) (op : Op) (r : Req) : (s.errReq n op r).meas = s.meas := Slice.err_meas ..
@[simp] theorem Slice.errReq_sys (s : Slice) (n : Nat) (op : Op) (r : Req) : (s.errReq n op r).sys = s.sys := Slice.err_sys ..
@[simp] theorem Slice.errReg_mem (s : Slice) (n off : Nat) (a : CtAcc) : (s.errReg n off a).mem = s.mem := Slice.err_mem ..
@[simp] theorem Slice.errReg_port (s : Slice) (n off : Nat) (a : CtAcc) : (s.errReg n off a).port = s.port := Slice.err_port ..
@[simp] theorem Slice.errReg_out (s : Slice) (n off : Nat) (a : CtAcc) : (s.errReg n off a).out = s.out := Slice.err_out ..
@[simp] theorem Slice.errReg_chan (s : Slice) (n off : Nat) (a : CtAcc) : (s.errReg n off a).chan = s.chan := Slice.err_chan ..
@[simp] theorem Slice.errReg_grps (s : Slice) (n off : Nat) (a : CtAcc) : (s.errReg n off a).grps = s.grps := Slice.err_grps ..
@[simp] theorem Slice.errReg_bulk (s : Slice) (n off : Nat) (a : CtAcc) : (s.errReg n off a).bulk = s.bulk := Slice.err_bulk ..
@[simp] theorem Slice.errReg_holds (s : Slice) (n off : Nat) (a : CtAcc) : (s.errReg n off a).holds = s.holds := Slice.err_holds ..
@[simp] theorem Slice.errReg_grpHeld (s : Slice) (n off : Nat) (a : CtAcc) : (s.errReg n off a).grpHeld = s.grpHeld := Slice.err_grpHeld ..
@[simp] theorem Slice.errReg_coh (s : Slice) (n off : Nat) (a : CtAcc) : (s.errReg n off a).coh = s.coh := Slice.err_coh ..
@[simp] theorem Slice.errReg_walk (s : Slice) (n off : Nat) (a : CtAcc) : (s.errReg n off a).walk = s.walk := Slice.err_walk ..
@[simp] theorem Slice.errReg_meas (s : Slice) (n off : Nat) (a : CtAcc) : (s.errReg n off a).meas = s.meas := Slice.err_meas ..
@[simp] theorem Slice.errReg_sys (s : Slice) (n off : Nat) (a : CtAcc) : (s.errReg n off a).sys = s.sys := Slice.err_sys ..
@[simp] theorem Slice.errSlice_mem (s : Slice) (n d : Nat) : (s.errSlice n d).mem = s.mem := Slice.err_mem ..
@[simp] theorem Slice.errSlice_port (s : Slice) (n d : Nat) : (s.errSlice n d).port = s.port := Slice.err_port ..
@[simp] theorem Slice.errSlice_out (s : Slice) (n d : Nat) : (s.errSlice n d).out = s.out := Slice.err_out ..
@[simp] theorem Slice.errSlice_chan (s : Slice) (n d : Nat) : (s.errSlice n d).chan = s.chan := Slice.err_chan ..
@[simp] theorem Slice.errSlice_grps (s : Slice) (n d : Nat) : (s.errSlice n d).grps = s.grps := Slice.err_grps ..
@[simp] theorem Slice.errSlice_bulk (s : Slice) (n d : Nat) : (s.errSlice n d).bulk = s.bulk := Slice.err_bulk ..
@[simp] theorem Slice.errSlice_holds (s : Slice) (n d : Nat) : (s.errSlice n d).holds = s.holds := Slice.err_holds ..
@[simp] theorem Slice.errSlice_grpHeld (s : Slice) (n d : Nat) : (s.errSlice n d).grpHeld = s.grpHeld := Slice.err_grpHeld ..
@[simp] theorem Slice.errSlice_coh (s : Slice) (n d : Nat) : (s.errSlice n d).coh = s.coh := Slice.err_coh ..
@[simp] theorem Slice.errSlice_walk (s : Slice) (n d : Nat) : (s.errSlice n d).walk = s.walk := Slice.err_walk ..
@[simp] theorem Slice.errSlice_meas (s : Slice) (n d : Nat) : (s.errSlice n d).meas = s.meas := Slice.err_meas ..
@[simp] theorem Slice.errSlice_sys (s : Slice) (n d : Nat) : (s.errSlice n d).sys = s.sys := Slice.err_sys ..

/-! ### The step of a command: its effect on the slice, its entries, a bookkeeping error it met -/

/-- A slice that met no bookkeeping error stays as it is. -/
theorem Slice.bkReset_of (s : Slice) (h : s.sys.bkFail = false) : s.bkReset = s := by simp [Slice.bkReset, h]

/-- A slice that met no bookkeeping error keeps all that the step did. -/
theorem Slice.atFail_of (s : Slice) (h : s.sys.bkFail = false) : s.atFail = s := by simp [Slice.atFail, h]

/-- The error that ends a step at once stands with what the step left of `sys`. -/
@[simp] theorem Slice.atFail_sys (s : Slice) : s.atFail.sys = s.sys := by unfold Slice.atFail; split <;> rfl

@[simp] theorem State.into_sl (s : State) (t : Slice) : (s.into t).sl = t := rfl
@[simp] theorem State.into_gentab (s : State) (t : Slice) : (s.into t).gentab = s.gentab := rfl
@[simp] theorem State.into_pending (s : State) (t : Slice) : (s.into t).pending = s.pending := rfl
@[simp] theorem State.into_turn (s : State) (t : Slice) : (s.into t).turn = s.turn := rfl
@[simp] theorem State.into_prov (s : State) (t : Slice) : (s.into t).prov = s.changes { s with sl := t } := rfl

/-- A slice whose registers stand makes no entry. -/
theorem State.changes_of (s t : State) (h : s.sl.regs = t.sl.regs) : s.changes t = t.prov := if_pos h

/-- An effect that changes nothing leaves the state as it is. -/
@[simp] theorem State.into_self (s : State) : s.into s.sl = s := by
  unfold State.into
  rw [State.changes_of s _ rfl]

@[simp] theorem State.freezeNote_pending (s : State) : s.freezeNote.pending = s.pending := by unfold State.freezeNote; split <;> rfl
@[simp] theorem State.freezeNote_gentab (s : State) : s.freezeNote.gentab = s.gentab := by unfold State.freezeNote; split <;> rfl
@[simp] theorem State.freezeNote_turn (s : State) : s.freezeNote.turn = s.turn := by unfold State.freezeNote; split <;> rfl
@[simp] theorem State.freezeNote_bkFail (s : State) : s.freezeNote.sl.sys.bkFail = s.sl.sys.bkFail := by
  unfold State.freezeNote
  split
  · rfl
  · simp

/-- Without a capture there is no FREEZE entry. -/
theorem State.freezeNote_of (s : State) (h : s.sl.sys.captured = false) : s.freezeNote = s := by simp [State.freezeNote, h]

@[simp] theorem State.tables_pending (s : State) (l : Level) : (s.tables l).pending = s.pending := by cases l <;> rfl
@[simp] theorem State.tables_sl (s : State) (l : Level) : (s.tables l).sl = s.sl := by cases l <;> rfl
@[simp] theorem State.tables_turn (s : State) (l : Level) : (s.tables l).turn = s.turn := by cases l <;> rfl

/-- The generation table under a reset of a level (R615). -/
theorem State.tables_gentab (s : State) (l : Level) : (s.tables l).gentab = if l = .cmp then s.gentab else [] := by cases l <;> rfl

@[simp] theorem State.afterReset_pending (s : State) (t : Slice) (l : Level) (c : Nat) : (s.afterReset t l c).pending = s.pending := by
  unfold State.afterReset; simp
@[simp] theorem State.afterReset_sl (s : State) (t : Slice) (l : Level) (c : Nat) : (s.afterReset t l c).sl = t := by
  unfold State.afterReset; simp
@[simp] theorem State.afterReset_turn (s : State) (t : Slice) (l : Level) (c : Nat) : (s.afterReset t l c).turn = s.turn := by
  unfold State.afterReset; simp
theorem State.afterReset_gentab (s : State) (t : Slice) (l : Level) (c : Nat) :
    (s.afterReset t l c).gentab = if l = .cmp then s.gentab else [] := by
  unfold State.afterReset; rw [State.tables_gentab]

@[simp] theorem State.eachAlone_sl (s : State) : s.eachAlone.sl = s.sl := by unfold State.eachAlone; split <;> rfl
@[simp] theorem State.eachAlone_gentab (s : State) : s.eachAlone.gentab = s.gentab := by unfold State.eachAlone; split <;> rfl
@[simp] theorem State.eachAlone_pending (s : State) : s.eachAlone.pending = s.pending := by unfold State.eachAlone; split <;> rfl
@[simp] theorem State.eachAlone_turn (s : State) : s.eachAlone.turn = s.turn := by unfold State.eachAlone; split <;> rfl
@[simp] theorem State.eachAlone_held (s : State) : s.eachAlone.prov.held = s.prov.held := by unfold State.eachAlone; split <;> rfl

/-- While SCLK runs, changes of one cycle share their entries. -/
theorem State.eachAlone_of (s : State) (h : s.sl.sys.sclkRuns = true) : s.eachAlone = s := if_pos h

/-- The whole effect of a command on the state (R18, R598, R686): the slice's change with its entries, and, where a bookkeeping error was met,
what the reset of the block domain leaves. -/
theorem State.effect_eq (s : State) (f : List (Nat × BitVec 8) → Slice → Slice) :
    s.effect f =
      let u := (s.eachAlone.into (f s.gentab s.sl).atFail).freezeNote
      if (f s.gentab s.sl).sys.bkFail then u.afterReset u.sl.bkReset u.sl.bkReset.sys.applied 4 else u := by
  unfold State.effect
  dsimp only
  rw [State.freezeNote_bkFail, State.into_sl, Slice.atFail_sys]
  cases (f s.gentab s.sl).sys.bkFail <;> simp

/-- Where no bookkeeping error is met and no capture is made, the slice is what the effect makes of it, and the log holds its entries. -/
theorem State.effect_of (s : State) (f : List (Nat × BitVec 8) → Slice → Slice) (h : (f s.gentab s.sl).sys.bkFail = false)
    (c : (f s.gentab s.sl).sys.captured = false) : s.effect f = s.eachAlone.into (f s.gentab s.sl) := by
  rw [State.effect_eq, Slice.atFail_of _ h]
  dsimp only
  rw [State.freezeNote_of _ c, h]
  rfl

/-- No effect touches the queue. -/
@[simp] theorem State.effect_pending (s : State) (f : List (Nat × BitVec 8) → Slice → Slice) : (s.effect f).pending = s.pending := by
  rw [State.effect_eq]; dsimp only; split <;> simp

/-- No effect moves the cycle on. -/
@[simp] theorem State.effect_turn (s : State) (f : List (Nat × BitVec 8) → Slice → Slice) : (s.effect f).turn = s.turn := by
  rw [State.effect_eq]; dsimp only; split <;> simp

/-- Where no bookkeeping error is met and no capture is made, the slice is what the effect makes of it. -/
theorem State.effect_sl (s : State) (f : List (Nat × BitVec 8) → Slice → Slice) (h : (f s.gentab s.sl).sys.bkFail = false)
    (c : (f s.gentab s.sl).sys.captured = false) : (s.effect f).sl = f s.gentab s.sl := by rw [State.effect_of s f h c]; rfl

theorem State.effect_gentab (s : State) (f : List (Nat × BitVec 8) → Slice → Slice) (h : (f s.gentab s.sl).sys.bkFail = false) :
    (s.effect f).gentab = s.gentab := by
  rw [State.effect_eq]; dsimp only; rw [h]; simp

/-- The generation table keeps its entries or loses them all. -/
theorem State.effect_gentab_cases (s : State) (f : List (Nat × BitVec 8) → Slice → Slice) :
    (s.effect f).gentab = s.gentab ∨ (s.effect f).gentab = [] := by
  rw [State.effect_eq]
  dsimp only
  split
  · rw [State.afterReset_gentab]
    split <;> simp
  · exact .inl (by simp)

/-! ### The cycle -/

@[simp] theorem State.cycleBy_pending (s : State) (r : List (Nat × Word)) : (s.cycleBy r).pending = s.pending := by
  unfold State.cycleBy; simp
@[simp] theorem State.cycleBy_turn (s : State) (r : List (Nat × Word)) : (s.cycleBy r).turn = 0 := rfl
@[simp] theorem State.cycle_pending (s : State) : s.cycle.pending = s.pending := by unfold State.cycle; simp
@[simp] theorem State.cycle_turn (s : State) : s.cycle.turn = 0 := rfl
@[simp] theorem State.turnTo_pending (s : State) (k : Nat) (b : Bool) : (s.turnTo k b).pending = s.pending := by
  unfold State.turnTo; split <;> simp
@[simp] theorem State.turnTo_turn (s : State) (k : Nat) (b : Bool) : (s.turnTo k b).turn = k := rfl

/-- A command whose turn is still to come in a cycle that has room for it finds the slice as it is. -/
theorem State.turnTo_of (s : State) (k : Nat) (h : s.turn < k) : s.turnTo k false = { s with turn := k } := by
  unfold State.turnTo
  rw [if_neg (by simp; omega)]

/-- A command's meaning, in the terms of its effect. -/
theorem State.run_eq (s : State) (f : List (Nat × BitVec 8) → Slice → Slice) :
    s.run f = .next (({ s with turn := Turn.own } : State).effect f) := rfl

/-! ### The log's bound -/

/-- The entry that a log makes room for: no log holds more than 256 entries after it (R698, R699). -/
theorem Prov.enter_held_le (p : Prov) (mode : Bool) (e : PvEntry) (h : p.held.length ≤ 256) : (p.enter mode e).held.length ≤ 256 := by
  unfold Prov.enter
  dsimp only
  split
  · simp; omega
  · split
    · simp; omega
    · exact h

theorem Prov.sliceEntry_held_le (p : Prov) (mode : Bool) (stamp : Word) (off : Nat) (old new : Word) (h : p.held.length ≤ 256) :
    (p.sliceEntry mode stamp off old new).held.length ≤ 256 := by
  unfold Prov.sliceEntry
  dsimp only
  split
  · simpa using h
  · exact Prov.enter_held_le _ _ _ h

theorem State.changes_held_le (s t : State) (h : t.prov.held.length ≤ 256) : (s.changes t).held.length ≤ 256 := by
  unfold State.changes
  split
  · exact h
  · generalize regKeys s.sl.regs t.sl.regs = ks
    generalize t.prov = p at h
    induction ks generalizing p with
    | nil => exact h
    | cons k r ih =>
      refine ih _ ?_
      dsimp only
      split
      · exact h
      · exact Prov.sliceEntry_held_le _ _ _ _ _ _ h

theorem State.freezeNote_held_le (s : State) (h : s.prov.held.length ≤ 256) : s.freezeNote.prov.held.length ≤ 256 := by
  unfold State.freezeNote
  split
  · exact h
  · exact Prov.enter_held_le _ _ _ h

theorem State.afterReset_held_le (s : State) (t : Slice) (l : Level) (c : Nat) (h : s.prov.held.length ≤ 256) :
    (s.afterReset t l c).prov.held.length ≤ 256 := by
  have k := s.changes_held_le { s with sl := s.sl.resetMarks l c } h
  unfold State.afterReset
  cases l with
  | cmp => exact k
  | pkg => exact k
  | por => simp [State.tables, Prov.empty]

theorem State.effect_held_le (s : State) (f : List (Nat × BitVec 8) → Slice → Slice) (h : s.prov.held.length ≤ 256) :
    (s.effect f).prov.held.length ≤ 256 := by
  have k := State.freezeNote_held_le (s.eachAlone.into (f s.gentab s.sl).atFail)
    (s.eachAlone.changes_held_le { s.eachAlone with sl := (f s.gentab s.sl).atFail } (by simpa using h))
  rw [State.effect_eq]
  dsimp only
  split
  · exact State.afterReset_held_le _ _ _ _ k
  · exact k

end Sys2Proof.Machine
end

