-- ==== Sys2Proof/Laws/Port.lean ====
section
/-! SUPPORT. Settling a still slice changes nothing, and a request that the port takes at once is accepted and settled. -/

namespace Sys2Proof.Machine

theorem foldl_fixed {α β : Type} (l : List β) (f : α → β → α) (a : α) (h : ∀ x ∈ l, f a x = a) : l.foldl f a = a := by
  induction l with
  | nil => rfl
  | cons x xs ih =>
    rw [List.foldl_cons, h x (by simp)]
    exact ih fun y hy => h y (by simp [hy])

theorem Slice.trk?_mem {s : Slice} {id : Nat} {t : Trk} (h : s.trk? id = some t) : t ∈ s.port.trks := List.mem_of_find?_eq_some h

/-- What is due already is not sent again. -/
theorem Slice.invStart_due (s : Slice) (g : List (Nat × BitVec 8)) (l : LineAddr) (v : BitVec 8) (j : Job)
    (h : v &&& ~~~(s.invDue l) = 0) : s.invStart g l v j = s := by
  unfold Slice.invStart
  simp [h]

/-- No loan copy is left to call in for an arrival. -/
theorem Slice.callLoans_called {s : Slice} {t : Trk} (g : List (Nat × BitVec 8))
    (h : t.req.vsp = true ∨ s.loansCalled t.req.line = true) : s.callLoans g t = s := by
  unfold Slice.callLoans
  cases hv : t.req.vsp
  · simp only [hv, Bool.false_eq_true, false_or] at h
    unfold Slice.loansCalled at h
    cases hl : s.lookup Use.L t.req.line with
    | none => simp
    | some w =>
      rw [hl] at h
      exact s.invStart_due g _ _ _ (by simpa using h)
  · simp

/-- No loan copy of a CLOSING group's lines is left to call in. -/
theorem Slice.closeLoans_called (s : Slice) (g : List (Nat × BitVec 8)) (h : s.grps.all s.grpCalled = true) : s.closeLoans g = s := by
  unfold Slice.closeLoans
  refine foldl_fixed _ _ _ fun p hp => ?_
  have hg := List.all_eq_true.mp h p hp
  unfold Slice.grpCalled at hg
  split
  · next hc =>
    simp only [Bool.and_eq_true, Bool.not_eq_true', decide_eq_true_eq] at hc
    simp only [hc.1.1, hc.1.2, hc.2, bne_self_eq_false, Bool.or_false, Bool.false_or] at hg
    refine foldl_fixed _ _ _ fun l hl => ?_
    have hk := List.all_eq_true.mp hg l hl
    unfold Slice.loansCalled at hk
    unfold Slice.lineLoans
    cases hw : s.lookup Use.L l with
    | none => rfl
    | some w =>
      rw [hw] at hk
      exact s.invStart_due g _ _ _ (by simpa using hk)
  · rfl

/-- A tracker that stays where it is is not carried on. -/
theorem Slice.advanceTrk_still (s : Slice) (g : List (Nat × BitVec 8)) (id : Nat) (h : s.port.trks.all s.trkStill = true) :
    s.advanceTrk g id = s := by
  unfold Slice.advanceTrk
  cases ht : s.trk? id with
  | none => rfl
  | some t =>
    have hw := List.all_eq_true.mp h t (Slice.trk?_mem ht)
    unfold Slice.trkStill Trk.waits at hw
    revert hw
    cases hs : t.stage <;> simp [hs]
    intro hj hc
    simp [hj, Slice.callLoans_called g hc]

/-- A transaction that waits is not carried on. -/
theorem Slice.advanceTxn_still (s : Slice) (g : List (Nat × BitVec 8)) (l : LineAddr) (h : s.coh.txns.all Txn.waits = true) :
    s.advanceTxn g l = s := by
  unfold Slice.advanceTxn
  cases ht : s.txn? l with
  | none => rfl
  | some t =>
    have hw := List.all_eq_true.mp h t (List.mem_of_find?_eq_some ht)
    unfold Txn.waits at hw
    simp only [Bool.and_eq_true] at hw
    simp [hw.2]

/-- A tracker that stays where it is waits at no point. -/
theorem Trk.point_still {s : Slice} {t : Trk} (h : s.trkStill t = true) : t.point = none := by
  unfold Slice.trkStill Trk.waits at h
  unfold Trk.point
  revert h
  cases t.stage <;> simp

/-- Serving changes nothing where every tracker stays. -/
theorem Slice.servePass_still (s : Slice) (g : List (Nat × BitVec 8)) (h : s.port.trks.all s.trkStill = true) : s.servePass g = s := by
  have hp : s.servePlain g = s :=
    foldl_fixed _ _ _ fun t _ => by rw [s.advanceTrk_still g t.id h, ite_self]
  have hn : ∀ p tried, s.nextAt p tried = none := by
    intro p tried
    have e : (s.port.trks.filter fun t => t.point == some p && !tried.contains t.id) = [] := by
      rw [List.filter_eq_nil_iff]
      intro t ht
      simp [Trk.point_still (List.all_eq_true.mp h t ht)]
    unfold Slice.nextAt
    rw [e]
    rfl
  unfold Slice.servePass Slice.serveLoop
  simp [hp, hn]

/-- No request of a cluster waits to be ordered. -/
theorem Slice.orderWaiters_none (s : Slice) (g : List (Nat × BitVec 8)) (n : Nat) (h : s.coh.waiters = []) : s.orderWaiters g n = s := by
  cases n with
  | zero => rfl
  | succ n =>
    have : s.waiterReady = none := by unfold Slice.waiterReady; simp [h]
    unfold Slice.orderWaiters
    rw [this]

/-- Settling changes nothing in a still slice. -/
theorem Slice.settle_still (s : Slice) (g : List (Nat × BitVec 8)) (h : s.still = true) : s.settle g = s := by
  unfold Slice.still at h
  simp only [Bool.and_eq_true, List.isEmpty_iff, Option.isNone_iff_eq_none] at h
  obtain ⟨⟨⟨⟨⟨⟨⟨⟨⟨⟨⟨⟨⟨⟨⟨⟨⟨hev, hbo⟩, htx⟩, hsw⟩, hcr⟩, hq⟩, hraw⟩, hprep⟩, hdy⟩, hwt⟩, -⟩, -⟩, hab⟩, hgh⟩, hgc⟩, hpk⟩, hcm⟩, htk⟩ := h
  have hr : ((s.evictEnds.killsEnd.advanceAll g).readWaiters.orderWaiters g 64).servePass g = s := by
    have h1 : s.evictEnds = s := by unfold Slice.evictEnds; rw [hev]; rfl
    have h1' : s.killsEnd = s := by unfold Slice.killsEnd; rw [hdy]; rfl
    rw [h1, h1']
    have ha : s.coh.txns.foldl (fun s t => s.advanceTxn g t.line) s = s :=
      foldl_fixed _ _ _ fun t _ => s.advanceTxn_still g t.line htx
    have hk : s.coh.txns.foldl (fun s t => s.wakeTxn g t) s = s := by
      refine foldl_fixed _ _ _ fun t hm => ?_
      have hw := List.all_eq_true.mp htx t hm
      unfold Txn.waits at hw
      simp only [Bool.and_eq_true, Option.isNone_iff_eq_none] at hw
      unfold Slice.wakeTxn
      simp [hw.1]
    have h2 : s.advanceAll g = s := by
      unfold Slice.advanceAll
      dsimp only
      rw [ha, hk, ha, ite_self]
    have h2' : s.readWaiters = s := by unfold Slice.readWaiters; rw [hwt]; rfl
    rw [h2, h2', s.orderWaiters_none g 64 hwt]
    exact s.servePass_still g htk
  unfold Slice.settle
  dsimp only
  rw [hr, hr, hr]
  have h3 : s.sweepsDone g = s := by unfold Slice.sweepsDone; simp [hsw]
  have h4 : s.abortsDue g = s := by
    unfold Slice.abortsDue
    refine foldl_fixed _ _ _ fun p hp => ?_
    have := List.all_eq_true.mp hab p hp
    simp [this]
  have h4' : s.grpResume g = s := by
    unfold Slice.grpResume
    rw [hgh]
    show ({ s with grpHeld := [] } : Slice) = s
    rw [← hgh]
  have h5 : s.bulkEnds = s := by
    have hs : s.progShow = s := by
      unfold Slice.progKept at hpk
      unfold Slice.progShow
      split <;> simp_all
    unfold Slice.bulkEnds
    rw [hs]
    refine foldl_fixed _ _ _ fun c hc => ?_
    have := List.all_eq_true.mp hcm c hc
    rw [Option.isNone_iff_eq_none] at this
    simp [this]
  have h6 : s.maint g = s := by unfold Slice.maint Slice.prepStep; simp [hq, hraw, hprep]
  have h7 : s.grantCredits g = s := by unfold Slice.grantCredits; simp [hcr]
  rw [h3, h4, h4', s.closeLoans_called g hgc, h5, h6, h7]

/-- The mark that an accepted request leaves in its pipe's slot of the cycle. -/
def Slice.slotServed (s : Slice) (odd : Bool) : Slice :=
  s.modPort fun p => if odd then { p with slotO := some .served, rcrO := false } else { p with slotE := some .served, rcrE := false }

/-- A sound directory set without a bookkeeping error is read without effect. -/
theorem Slice.checkSetDir_sound (s : Slice) (l : LineAddr) (hb : s.mem.bkchk = []) (h : s.dirSound l = true) :
    s.checkSetDir (setOf l) = s := by
  unfold Slice.checkSetDir
  split
  · rfl
  · refine foldl_fixed _ _ _ fun e he => ?_
    have hk : ∀ kind ix way set word, s.checkBkWord kind ix way set word = s := by
      intros
      unfold Slice.checkBkWord Mem.bkAt
      rw [hb]
      rfl
    dsimp only
    rw [hk, hk, if_neg]
    have := List.all_eq_true.mp h e he
    simpa using this

/-- A request finds the directory set of its line as it is. -/
theorem Slice.readHost_sound (s : Slice) (op : Op) (r : Req) (hb : s.mem.bkchk = []) (h : s.hostSound op r = true) :
    s.readHost op r = s := by
  unfold Slice.readHost
  unfold Slice.hostSound at h
  split
  · next l hl =>
    rw [hl] at h
    split
    · next hc =>
      simp only [Bool.and_eq_true] at hc
      simp only [hc.2, Bool.not_true, Bool.false_or] at h
      unfold Slice.readSet
      rw [s.checkSetDir_sound l hb h, ite_self]
    · rfl
  · rfl

/-- A request that the port takes at once is accepted, and the slice settles. -/
theorem Slice.request_admits (s : Slice) (g : List (Nat × BitVec 8)) (op : Op) (r : Req) (h : s.admits g op r = true)
    (ht : s.port.trks = []) (hb : s.mem.bkchk = []) :
    s.request op r g = ((s.stir.slotServed r.odd).accept g op r .pass (s.cvtOf op r) none).settle g := by
  unfold Slice.admits at h
  simp only [Bool.and_eq_true, beq_iff_eq, Bool.not_eq_true', Option.isNone_iff_eq_none] at h
  obtain ⟨⟨⟨⟨⟨⟨⟨⟨-, hhost⟩, hrdy⟩, hvia⟩, hpeer⟩, hcred⟩, hver⟩, hpl⟩, hans⟩ := h
  unfold Slice.request
  rw [hvia]
  dsimp only
  unfold Slice.present
  have hv : s.stir.verdict g op r = .pass := hver
  have hc : (if isCvt op then s.stir.cvtWindow op r else none) = s.cvtOf op r := rfl
  have hj : s.stir.joinTo op r (s.cvtOf op r) = none := by
    unfold Slice.joinTo Slice.stir Slice.modMeas
    simp [ht]
  have ha : s.stir.answerOf op r true false (s.cvtOf op r) = .acc false := hans
  have hh : s.stir.readHost op r = s.stir := s.stir.readHost_sound op r hb hhost
  simp only [hrdy, hv, hh, hc, hj, ha, beq_self_eq_true, Bool.not_true, if_false, Bool.false_eq_true, ite_self, Option.isSome_none,
    bne_self_eq_false]
  have hcu : s.stir.creditUsed op r (.acc false) = s.stir := by
    unfold Slice.creditUsed
    simp [hcred]
  have hres : (s.stir.useCredit r.cred r.reqid op r.vsp r.pa r.ctx r.gen).map (·.res) = none := by
    unfold Slice.useCredit
    simp [hcred]
  rw [hcu, hres]
  congr 2

end Sys2Proof.Machine
end

