-- ==== Sys2Proof/Tests/Slice0.lean ====
section
/-! SUPPORT. Tests: each check of WellFormed refuses an ill-formed command; examples of the spec; and, for every statement with
hypotheses, clause by clause, a state and operands that meet all of them together (the hypotheses in the statement's own words). -/

namespace Sys2Proof.Tests
open Sys2Proof.Machine

set_option Elab.async false

/-- Registers of an awake slice of die 0, number 0: every port released, every function ready, every credit held,
    the channel in NORMAL. -/
def wRegs : List (Nat × Word) := [(0x00C0, 0x3F), (0x00C8, 0x6020203F), (0x8008, 1)]

/-- A slice at rest with those registers and more, written over them. -/
def wSlice (more : List (Nat × Word)) : Slice :=
  { Slice.start with
    regs := Sparse.setAll resetWord wRegs more
    out := { Outs.empty with lwCred := List.replicate 5 8, ddCred := List.replicate 24 16 }
    sys := { Sys.start with applied := .cmp, released := 6, bkLost := false } }

def wState (more : List (Nat × Word)) : State :=
  { sl := wSlice more, gentab := [], prov := Prov.empty, turn := 0, pending := [] }

/-- A request of the mesh with every field zero but its address. -/
def wReq (pa : Nat) : Req := { Req.zero with pa := BitVec.ofNat 52 pa }

/-- The state with a line of 0xAA bytes resident in way 0 of its set. -/
def wLine (s : State) (l : LineAddr) (word : Word) : State :=
  { s with sl := { s.sl with mem := (s.sl.mem.setTag 0 (setOf l) word).writeLine 0 (setOf l) (lineOf (fun _ => 0xAA) 128) fullMask } }

/-- The next state of an outcome. -/
def nextOf (o : Host.Outcome State Fault Refusal) : State := match o with | .next t => t | _ => State.reset

def s0 := wState []
def tagW (l : LineAddr) (sv sd : Nat) : Word := setSD (setSV (BitVec.ofNat 64 l.toNat) sv) sd
def s1 := wLine s0 0 (tagW 0 15 0)
/-- Registers with more values that differ from reset. -/
def rich : List (Nat × Word) :=
  [(NS_RET_CTL.KEEPFREE.off,
    setBits (setBits (resetWord NS_RET_CTL.KEEPFREE.off) NS_RET_CTL.KEEPFREE.lo NS_RET_CTL.KEEPFREE.w 15) NS_RET_CTL.COMBMAX.lo NS_RET_CTL.COMBMAX.w 4),
   (NS_REG_BUDGET.USED 7 |>.off, 0x0000FFFF00000010), (NS_REG_BUDGET.USED 0 |>.off, 0x0000000F00000010),
   (NS_REG_WRBYTES.COUNT 3 |>.off, 0x0000FFFFFFFFFFFF), (NS_RET_EVT.KEEPDEM.off, 0x1234),
   (Reg.NS_CNT_CYCLE, 0x12345), (Reg.NS_CNT_SEL 0, 0x800000000003FF0A), (Reg.NS_CNT_SEL 1, 0x800000000003FF0F)]
def t0 := { wState rich with prov := { Prov.empty with seqNext := 5 } }
def otherTag (s : State) (w : Nat) (l : LineAddr) (word : Word) : State := { s with sl := s.sl.setTag w (setOf l) word }
def t1 := otherTag (wLine t0 0 (setRET (tagW 0 15 5) 3)) 1 0 (tagW 0x2000 15 15)
def q1 : Req := { wReq 5 with hint := 0, cls := 3, reqid := 7, slack := 20, tag := 0x123, ctx := 0, srcdie := 2 }
def setF (s : State) (f : Fld) (n : Nat) : State := { s with sl := s.sl.setFld f n }
def vt (s : State) : State := 
  let s := { s with sl := s.sl.wr Reg.NS_WAYMAP 0x0000000000040300 }
  let s := setF (setF (setF s (NS_VT_REGION.EN 3) 1) (NS_VT_REGION.BASE 3) 0) (NS_VT_REGION.LIMIT 3) 0xFFF
  setF s (NS_VT_REGION.SHARED 3) 1
def vline : Nat := 2 * 8192 + 4
def vtl (s : State) (w : Word) : State := { s with sl := { s.sl with mem := (s.sl.mem.setTag 2 4 w).writeLine 2 4 (lineOf (fun b => BitVec.ofNat 8 (0x40 + b)) 128) fullMask } }
def v0 := vtl (vt s0) (setSV 0 15)
def v1 := vtl (vt t0) (setSV 0 5)
def vq : Req := { q1 with pa := BitVec.ofNat 52 (2 * 2^20 + 4 * 128) }
def vq2 : Req := { vq with mask := 0xFF00000000FFFF,
                           data := 0x99887766554433221100998877665544332211009988776655443322110099887766554433221100 }

/-! ### Well-formed commands -/

/-- An access that carries a word. -/
def acc (d : Word) : CtAcc := { data := d, tag := 0, origin := 0, priv := 3, upper := false, half := false }
/-- A reply that names part 2 of 2. -/
def badPart : RepMsg :=
  { tag := 0, status := 0, acklvl := 0, detail := 0, auxr := 0, part := 2, npart := 2, pois := 0, pcause := 0, data := 0 }
/-- A group-control request whose descriptor carries a CMD. -/
def grpCmd (n : Nat) : GrpReq := .mesh { wReq 0 with data := BitVec.ofNat 1024 n }

/-- The other pipe presents a read, which carries no data. -/
def readPeer : Peer := { op := .rd, reqid := 0, cred := false, vsp := false, ctx := 0, gen := 0, pa := 0 }

theorem test_wf_peer_without_data : (Instr.rd { wReq 0 with peer := some readPeer }).wf = false := by decide
theorem test_wf_peer_over_dd : (Instr.rd { wReq 0 with via := .dd 1, peer := some { readPeer with op := .wr } }).wf = false := by decide
theorem test_wf_credit_over_dd : (Instr.rd { wReq 0 with via := .dd 1, cred := true }).wf = false := by decide
theorem test_wf_assigned_opcode : (Instr.reservedOpcode 0x00 (wReq 0)).wf = false := by decide
theorem test_wf_open_of_close : (Instr.openGrp (grpCmd 2)).wf = false := by decide +kernel
theorem test_wf_close_of_open : (Instr.closeGrp (grpCmd 1)).wf = false := by decide +kernel
theorem test_wf_abort_of_close : (Instr.abortGrp (grpCmd 2)).wf = false := by decide +kernel
theorem test_wf_part : (Instr.ddReply badPart).wf = false := by decide
theorem test_wf_tile : (Instr.tileInvAck 144 0).wf = false := by decide
theorem test_wf_otag : (Instr.hcReadBeat 96 0 0).wf = false := by decide
theorem test_wf_page_offset : (Instr.translationDone 0x1001 0x2002).wf = false := by decide
theorem test_wf_purge_word : (Instr.ctMsgReserved 0x10000000).wf = false := by decide
theorem test_wf_bits : ([.blkCtlPause (acc 4), .blkCtlAbort (acc 0), .idlereq (acc 1), .blockResetGo (acc 0), .prep (acc 0),
                         .save (acc 0),
    .qset (acc 2), .qclr (acc 1), .rawrd (acc 2), .rawwr (acc 1)] : List Instr).all (fun c => !c.wf) = true := by decide
theorem test_wf_accepts : ([.rd (wReq 0), .openGrp (grpCmd 1), .tileInvAck 143 0, .blkCtlAbort (acc 4), .sclkCycle] : List Instr).all
    Instr.wf = true := by decide +kernel

/-! ### The rows give no bits -/

theorem test_no_word_spells_a_command : decodeTableWord 32 0 = none := rfl
theorem test_fetch_word_changes_nothing : State.reset.withFetchWord 32 0 = State.reset := rfl

/-! ### Worked cases of the spec -/

/-- R31's example: PA 0x0000_0008_3C71_4E00 is homed at slice 3.49. -/
theorem test_home_of_host_line : wingHome (BitVec.ofNat 45 (0x83C714E00 / 128)) = (3, 49) := by decide +kernel

/-- The elements of a source line. -/
def srcLine (w : Nat) (l : List Nat) : LineData := l.zipIdx.foldl (fun a p => setBits a (w * p.2) w p.1) 0
/-- R335's worked case: 10.5, 2.7, 0.3 and −7.0, then 28 times 1.0, in BF16. -/
def mxBlock : LineData := srcLine 16 ([0x4128, 0x402D, 0x3E9A, 0xC0E0] ++ List.replicate 28 0x3F80)
theorem test_mx_encode : (storePart 0x18 2 0 mxBlock 0).scales.head? = some 0x80 ∧
    getBits (storePart 0x18 2 0 mxBlock 0).data 0 20 = 0x1E037 := by decide +kernel
/-- R335's second block: 7.5 and 1.2; the scale goes up by one. -/
theorem test_mx_scale_up : (storePart 0x18 2 0 (srcLine 16 [0x40F0, 0x3F9A]) 0).scales.head? = some 0x80 ∧
    getBits (storePart 0x18 2 0 (srcLine 16 [0x40F0, 0x3F9A]) 0).data 0 8 = 0x16 := by decide +kernel
/-- MXFP4 code 0x7 under scale 0xFE is delivered in BF16 as infinity, with OF. -/
theorem test_mx_deliver_overflow : getBits (deliverPart 0x18 2 7 0 (fun _ => (0xFE, 0)) 0).1 0 16 = 0x7F80 ∧
    (deliverPart 0x18 2 7 0 (fun _ => (0xFE, 0)) 0).2.2.of = true := by decide +kernel

/-- R485's example: TARGET 400 and a mean of 310 give BOOST 2. -/
def boostCase : State :=
  let s := { t0 with sl := t0.sl.wr Reg.NS_CNT_CYCLE 0x5000 }
  { s with sl := (s.sl.setFld (NS_REG_CLASS.TARGET 5) 400).modMeas fun q =>
                  { q with latSum := [0, 0, 0, 0, 0, 310, 0, 0], latCnt := [0, 0, 0, 0, 0, 1, 0, 0] } }
theorem test_boost : (nextOf (exec .regWindowStart boostCase)).sl.fld (NS_REG_CLASS.BOOST 5) = 2 := by decide +kernel

theorem test_PowerUpValues : ∃ off fs, regFields off = some fs ∧ off ≠ Reg.NS_RST_CAUSE ∧ off ≠ Reg.NS_RST_CNT0 ∧ fs ≠ [] :=
  ⟨Reg.NS_WAYMAP, _, rfl, by decide, by decide, by decide⟩

theorem test_StepKeepsInv : ∃ s t, s.inv = true ∧ step s = .next t := ⟨State.reset, _, by decide, rfl⟩

theorem test_StepRunsFront_bkFail : ∃ s : State, s.sl.sys.bkFail = false := ⟨State.reset, rfl⟩

/-! ### Headers (R507, R512, R521) -/

/-- WR (code 3) of PA 0x1080 with CTX 1, HINT 2, TAG 5, PRIV 2, no slack and byte 0 selected, bit by bit from the table of R507. -/
theorem test_header_bits : Req.header .wr { wReq 0x1080 with ctx := 1, hint := 2, tag := 5, priv := 2, mask := 1 } =
    BitVec.ofNat 384 (2 ^ 256 + 2 * 2 ^ 149 + 5 * 2 ^ 119 + 0x1080 * 2 ^ 56 + 0xFFF * 2 ^ 33 + 2 * 2 ^ 28 + 2 ^ 6 + 3) := by decide +kernel
/-- Code 0x32 is the posted SMAX. -/
theorem test_header_opcode : headerOp 0x32 = .atom .smax true := by decide +kernel
/-- ACK of both levels to requester 9 of die 2 under tag 7, from the table of R521. -/
theorem test_reply_header_bits : replyHeader [destBits 7 9 2] { badPart with part := 0, npart := 1, acklvl := 3 } =
    BitVec.ofNat 512 ((7 * 2 ^ 11 + 9 * 2 ^ 3 + 2) * 2 ^ 144 + 2 ^ 71 + 2 ^ 19 + 3 * 2 ^ 14) := by decide +kernel
theorem test_HeadersAgree_3 : (BitVec.ofNat 384 0x12345).extractLsb' 151 41 = 0 := by decide
theorem test_HeadersAgree_4 : [destBits 7 9 2, destBits 8 9 2].length ≤ 16 ∧ [destBits 7 9 2,
                                                                              destBits 8 9 2].head? = some (destBits 7 9 2) := by
  decide


/-! ### Witnesses of the statements' hypotheses -/

namespace Reads

def rw : Req := {wReq 0 with mask := 0xFF, data := 0x1122334455667788}

theorem test_ReadHitReplies :
    ∃ (v : State) (s : State) (op : Op) (r : Req) (c : Instr) (w : Nat), (op = .rd ∨ op = .rdc ∨ op = .rdacq) ∧ requestCmd op r = some c ∧
    s.sl.calm = true ∧ v.admits s op r ∧ s.sl.isHost r.line = false ∧ s.sl.lookup Use.L r.line = some w ∧ tagSV (s.sl.tag w (setOf
    r.line)) = 15 :=
  ⟨s1, (s1).slotFor (.rd) ((wReq 0)), .rd, wReq 0, .rd (wReq 0), 0, by unfold State.admits; decide +kernel⟩

theorem test_WriteHitStores :
    ∃ (v : State) (s : State) (op : Op) (r : Req) (c : Instr) (w : Nat), (op = .wr ∨ op = .wrrel) ∧ requestCmd op r = some c ∧ s.sl.calm =
    true ∧ v.admits s op r ∧ s.sl.isHost r.line = false ∧ s.sl.lookup Use.L r.line = some w ∧ touched r.mask &&& (15 - covered r.mask) &&&
    (15 - tagSV (s.sl.tag w (setOf r.line))) = 0 ∧ reqCauses r.pois r.pcause = 0 ∧ s.sl.mem.loanAt w (setOf r.line) = 0 ∧ s.sl.draining w
    = false :=
  ⟨s1, (s1).slotFor (.wr) (rw), .wr, rw, .wr rw, 0, by unfold State.admits; decide +kernel⟩

end Reads

namespace Requests

def rw : Req := {wReq 0 with mask := 0xFF, data := 0x1122334455667788, aux := 0x4105}
def qc : Req := {q1 with pa := 0, mask := fullMask, data := 0x11223344556677881122334455667788}
def u1 := setF t1 (NS_ACCN_TARGET.EN 5) 1
def qs : Req := {q1 with mask := fullMask, aux := 5 + 2^17 * 7}

theorem test_CountedWriteIncrements :
    ∃ (v : State) (s : State) (r : Req) (w : Nat), s.sl.calm = true ∧ v.admits s .cntwr r ∧ s.sl.isHost r.line = false ∧ s.sl.lookup Use.L
    r.line = some w ∧ touched r.mask &&& (15 - covered r.mask) &&& (15 - tagSV (s.sl.tag w (setOf r.line))) = 0 ∧ reqCauses r.pois
    r.pcause = 0 ∧ s.sl.mem.loanAt w (setOf r.line) = 0 ∧ s.sl.draining w = false ∧ s.sl.canIssueReq = true :=
  ⟨s1, (s1).slotFor .cntwr (rw), rw, 0, by unfold State.admits; decide +kernel⟩

theorem test_FencesAndFlushesReply_1 :
    ∃ (v : State) (s : State) (op : Op) (r : Req) (c : Instr), (op = .fence ∨ op = .flush) ∧ requestCmd op r = some c ∧ s.sl.calm = true ∧
    v.admits s op r ∧ (op = .flush → ∀ w, s.sl.lookup (s.sl.useOf r.line) r.line = some w → tagSD (s.sl.tag w (setOf r.line)) = 0 ∧ tagGRP
    (s.sl.tag w (setOf r.line)) = false) :=
  ⟨t1, (t1).slotFor (.fence) (q1), .fence, q1, .fence q1, by unfold State.admits; decide +kernel⟩

theorem test_FencesAndFlushesReply_2 :
    ∃ (v : State) (s : State) (r : Req) (w : Nat) (bay : Nat), s.sl.calm = true ∧ v.admits s .flush r ∧ s.sl.isHost r.line = false ∧
    s.sl.lookup Use.L r.line = some w ∧ tagSV (s.sl.tag w (setOf r.line)) = 15 ∧ tagSD (s.sl.tag w (setOf r.line)) ≠ 0 ∧ tagGRP (s.sl.tag
    w (setOf r.line)) = false ∧ s.sl.chanReady = true ∧ s.sl.memTgt r.line = .chan bay :=
  ⟨t1, (t1).slotFor .flush (q1), q1, 0, 0, by unfold State.admits; decide +kernel⟩

theorem test_CommandWriteTakesSlot :
    ∃ (v : State) (s : State) (r : Req), s.sl.calm = true ∧ v.admits s .cmdwr r :=
  ⟨t1, (t1).slotFor .cmdwr (qc), qc, by unfold State.admits; decide +kernel⟩

theorem test_SealedWriteHeld_2 :
    ∃ (v : State) (s : State) (r : Req), s.sl.calm = true ∧ v.admits s .sealwr r ∧ s.sl.sealCheck r = 0 ∧ s.sl.hold? (accNum r) = none ∧
    s.sl.fld (NS_ACCN_TARGET.COUNT (accNum r)) < accTarget r :=
  ⟨u1, (u1).slotFor .sealwr (qs), qs, by unfold State.admits; decide +kernel⟩

theorem test_SealedWriteHeld_3 :
    ∃ (v : State) (s : State) (r : Req), s.sl.calm = true ∧ v.admits s .sealwr r ∧ s.sl.sealCheck r ≠ 0 :=
  ⟨t1, (t1).slotFor .sealwr (qs), qs, by unfold State.admits; decide +kernel⟩

theorem test_IncrementCounts :
    ∃ (v : State) (s : State) (r : Req), s.sl.calm = true ∧ v.admits s .accinc r ∧ s.sl.flag (NS_ACCN_TARGET.EN (accNum r)) = true
        ∧ s.sl.fld
    (NS_ACCN_TARGET.CTX (accNum r)) = r.ctx.toNat ∧ s.sl.accState (accNum r) ≠ AccSt.ERROR ∧ s.sl.fld (NS_ACCN_TARGET.COUNT (accNum r)) <
    0xFFFFFF ∧ (s.sl.accState (accNum r) = AccSt.HOLDING → s.sl.fld (NS_ACCN_TARGET.COUNT (accNum r)) + 1 < s.sl.fld
    (NS_ACCN_TARGET.TARGET (accNum r))) :=
  ⟨u1, (u1).slotFor .accinc ({qs with aux := 5 + 2^17}), {qs with aux := 5 + 2^17}, by unfold State.admits; decide +kernel⟩

theorem test_ProxyUsesChannel_1 :
    ∃ (v : State) (s : State) (r : Req) (bay : Nat), s.sl.calm = true ∧ s.sl.chanReady = true ∧ s.sl.memTgt r.line = .chan bay
        ∧ v.admits s
    .pxrd r :=
  ⟨t1, (t1).slotFor .pxrd (q1), q1, 0, by unfold State.admits; decide +kernel⟩

theorem test_ProxyUsesChannel_2 :
    ∃ (v : State) (s : State) (r : Req) (bay : Nat), s.sl.calm = true ∧ s.sl.chanReady = true ∧ s.sl.memTgt r.line = .chan bay
        ∧ v.admits s
    .pxwr r ∧ r.mask = fullMask :=
  ⟨t1, (t1).slotFor .pxwr ({q1 with slack := 0, mask := fullMask, pois := 3, pcause := 9}), {q1 with slack := 0, mask := fullMask,
                                                                                                     pois := 3, pcause := 9}, 0,
                                                                                                         by unfold State.admits; decide +kernel⟩

theorem test_RequestsTurnedAway_1 :
    ∃ (v : State) (s : State) (code : BitVec 6) (op : Op) (r : Req), (if code = 0x16 then op = .tinv else op = .other code)
        ∧ s.sl.calm = true
    ∧ v.reaches s op r ∧ isStale s.gentab op r = false :=
  ⟨t1, (t1).slotFor ((.other 0x17)) (q1), 0x17, .other 0x17, q1, by unfold State.reaches; decide +kernel⟩

theorem test_RequestsTurnedAway_2 :
    ∃ (v : State) (s : State) (op : Op) (r : Req) (c : Instr), requestCmd op r = some c ∧ s.sl.calm = true ∧ v.reaches s op r ∧ isStale
    s.gentab op r = true :=
  ⟨t1, (t1).slotFor (.rd) ({q1 with gen := 5}), .rd, {q1 with gen := 5}, .rd {q1 with gen := 5}, by unfold State.reaches; decide +kernel⟩

theorem test_FencesAndFlushesReply_1_flush :
    ∃ (v : State) (s : State) (op : Op) (r : Req) (c : Instr), (op = .fence ∨ op = .flush) ∧ requestCmd op r = some c ∧ s.sl.calm = true ∧
    v.admits s op r ∧ (op = .flush → ∀ w, s.sl.lookup (s.sl.useOf r.line) r.line = some w → tagSD (s.sl.tag w (setOf r.line)) = 0 ∧ tagGRP
    (s.sl.tag w (setOf r.line)) = false) :=
  ⟨s1, (s1).slotFor (.flush) (q1), .flush, q1, .flush q1, by unfold State.admits; decide +kernel⟩

end Requests

namespace Vitrines

def aq : Req := { q1 with pa := 8, mask := 0xFF00, data := 0x8899AABBCCDDEEFF1122334455667788, fmt := 0 }
def oA (a : AOp) (r : Req) := atomApply a r.off r.mask r.fmt.toNat r.data (t1.sl.mem.readLine 0 (setOf r.line))

theorem test_RequestsTurnedAway_3 :
    ∃ (v : State) (s : State) (a : AOp) (posted : Bool) (r : Req) (c : Instr) (bad : Bool), requestCmd (.atom a posted) r = some c
        ∧ s.sl.calm
    = true ∧ v.admits s (.atom a posted) r ∧ r.vsp = false ∧ atomOk a r.off r.mask r.fmt.toNat = !bad ∧ (bad = false → s.sl.grpMarked
    r.line = true) :=
  ⟨t1, (t1).slotFor (.atom (.ladd) (false)) (aq), .ladd, false, aq, .ladd aq, true, by unfold State.admits; decide +kernel⟩

theorem test_VitrineReadReplies_1 :
    ∃ (v : State) (s : State) (r : Req) (line : Nat), s.sl.calm = true ∧ v.admits s .vrd r ∧ line = r.pa.toNat % 2 ^ 24 / 128
        ∧ s.sl.vtAllowed
    r = true :=
  ⟨v0, (v0).slotFor .vrd (vq), vq, vline, by unfold State.admits; decide +kernel⟩

theorem test_VitrineReadReplies_2 :
    ∃ (v : State) (s : State) (r : Req) (line : Nat), s.sl.calm = true ∧ v.admits s .vrd r ∧ line = r.pa.toNat % 2 ^ 24 / 128
        ∧ s.sl.vtAllowed
    r = false :=
  ⟨setF v1 (NS_VT_REGION.EN 3) 0, ((setF v1 (NS_VT_REGION.EN 3) 0)).slotFor .vrd (vq), vq, vline, by unfold State.admits; decide +kernel⟩

theorem test_VitrineWriteStores_1 :
    ∃ (v : State) (s : State) (r : Req) (line : Nat), s.sl.calm = true ∧ v.admits s .vwr r ∧ line = r.pa.toNat % 2 ^ 24 / 128
        ∧ s.sl.vtAllowed
    r = true ∧ s.sl.vtQuar line = false ∧ reqCauses r.pois r.pcause = 0 :=
  ⟨v0, (v0).slotFor .vwr (vq2), vq2, vline, by unfold State.admits; decide +kernel⟩

theorem test_VitrineWriteStores_2 :
    ∃ (v : State) (s : State) (r : Req) (line : Nat), s.sl.calm = true ∧ v.admits s .vwr r ∧ line = r.pa.toNat % 2 ^ 24 / 128
        ∧ s.sl.vtAllowed
    r = true ∧ s.sl.vtQuar line = true :=
  ⟨vtl v1 (setQUAR (setSV 0 5) true), ((vtl v1 (setQUAR (setSV 0 5) true))).slotFor .vwr (vq2), vq2, vline,
   by unfold State.admits; decide +kernel⟩

theorem test_VitrineWriteStores_3 :
    ∃ (v : State) (s : State) (r : Req) (line : Nat), s.sl.calm = true ∧ v.admits s .vwr r ∧ line = r.pa.toNat % 2 ^ 24 / 128
        ∧ s.sl.vtAllowed
    r = false :=
  ⟨setF v1 (NS_VT_REGION.EN 3) 0, ((setF v1 (NS_VT_REGION.EN 3) 0)).slotFor .vwr (vq2), vq2, vline,
   by unfold State.admits; decide +kernel⟩

theorem test_AtomicHitApplies :
    ∃ (v : State) (s : State) (a : AOp) (posted : Bool) (r : Req) (c : Instr) (w : Nat) (o : AtomRes),
        requestCmd (.atom a posted) r = some c
    ∧ s.sl.calm = true ∧ v.admits s (.atom a posted) r ∧ s.sl.isHost r.line = false ∧ r.vsp = false ∧ atomOk a r.off r.mask r.fmt.toNat =
    true ∧ s.sl.grpMarked r.line = false ∧ s.sl.lookup Use.L r.line = some w ∧ atomTouch a r.mask &&& (15 - tagSV (s.sl.tag w (setOf
    r.line))) = 0 ∧ reqCauses r.pois r.pcause = 0 ∧ s.sl.mem.loanAt w (setOf r.line) = 0 ∧ s.sl.draining w = false ∧ o = atomApply a r.off
    r.mask r.fmt.toNat r.data (s.sl.mem.readLine w (setOf r.line)) :=
  ⟨t1, (t1).slotFor (.atom (.add) (false)) (aq), .add, false, aq, .add aq, 0, oA .add aq, by unfold State.admits; decide +kernel⟩

theorem test_RequestsTurnedAway_3_group :
    ∃ (v : State) (s : State) (a : AOp) (posted : Bool) (r : Req) (c : Instr) (bad : Bool), requestCmd (.atom a posted) r = some c
        ∧ s.sl.calm
    = true ∧ v.admits s (.atom a posted) r ∧ r.vsp = false ∧ atomOk a r.off r.mask r.fmt.toNat = !bad ∧ (bad = false → s.sl.grpMarked
    r.line = true) :=
  ⟨otherTag t1 0 0 (setGRP (tagW 0 15 5) true), ((otherTag t1 0 0 (setGRP (tagW 0 15 5) true))).slotFor (.atom (.add) (true)) (aq), .add,
   true, aq, .addP aq, false, by unfold State.admits; decide +kernel⟩

theorem test_AtomicHitApplies_posted :
    ∃ (v : State) (s : State) (a : AOp) (posted : Bool) (r : Req) (c : Instr) (w : Nat) (o : AtomRes),
        requestCmd (.atom a posted) r = some c
    ∧ s.sl.calm = true ∧ v.admits s (.atom a posted) r ∧ s.sl.isHost r.line = false ∧ r.vsp = false ∧ atomOk a r.off r.mask r.fmt.toNat =
    true ∧ s.sl.grpMarked r.line = false ∧ s.sl.lookup Use.L r.line = some w ∧ atomTouch a r.mask &&& (15 - tagSV (s.sl.tag w (setOf
    r.line))) = 0 ∧ reqCauses r.pois r.pcause = 0 ∧ s.sl.mem.loanAt w (setOf r.line) = 0 ∧ s.sl.draining w = false ∧ o = atomApply a r.off
    r.mask r.fmt.toNat r.data (s.sl.mem.readLine w (setOf r.line)) :=
  ⟨t1, (t1).slotFor (.atom (.fadd) (true)) (aq), .fadd, true, aq, .faddP aq, 0, oA .fadd aq, by unfold State.admits; decide +kernel⟩

end Vitrines

namespace Arithmetic

def win (s : State) (n kind sf db dl sb : Nat) : State :=
  setF (setF (setF (setF (setF (setF s (NS_FP_WINA.EN n) 1) (NS_FP_WINA.KIND n) kind) (NS_FP_WINA.SFMT n) sf) (NS_FP_WINA.DBASE n) db) (NS_FP_WINB.DLIMIT n) dl) (NS_FP_WINA.SBASE n) sb
def c1 := win (vt t1) 2 1 2 0 0xF 0
def cr : Req := { q1 with pa := 0, fmt := 1 }
def cq := (c1.sl.deliverAll 2 1 0 (c1.sl.mem.readLine 0 0) 0)
def v2 := win v1 1 0 0x14 512 600 640
def vr : Req := { vq with fmt := 1 }
def cw : Req := { cr with pa := 1, mask := fullMask, data := 0x3f8000003f9000007f80000040000000 }
def p1 := storePart 2 1 1 cw.data 0
def vw : Req := { vr with pa := vr.pa + 1, mask := fullMask, data := 0x3f8000003f9000007f80000040000000 }
def desc (cmd op acc nelem expect tb te : Nat) : List Word :=
  [BitVec.ofNat 64 (cmd + op * 2^15 + acc * 2^19 + (1 : Nat) * 2^30), BitVec.ofNat 64 (nelem * 2^16 + expect), BitVec.ofNat 64 tb,
   BitVec.ofNat 64 te] ++ List.replicate 12 0
def lineD (d : List Word) : LineData := (d.zipIdx).foldl (fun a p => setBits a (64 * p.2) 64 p.1.toNat) 0
def gq (d : List Word) : Req := { q1 with pa := 0, mask := fullMask, data := lineD d, group := 5, cls := 2 }
def d1 := desc 1 0 0 64 3 (2*2^20 + 128*16) (2*2^20 + 128*32)
def G0 := vt t0
def d2 := desc 1 0 7 64 3 (2*2^20 + 128*16) (2*2^20 + 128*32)
def G1 := nextOf (exec (.groupInitDone 5) (nextOf (exec (.openGrp (.mesh (gq d1))) G0)))
def G2 := G1.cycle
def pp := (G2.sl.grps.headD { num := 0, desc := [], req := Req.zero, born := 0, opener := none, aborts := [], lines := [],
                              leftCount := 0, booked := 0, idx := [], arrivals := 0, rejects := 0, fwdRej := 0, shortU := 0,
                                  poisonLn := 0, fwdSent := 0, fwdDone := 0, byClose := false, epiDone := false })
def ar : Req := { gq (desc 0 0 0 0 0 0 0) with vsp := true, fmt := 1, aux := 1, pa := 128 }
def ar2 : Req := { ar with pa := 0 }
def G3 := nextOf (exec (.openGrp (.mesh (gq d1))) G0)

theorem test_ConvertingReadReplies_1 :
    ∃ (v : State) (s : State) (op : Op) (r : Req) (c : Instr) (sf : BitVec 5) (o : Nat) (w : Nat) (q : List (LineData × BitVec 12) × FpFlags),
    (op = .crd ∨ op = .vcrd) ∧ requestCmd op r = some c ∧ s.sl.calm = true ∧ v.admits s op r ∧ s.sl.cvtOf op r = some (sf, o) ∧
    s.sl.cvtCheck op r (some (sf, o)) = 0 ∧ op = .crd ∧ s.sl.lookup Use.L r.line = some w ∧ tagSV (s.sl.tag w (setOf r.line)) = 15 ∧ q =
    s.sl.deliverAll sf.toNat r.fmt.toNat o (s.sl.mem.readLine w (setOf r.line)) 0 :=
  ⟨c1, (c1).slotFor (.crd) (cr), .crd, cr, .crd cr, 2, 0, 0, cq, by unfold State.admits; decide +kernel⟩

theorem test_ConvertingReadReplies_2 :
    ∃ (v : State) (s : State) (op : Op) (r : Req) (c : Instr) (sf : BitVec 5) (o : Nat) (line : Nat) (q : List (LineData × BitVec 12) ×
    FpFlags), (op = .crd ∨ op = .vcrd) ∧ requestCmd op r = some c ∧ s.sl.calm = true ∧ v.admits s op r ∧ s.sl.cvtOf op r = some (sf, o) ∧
    s.sl.cvtCheck op r (some (sf, o)) = 0 ∧ op = .vcrd ∧ line = r.pa.toNat % 2 ^ 24 / 128 ∧ s.sl.vtQuar line = false ∧ q = s.sl.deliverAll
    sf.toNat r.fmt.toNat o (mergeLine 0 (s.sl.mem.readLine (line / 8192) (line % 8192)) (sectorsMask (s.sl.vtInit line))) (s.sl.vtCauses
    line) :=
  ⟨v2, (v2).slotFor (.vcrd) (vr), .vcrd, vr, .vcrd vr, 0x14, 640*4096+32, vline,
   v2.sl.deliverAll 0x14 1 (640*4096+32) (mergeLine 0 (v2.sl.mem.readLine (vline / 8192) (vline % 8192)) (sectorsMask (v2.sl.vtInit vline))) (v2.sl.vtCauses vline), by unfold State.admits; decide +kernel⟩

theorem test_ConvertingWriteStores_1 :
    ∃ (v : State) (s : State) (op : Op) (r : Req) (c : Instr) (sf : BitVec 5) (o : Nat) (w : Nat) (p : Stored), (op = .cwr ∨ op = .vcwr) ∧
    requestCmd op r = some c ∧ s.sl.calm = true ∧ v.admits s op r ∧ s.sl.cvtOf op r = some (sf, o) ∧ s.sl.cvtCheck op r (some (sf, o)) = 0
    ∧ p = storePart sf.toNat r.fmt.toNat (partOf r) r.data (reqCauses r.pois r.pcause) ∧ p.pz = 0 ∧ op = .cwr ∧ s.sl.lookup Use.L r.line =
    some w ∧ touched p.mask &&& (15 - covered p.mask) &&& (15 - tagSV (s.sl.tag w (setOf r.line))) = 0 ∧ s.sl.mem.loanAt w (setOf r.line)
    = 0 ∧ s.sl.draining w = false :=
  ⟨c1, (c1).slotFor (.cwr) (cw), .cwr, cw, .cwr cw, 2, 0, 0, p1, by unfold State.admits; decide +kernel⟩

theorem test_ConvertingWriteStores_2 :
    ∃ (v : State) (s : State) (op : Op) (r : Req) (c : Instr) (sf : BitVec 5) (o : Nat) (line : Nat) (p : Stored),
        (op = .cwr ∨ op = .vcwr) ∧
    requestCmd op r = some c ∧ s.sl.calm = true ∧ v.admits s op r ∧ s.sl.cvtOf op r = some (sf, o) ∧ s.sl.cvtCheck op r (some (sf, o)) = 0
    ∧ p = storePart sf.toNat r.fmt.toNat (partOf r) r.data (reqCauses r.pois r.pcause) ∧ p.pz = 0 ∧ op = .vcwr ∧ line = r.pa.toNat % 2 ^
    24 / 128 ∧ s.sl.vtQuar line = false ∧ (16 ≤ sf.toNat → s.sl.vtQuar (o / 128) = false) :=
  ⟨v2, (v2).slotFor (.vcwr) (vw), .vcwr, vw, .vcwr vw, 0x14, 640*4096+32, vline, storePart 0x14 1 1 vw.data 0,
   by unfold State.admits; decide +kernel⟩

theorem test_ArrivalJudged_1 :
    ∃ (v : State) (s : State) (op : Op) (r : Req) (c : Instr), (op = .redc ∨ op = .redn) ∧ requestCmd op r = some c ∧ s.sl.calm = true ∧
    v.slotFor op r = s ∧ s.sl.mqRdy = true ∧ r.via = .mq ∧ r.cred = false ∧ s.sl.verdict s.gentab op r = .pass ∧ s.sl.hostSound op r = true ∧ s.sl.place op r = .here ∧
    s.sl.busyRes op r false none = none ∧ s.sl.grpState r.group.toNat = GSt.OPENING :=
  ⟨G3, (G3).slotFor (.redc) (ar2), .redc, ar2, .redc ar2, by decide +kernel⟩

theorem test_ArrivalJudged_2_1 :
    ∃ (v : State) (s : State) (op : Op) (r : Req) (c : Instr) (st : Nat), (op = .redc ∨ op = .redn) ∧ requestCmd op r = some c
        ∧ s.sl.calm =
    true ∧ v.admits s op r ∧ st = (if (s.sl.grp? r.group.toNat).any (fun p => decide (s.sl.port.nextId < p.openedAt)) = true then
    Stat.REJ_CLOSED else s.sl.judgeArrival r (((s.sl.grp? r.group.toNat).bind (·.cutoff)).all fun k => decide (s.sl.port.nextId < k))) ∧
    st = Stat.ACK ∧ (r.vsp = true ∨ (∃ p, s.sl.grp? r.group.toNat = some p ∧ p.lines.contains r.line = true) ∧ s.sl.loansCalled r.line = true) :=
  ⟨G2, (G2).slotFor (.redc) (ar2), .redc, ar2, .redc ar2, Stat.ACK, by decide +kernel, by decide +kernel, by decide +kernel,
   by unfold State.admits; decide +kernel, by decide +kernel, by decide +kernel, .inl (by decide +kernel)⟩

theorem test_ArrivalJudged_2_2 :
    ∃ (v : State) (s : State) (op : Op) (r : Req) (c : Instr) (st : Nat), (op = .redc ∨ op = .redn) ∧ requestCmd op r = some c
        ∧ s.sl.calm =
    true ∧ v.admits s op r ∧ st = (if (s.sl.grp? r.group.toNat).any (fun p => decide (s.sl.port.nextId < p.openedAt)) = true then
    Stat.REJ_CLOSED else s.sl.judgeArrival r (((s.sl.grp? r.group.toNat).bind (·.cutoff)).all fun k => decide (s.sl.port.nextId < k))) ∧
    st ≠ Stat.ACK :=
  ⟨G2, (G2).slotFor (.redn) ({ ar2 with ctx := 0, group := 7 }), .redn, { ar2 with ctx := 0, group := 7 }, .redn { ar2 with ctx := 0,
                                                                                                                            group := 7 }, G2.sl.judgeArrival { ar2 with ctx := 0, group := 7 } true, by unfold State.admits; decide +kernel⟩

theorem test_GroupOpens_1 :
    ∃ (v : State) (s : State) (r : Req) (n : Nat) (d : List Word), s.sl.calm = true ∧ v.admits s .grpctl r ∧ n = r.group.toNat
        ∧ d = descOf
    r.data ∧ gCMD d = 1 ∧ s.sl.openCheck n d r = GS.OK :=
  ⟨G0, (G0).slotFor .grpctl ((gq d1)), gq d1, 5, d1, by unfold State.admits; decide +kernel⟩

theorem test_GroupOpens_2 :
    ∃ (v : State) (s : State) (r : Req) (n : Nat) (d : List Word), s.sl.calm = true ∧ v.admits s .grpctl r ∧ n = r.group.toNat
        ∧ d = descOf
    r.data ∧ gCMD d = 1 ∧ s.sl.openCheck n d r ≠ GS.OK :=
  ⟨G0, (G0).slotFor .grpctl ((gq d2)), gq d2, 5, d2, by unfold State.admits; decide +kernel⟩

theorem test_GroupClosesAndAborts_1 :
    ∃ (v : State) (s : State) (r : Req) (n : Nat) (p : Grp), s.sl.calm = true ∧ v.admits s .grpctl r ∧ n = r.group.toNat
        ∧ gBadForm r = false
    ∧ s.sl.grp? n = some p ∧ r.ctx = p.req.ctx ∧ s.sl.grpState n = GSt.OPEN ∧ gCMD (descOf r.data) = 2 ∧ s.sl.loanFree p = true ∧ (∀ q ∈ s.sl.grps, q.num = n → q = p) :=
  ⟨G2, (G2).slotFor .grpctl ((gq (desc 2 0 0 0 0 0 0))), gq (desc 2 0 0 0 0 0 0), 5, pp, by unfold State.admits; decide +kernel⟩

theorem test_GroupClosesAndAborts_2 :
    ∃ (v : State) (s : State) (r : Req) (n : Nat) (p : Grp), s.sl.calm = true ∧ v.admits s .grpctl r ∧ n = r.group.toNat
        ∧ gBadForm r = false
    ∧ s.sl.grp? n = some p ∧ r.ctx = p.req.ctx ∧ s.sl.grpState n = GSt.OPEN ∧ gCMD (descOf r.data) = 3 ∧ p.lines = [] ∧ p.opener = none :=
  ⟨G2, (G2).slotFor .grpctl ((gq (desc 3 0 0 0 0 0 0))), gq (desc 3 0 0 0 0 0 0), 5, pp, by unfold State.admits; decide +kernel⟩

end Arithmetic

namespace Coherent

def hl : LineAddr := BitVec.ofNat 45 (2^33 + 2^6)
def h0 := (fun s : State => { s with sl := { (s.sl.wr Reg.NS_WAYMAP 0x0000000000040302) with mem := ((s.sl.setTag 0 (setOf hl) (tagW hl.toNat 15 5)).mem.writeLine 0 (setOf hl) (lineOf (fun b => BitVec.ofNat 8 (0x40 + b)) 128) fullMask) } }) t0
def cm : ClMsg := { cluster := 9, line := hl, cred := false }
def hf := setF h0 NS_UU_CTL.HMODE 2
def ca : ClAtom := { op := .add, posted := false, fmt := 0, offset := 4, mask := 0xF0, data := 5 }
def h1 := nextOf (exec (.rdS cm) h0)
def hd (l : List Txn) : Txn := l.headD { line := 0, who := .victim, kind := .victim, snoops := [], snooped := 0, dataDue := 0,
                                         memDue := false, fromOwner := false, granted := false, compDue := false, hadX := false,
                                             timedOut := 0, wbp := 0, waitVictim := none, born := 0 }
def de (s : State) : DirEnt := (s.sl.findEnt hl).map (·.2) |>.getD (DirEnt.fresh hl)
def dS (s : State) (k : TxnKind) : DirEnt := let d := de s
  (if k = .rdS then
        (if d.state = Dir.X ∧ d.owner = 9 then { d with busy := false }
         else { d with state := Dir.S, owner := 0, busy := false, sharers := d.sharers ||| oneCluster 9 })
      else { d with state := Dir.X, owner := 9, busy := false, sharers := oneCluster 9,
                    lastupd := if k = .far then 9 else d.lastupd })
def h2 := nextOf (exec (.rdX cm) h0)
def h3 := nextOf (exec (.compAck cm) h2)
def h4 := nextOf (exec (.wb cm) h3)
def cm2 : ClMsg := { cm with cluster := 3 }
def cm3 : ClMsg := { cm with cluster := 4 }
def g1 := nextOf (exec (.compAck cm) (nextOf (exec (.rdS cm) h0)))
def g2 := nextOf (exec (.compAck cm2) (nextOf (exec (.rdS cm2) g1)))
def g3 := nextOf (exec (.compAck cm3) (nextOf (exec (.rdS cm3) g2)))
def g4 := nextOf (exec (.upg cm) g3)
def g6 := nextOf (exec (.snpAck cm2 .s true false) g4)
def g5 := { g4 with sl := { g4.sl with regs := Sparse.set resetWord g4.sl.regs Reg.NS_CNT_CYCLE 0x12345000000 } }

theorem test_ClusterReadSupplied :
    ∃ (v : State) (s : State) (m : ClMsg) (kind : TxnKind) (c : Instr) (w : Nat) (e : Nat), ((kind = .rdS ∧ c = .rdS m) ∨ (kind = .rdX ∧ c = .rdX m) ∨
    (kind = .upg ∧ c = .upg m)) ∧ v.clFor (.req m kind) = s ∧ s.sl.calm = true ∧ s.sl.clAdmits m = true ∧ s.sl.findEnt m.line = none ∧ s.sl.freeEnt (setOf m.line) =
    some e ∧ s.sl.clBusy (.req m kind) false = none ∧ s.sl.trkFree .read = true ∧ s.sl.lookup Use.H m.line = some w ∧ tagSV (s.sl.tag w
    (setOf m.line)) = 15 ∧ s.sl.canSendLW 3 = true :=
  ⟨h0, h0.clFor (.req cm .rdS), cm, .rdS, .rdS cm, 0, 0, by decide +kernel⟩

theorem test_FarAtomGranted :
    ∃ (v : State) (s : State) (m : ClMsg) (a : ClAtom) (w : Nat) (e : Nat), v.clFor (.atom m a) = s ∧ s.sl.calm = true ∧ s.sl.clAdmits m = true
        ∧ atomOk a.op a.offset.toNat a.mask
    a.fmt.toNat = true ∧ s.sl.fld NS_UU_CTL.HMODE = 2 ∧ s.sl.findEnt m.line = none ∧ s.sl.freeEnt (setOf m.line) = some e ∧ s.sl.clBusy
    (.atom m a) false = none ∧ s.sl.trkFree .read = true ∧ s.sl.lookup Use.H m.line = some w ∧ tagSV (s.sl.tag w (setOf m.line)) = 15 ∧
    s.sl.canSendLW 3 = true :=
  ⟨hf, hf.clFor (.atom cm ca), cm, ca, 0, 0, by decide +kernel⟩

theorem test_CompAckEndsGrant :
    ∃ (s : State) (m : ClMsg) (x : Txn) (c : Nat) (e : Nat) (d : DirEnt) (d' : DirEnt), s.sl.calmBut x ∧ s.sl.lwReady = true ∧ c =
    m.cluster.toNat ∧ x.line = m.line ∧ x.who = .cluster c ∧ (x.kind = .rdS ∨ x.kind = .rdX ∨ x.kind = .upg ∨ x.kind = .far) ∧ x.granted =
    true ∧ x.compDue = true ∧ x.snoops = [] ∧ x.dataDue = 0 ∧ x.memDue = false ∧ x.waitVictim = none ∧ s.sl.findEnt m.line = some (e, d) ∧
    s.sl.deadMask = 0 ∧ (d' = (if x.kind = .rdS then (if d.state = Dir.X ∧ d.owner = c then { d with busy := false } else
    { d with state := Dir.S, owner := 0, busy := false, sharers := d.sharers ||| oneCluster c }) else
    { d with state := Dir.X, owner := c, busy := false, sharers := oneCluster c, lastupd := if x.kind = .far then c else d.lastupd })) :=
  ⟨h1, cm, hd h1.sl.coh.txns, 9, 0, de h1, dS h1 .rdS, by unfold Slice.calmBut; decide +kernel⟩

theorem test_WritebackAndEvictionHandled_1_1 :
    ∃ (v : State) (s : State) (m : ClMsg), ∃ e d, v.clFor (.req m .wb) = s ∧ s.sl.calm = true ∧ s.sl.clAdmits m = true ∧ s.sl.canSendLW 2 = true
        ∧ s.sl.findEnt m.line = some (e, d)
    ∧ d.state = Dir.X ∧ d.owner = m.cluster.toNat ∧ s.sl.clBusy (.req m .wb) false = none ∧ s.sl.trkFree .write = true :=
  ⟨h3, h3.clFor (.req cm .wb), cm, 0, de h3, by decide +kernel⟩

theorem notOwner_of {s : Slice} {m : ClMsg} {d : DirEnt} (k : s.findEnt m.line = some (0, d))
    (n : ¬(d.state = Dir.X ∧ d.owner = m.cluster.toNat)) : s.notOwner m := by
  intro e d' h x o
  cases k.symm.trans h
  exact absurd ⟨x, o⟩ n

theorem notOwner_none {s : Slice} {m : ClMsg} (k : s.findEnt m.line = none) : s.notOwner m := by
  intro e d h _ _
  cases k.symm.trans h

theorem test_WritebackAndEvictionHandled_1_2 :
    ∃ (v : State) (s : State) (m : ClMsg), v.clFor (.req m .wb) = s ∧ s.sl.clAdmits m = true ∧ s.sl.canSendLW 2 = true ∧ (s.sl.calm = true ∨
    (∃ x, s.sl.calmBut x ∧ x.waits = true)) ∧ s.sl.notOwner m :=
  ⟨h3, h3.clFor (.req cm2 .wb), cm2, rfl, by decide +kernel, by decide +kernel, .inl (by decide +kernel), 
   notOwner_of (d := de h3) (by decide +kernel) (by decide +kernel)⟩

theorem test_WritebackAndEvictionHandled_1_2_none :
    ∃ (v : State) (s : State) (m : ClMsg), v.clFor (.req m .wb) = s ∧ s.sl.clAdmits m = true ∧ s.sl.canSendLW 2 = true ∧ (s.sl.calm = true ∨
    (∃ x, s.sl.calmBut x ∧ x.waits = true)) ∧ s.sl.notOwner m :=
  ⟨h0, h0.clFor (.req cm .wb), cm, rfl, by decide +kernel, by decide +kernel, .inl (by decide +kernel), 
   notOwner_none (by decide +kernel)⟩

theorem test_WritebackAndEvictionHandled_1_2_busy :
    ∃ (v : State) (s : State) (m : ClMsg), v.clFor (.req m .wb) = s ∧ s.sl.clAdmits m = true ∧ s.sl.canSendLW 2 = true ∧ (s.sl.calm = true ∨
    (∃ x, s.sl.calmBut x ∧ x.waits = true)) ∧ s.sl.notOwner m :=
  ⟨g4, g4.clFor (.req cm2 .wb), cm2, rfl, by decide +kernel, by decide +kernel, .inr ⟨hd g4.sl.coh.txns, by unfold Slice.calmBut; decide +kernel, by decide +kernel⟩, 
   notOwner_of (d := de g4) (by decide +kernel) (by decide +kernel)⟩

theorem test_WritebackAndEvictionHandled_2_1 :
    ∃ (v : State) (s : State) (m : ClMsg), ∃ e d, v.clFor (.evc m) = s ∧ s.sl.calm = true ∧ s.sl.clAdmits m = true ∧ s.sl.canSendLW 2 = true
        ∧ s.sl.findEnt m.line = some (e, d)
    ∧ d.state = Dir.X ∧ d.owner = m.cluster.toNat ∧ s.sl.clBusy (.evc m) false = none :=
  ⟨h3, h3.clFor (.evc cm), cm, 0, de h3, by decide +kernel⟩

theorem test_WritebackAndEvictionHandled_2_2 :
    ∃ (v : State) (s : State) (m : ClMsg), v.clFor (.evc m) = s ∧ s.sl.clAdmits m = true ∧ s.sl.canSendLW 2 = true ∧ (s.sl.calm = true ∨
    (∃ x, s.sl.calmBut x ∧ x.waits = true)) ∧ s.sl.notOwner m :=
  ⟨h3, h3.clFor (.evc cm2), cm2, rfl, by decide +kernel, by decide +kernel, .inl (by decide +kernel), 
   notOwner_of (d := de h3) (by decide +kernel) (by decide +kernel)⟩

theorem test_WritebackAndEvictionHandled_2_2_none :
    ∃ (v : State) (s : State) (m : ClMsg), v.clFor (.evc m) = s ∧ s.sl.clAdmits m = true ∧ s.sl.canSendLW 2 = true ∧ (s.sl.calm = true ∨
    (∃ x, s.sl.calmBut x ∧ x.waits = true)) ∧ s.sl.notOwner m :=
  ⟨h0, h0.clFor (.evc cm), cm, rfl, by decide +kernel, by decide +kernel, .inl (by decide +kernel), 
   notOwner_none (by decide +kernel)⟩

theorem test_WritebackAndEvictionHandled_2_2_busy :
    ∃ (v : State) (s : State) (m : ClMsg), v.clFor (.evc m) = s ∧ s.sl.clAdmits m = true ∧ s.sl.canSendLW 2 = true ∧ (s.sl.calm = true ∨
    (∃ x, s.sl.calmBut x ∧ x.waits = true)) ∧ s.sl.notOwner m :=
  ⟨g4, g4.clFor (.evc cm2), cm2, rfl, by decide +kernel, by decide +kernel, .inr ⟨hd g4.sl.coh.txns, by unfold Slice.calmBut; decide +kernel, by decide +kernel⟩, 
   notOwner_of (d := de g4) (by decide +kernel) (by decide +kernel)⟩

theorem test_ClusterDataStored_1 :
    ∃ (s : State) (m : ClMsg) (x : Txn) (w : Nat), ∃ e d, s.sl.calmBut x ∧ s.sl.lwReady = true ∧ x.line = m.line ∧ x.waitVictim = none ∧
    s.sl.lookup Use.H m.line = some w ∧ s.sl.draining w = false ∧ x.who = .cluster m.cluster.toNat ∧ x.kind = .wb ∧ x.compDue = true ∧
    x.snoops = [] ∧ x.dataDue = 0 ∧ x.memDue = false ∧ s.sl.findEnt m.line = some (e, d) :=
  ⟨h4, cm, hd h4.sl.coh.txns, 0, 0, de h4, by unfold Slice.calmBut; decide +kernel⟩

theorem test_ClusterDataStored_2 :
    ∃ (s : State) (m : ClMsg) (x : Txn) (w : Nat), s.sl.calmBut x ∧ s.sl.lwReady = true ∧ x.line = m.line ∧ x.waitVictim = none
        ∧ s.sl.lookup
    Use.H m.line = some w ∧ s.sl.draining w = false ∧ bitAt x.snooped m.cluster.toNat = true ∧ s.sl.dataToHome x = true ∧ (x.kind =
    .victim → s.sl.withdrawn m.line = false) ∧ (x.snoops.any (fun p => p.1 == m.cluster.toNat) = true ∨ 0 < x.dataDue) ∧ ({ x with dataDue := x.dataDue - 1 } : Txn).waits = true :=
  ⟨g4, cm2, hd g4.sl.coh.txns, 0, by unfold Slice.calmBut; decide +kernel⟩

theorem test_ClusterDataStored_2_late :
    ∃ (s : State) (m : ClMsg) (x : Txn) (w : Nat), s.sl.calmBut x ∧ s.sl.lwReady = true ∧ x.line = m.line ∧ x.waitVictim = none
        ∧ s.sl.lookup
    Use.H m.line = some w ∧ s.sl.draining w = false ∧ bitAt x.snooped m.cluster.toNat = true ∧ s.sl.dataToHome x = true ∧ (x.kind =
    .victim → s.sl.withdrawn m.line = false) ∧ (x.snoops.any (fun p => p.1 == m.cluster.toNat) = true ∨ 0 < x.dataDue) ∧ ({ x with dataDue := x.dataDue - 1 } : Txn).waits = true :=
  ⟨g6, cm2, hd g6.sl.coh.txns, 0, by unfold Slice.calmBut; decide +kernel⟩

theorem test_SnoopAnsweredOrTimedOut_1 :
    ∃ (s : State) (m : ClMsg) (x : Txn) (c : Nat), s.sl.calmBut x ∧ c = m.cluster.toNat ∧ x.line = m.line ∧ x.waitVictim = none
        ∧ x.snoops.any
    (fun p => p.1 == c) = true ∧ s.sl.lwReady = true ∧ x.snoops.any (fun p => p.1 != c) = true :=
  ⟨g4, cm2, hd g4.sl.coh.txns, 3, by unfold Slice.calmBut; decide +kernel⟩

theorem test_SnoopAnsweredOrTimedOut_2 :
    ∃ (s : State) (m : ClMsg) (x : Txn) (c : Nat), s.sl.calmBut x ∧ c = m.cluster.toNat ∧ x.line = m.line ∧ x.waitVictim = none
        ∧ x.snoops.any
    (fun p => p.1 == c) = true ∧ bitAt x.timedOut c = false
        ∧ x.snoops.any (fun p => p.1 == c && s.sl.snpTimeout ≤ s.sl.now - p.2) = true :=
  ⟨g5, cm2, hd g5.sl.coh.txns, 3, by unfold Slice.calmBut; decide +kernel⟩

theorem test_ClusterReadSupplied_upg :
    ∃ (v : State) (s : State) (m : ClMsg) (kind : TxnKind) (c : Instr) (w : Nat) (e : Nat), ((kind = .rdS ∧ c = .rdS m) ∨ (kind = .rdX ∧ c = .rdX m) ∨
    (kind = .upg ∧ c = .upg m)) ∧ v.clFor (.req m kind) = s ∧ s.sl.calm = true ∧ s.sl.clAdmits m = true ∧ s.sl.findEnt m.line = none ∧ s.sl.freeEnt (setOf m.line) =
    some e ∧ s.sl.clBusy (.req m kind) false = none ∧ s.sl.trkFree .read = true ∧ s.sl.lookup Use.H m.line = some w ∧ tagSV (s.sl.tag w
    (setOf m.line)) = 15 ∧ s.sl.canSendLW 3 = true :=
  ⟨h0, h0.clFor (.req cm .upg), cm, .upg, .upg cm, 0, 0, by decide +kernel⟩

theorem test_CompAckEndsGrant_x :
    ∃ (s : State) (m : ClMsg) (x : Txn) (c : Nat) (e : Nat) (d : DirEnt) (d' : DirEnt), s.sl.calmBut x ∧ s.sl.lwReady = true ∧ c =
    m.cluster.toNat ∧ x.line = m.line ∧ x.who = .cluster c ∧ (x.kind = .rdS ∨ x.kind = .rdX ∨ x.kind = .upg ∨ x.kind = .far) ∧ x.granted =
    true ∧ x.compDue = true ∧ x.snoops = [] ∧ x.dataDue = 0 ∧ x.memDue = false ∧ x.waitVictim = none ∧ s.sl.findEnt m.line = some (e, d) ∧
    s.sl.deadMask = 0 ∧ (d' = (if x.kind = .rdS then (if d.state = Dir.X ∧ d.owner = c then { d with busy := false } else
    { d with state := Dir.S, owner := 0, busy := false, sharers := d.sharers ||| oneCluster c }) else
    { d with state := Dir.X, owner := c, busy := false, sharers := oneCluster c, lastupd := if x.kind = .far then c else d.lastupd })) :=
  ⟨h2, cm, hd h2.sl.coh.txns, 9, 0, de h2, dS h2 .rdX, by unfold Slice.calmBut; decide +kernel⟩

end Coherent

namespace Memory

def rep0 : RepMsg := { tag := 0, status := 0, acklvl := 3, detail := 0, auxr := 0, part := 0, npart := 1, pois := 0, pcause := 0,
                       data := 0x777 }
def iss (w : Why) : Issue := { entry := 0, epoch := 0, op := .pxrd, ctx := 0, gen := 0, die := 0, line := 0, why := w, orphan := false,
                               since := 0 }
def m1 := t0
def rq2 : Req := { q1 with pa := 0 }
def m2 := nextOf (exec (.rd rq2) m1)
def lo (s : State) : MemOp := s.sl.chan.ops.headD (readOp 0 .none (s.sl.bgJob .none) false 0 0)
def lt (s : State) : Trk := s.sl.port.trks.headD { id := 0, kind := .none, op := .rd, req := Req.zero, key := .none, stage := .done,
                                                   born := 0, joined := [], way := none, loss := 0, miss := false, urgent := false,
                                                       uninit := false, noAlloc := false, closed := false, cl := none, cvt := none }
def pq : Req := { q1 with pa := 0 }
def m3 := nextOf (exec (.pxrd pq) m1)
def m4 := nextOf (exec (.rd rq2) (otherTag t1 0 0 (tagW 0 5 5)))
def withI (s : State) (w : Why) : State := { s with sl := { s.sl with out := { s.sl.out with issue := [iss w, { iss w with entry := 1,
                                                                                                                           epoch := 1 }] } } }
def m5 := withI m4 (.proxy (lo m4).id)
def m6 := withI m3 (.proxy (lo m3).id)
def hl : LineAddr := BitVec.ofNat 45 (2^33 + 2^6)
def cm : ClMsg := { cluster := 9, line := hl, cred := false }
def k0 := setF (nextOf (exec (.rdX cm) t0)) NS_DIR_EVT.CREDLOST 3
def ltx (s : State) : Txn := s.sl.coh.txns.headD { line := 0, who := .victim, kind := .victim, snoops := [], snooped := 0, dataDue := 0,
                                                   memDue := false, fromOwner := false, granted := false, compDue := false,
                                                       hadX := false, timedOut := 0, wbp := 0, waitVictim := none, born := 0 }
def oi := { t1 with sl := (t1.sl.modMem fun m => m.setLoan 0 0 0x24).modPort fun p => { p with invs := [(0, 0x24)] } }
def oj := { oi with sl := oi.sl.modPort fun p => { p with again := [(0, 4)] } }
def fx (op : Op) : Trk := { lt m4 with op := op, stage := .fwd, way := none, key := .pa 0x4000, id := 3, kind := .write }
def fs (op : Op) : State := { withI t0 (.fwd 3) with sl := (withI t0 (.fwd 3)).sl.modPort fun p => { p with trks := [fx op],
                                                                                                            fwdWr := if op == .rd then [] else [(3, 0x4000)] } }
def hh : Hold := { k := 7, req := q1, born := 3, n := 0, issued := true, disable := true }
def ss := let s := setF (setF (withI t0 (.seal 7 0)) (NS_ACCN_TARGET.EN 7) 1) (NS_ACCN_TARGET.STATE 7) 2
  { s with sl := { s.sl with holds := [hh] } }
def bdesc (opc dir len src dst : Nat) : List Word := [BitVec.ofNat 64 (opc + dir * 128 + 3 * 2^32 + 16), BitVec.ofNat 64 len,
                                                      BitVec.ofNat 64 src, BitVec.ofNat 64 dst] ++ List.replicate 12 0
def bc : Cmd := { id := 5, born := 1, desc := bdesc 2 0 1024 0x100000 (2*2^20+128*8), ctx := 0, gen := 0, priv := 0, reqid := 7,
                  srcdie := 0, progress := 256, checked := true, status := none, faultVa := 0, poisonLn := 0, rejLn := 0, lines := [0,
                                                                                                                                    128], stopAt := none, xlate := [], tiles := [] }
def withC (s : State) (c : Cmd) : State := { s with sl := s.sl.modBulk fun b => { b with cmds := [c], active := some c.id,
                                                                                         nextCmd := 6 } }
def b1 := withC (withI (vt t0) (.bulkWr 5 0)) bc
def b2 := withC (withI (vt t0) (.bulkRd 5 128)) bc
def cc : Cpl := { id := 4, cmd := some 5, group := none, waits := [], sent := true, tag := 3, status := 0, irq := true,
                  cpladdr := 0x1000, words := [1,2,3,4], ctx := 0, gen := 0, cls := 2, reqid := 7, srcdie := 0, priv := 0 }
def b3 := { withC (withI (vt t0) (.record 4)) { bc with lines := [],
                                                        status := some 0 } with sl := (withC (withI (vt t0) (.record 4)) { bc with lines := [], status := some 0 }).sl.modBulk fun b => { b with cpls := [cc] } }
def tc : Cmd := { bc with desc := bdesc 5 0 8192 0x100000 0, lines := [], tiles := [(0x100, 0x6), (0x101, 0x3)] }
def b4 := withC (withI t0 (.tinv 5 0x100)) tc
def ck : Credit := { reqid := 153, res := .chan, op := .rd, vsp := false, pa := 0, ctx := 0, gen := 0, tag := 0, srcdie := 0,
                     msg := some 1, granted := true, since := 0, lost := none }
def k1 := { t0 with sl := (t0.sl.wr Reg.NS_CNT_CYCLE 0x12345000).modPort fun p => { p with credits := [ck] } }
def rep1 : RepMsg := { rep0 with part := 1, npart := 2 }
def fp (op : Op) : Trk := { fx op with req := { (fx op).req with reqid := 150 } }
def fps (op : Op) : State := { withI t0 (.fwd 3) with sl := (withI t0 (.fwd 3)).sl.modPort fun p => { p with trks := [fp op] } }
def bf : State := { t0 with sl := t0.sl.modCoh fun q => { q with bridge := List.replicate 8 { msg := .req cm .rdS, slot := .own }
                                                                 ++ List.replicate 32 { msg := .req cm .rdS, slot := .shared } } }
def cx : ClMsg := { cluster := 20, line := hl, cred := false }
def b6 := { b2 with sl := b2.sl.setTag 2 9 (setQUAR 0 true) }

theorem test_ReadMissFetches :
    ∃ (v : State) (s : State) (op : Op) (r : Req) (c : Instr) (w : Nat) (bay : Nat), (op = .rd ∨ op = .rdc ∨ op = .rdacq)
        ∧ requestCmd op r =
    some c ∧ s.sl.calm = true ∧ v.admits s op r ∧ s.sl.isHost r.line = false ∧ s.sl.lookup Use.L r.line = none ∧ s.sl.hasUse Use.L = true
    ∧ r.hint ≠ 3 ∧ s.sl.victimWay Use.L (setOf r.line) = some w ∧ tagSV (s.sl.tag w (setOf r.line)) = 0 ∧ s.sl.mem.deacf.contains r.line =
    false ∧ s.sl.chanReady = true ∧ s.sl.memTgt r.line = .chan bay :=
  ⟨m1, (m1).slotFor (.rd) (rq2), .rd, rq2, .rd rq2, 0, 0, by unfold State.admits; decide +kernel⟩

theorem test_MemoryLineServes_1 :
    ∃ (s : State) (x : Trk) (o : MemOp) (c : Instr) (data : LineData) (out' : Outs) (otag : BitVec 7) (m : RepMsg) (i : Issue), ∃ w,
    s.sl.calmHolding [x] [o] ∧ x.stage = .fill ∧ x.plain ∧ o.why = .trk x.id ∧ o.write = false ∧ ((c = .hcReadBeat
    otag data 0 ∧ o.otag = some otag.toNat ∧ s.sl.flag NS_PORTSTAT.MEMRDY = true ∧ s.sl.sys.sclkRuns = true ∧ out' = s.sl.out) ∨ (c =
    .proxyReply m ∧ out' = s.sl.out.without i.entry ∧ m.data = data ∧ repPlain m ∧ s.sl.awaits m i ∧ i.why = .proxy o.id ∧ s.sl.miTakes =
    true)) ∧ (x.op = .rd ∨ x.op = .rdc ∨ x.op = .rdacq) ∧ x.key = .pa x.req.line ∧ x.way = some w ∧ x.miss = true ∧ s.sl.isHost x.req.line
    = false ∧ s.sl.place x.op x.req = .here ∧ (w ∈ s.sl.waysOf Use.L) ∧ (s.sl.lookup Use.L x.req.line = none ∨ s.sl.lookup Use.L
    x.req.line = some w) ∧ tagTAG (s.sl.tag w (setOf x.req.line)) = x.req.line ∧ s.sl.flag NS_ECC_STAT.BKLOSS = false :=
  ⟨m5, lt m5, lo m5, .proxyReply rep0, 0x777, m5.sl.out.without 0, 0, rep0, iss (.proxy (lo m5).id), 0,
   by unfold Trk.plain Slice.calmHolding Slice.awaits repPlain; decide +kernel⟩

theorem test_MemoryLineServes_2 :
    ∃ (s : State) (x : Trk) (o : MemOp) (c : Instr) (data : LineData) (out' : Outs) (otag : BitVec 7) (m : RepMsg) (i : Issue),
    s.sl.calmHolding [x] [o] ∧ x.stage = .fill ∧ x.plain ∧ o.why = .trk x.id ∧ o.write = false ∧ ((c = .hcReadBeat
    otag data 0 ∧ o.otag = some otag.toNat ∧ s.sl.flag NS_PORTSTAT.MEMRDY = true ∧ s.sl.sys.sclkRuns = true ∧ out' = s.sl.out) ∨ (c =
    .proxyReply m ∧ out' = s.sl.out.without i.entry ∧ m.data = data ∧ repPlain m ∧ s.sl.awaits m i ∧ i.why = .proxy o.id ∧ s.sl.miTakes =
    true)) ∧ x.op = .pxrd ∧ x.way = none :=
  ⟨m3, lt m3, lo m3, .hcReadBeat 0 0x12345678 0, 0x12345678, m3.sl.out, 0, rep0, iss (.proxy (lo m6).id),
   by unfold Trk.plain Slice.calmHolding Slice.awaits repPlain; decide +kernel⟩

theorem test_HostDataGranted :
    ∃ (s : State) (x : Txn) (o : MemOp) (c : Nat), s.sl.coh.txns = [x] ∧ s.sl.chan.ops = [o] ∧ ((s.sl.modCoh fun q =>
    { q with txns := [] }).modChan fun q => { q with ops := [] }).calm = true ∧ x.who = .cluster c ∧ (x.kind = .rdS ∨ x.kind = .rdX ∨
    x.kind = .upg ∨ x.kind = .far) ∧ x.snoops = [] ∧ x.dataDue = 0 ∧ x.waitVictim = none ∧ x.granted = false ∧ o.why = .txn x.line ∧
    o.write = false ∧ o.sent = some (.host o.line) ∧ s.sl.dead c = false ∧ s.sl.hasUse Use.H = false ∧ s.sl.flag NS_ECC_STAT.BKLOSS =
    false ∧ s.sl.flag NS_PORTSTAT.LWRDY = true ∧ s.sl.canSendLW 3 = true :=
  ⟨k0, ltx k0, lo k0, 9, by decide +kernel⟩

theorem test_LoanInvalidated_2 :
    ∃ (s : State) (die : BitVec 3) (l : LineAddr), s.sl.ddTakes = true ∧ s.sl.calm = true ∧ s.sl.canSendDD (die.toNat * 3 + 2) = true
        ∧ (s.sl.lookup Use.O l = none ∨ s.sl.safe = true) :=
  ⟨t0, 2, 0, by decide +kernel⟩

theorem test_LoanInvalidated_3_1 :
    ∃ (s : State) (die : BitVec 3) (l : LineAddr) (v left : BitVec 8), ∃ w, s.sl.ddTakes = true ∧ s.sl.port.invs = [(l, v)] ∧ (s.sl.modPort
    fun p => { p with invs := [] }).calm = true ∧ bitAt v die.toNat = true ∧ left = v &&& ~~~((1 : BitVec 8) <<< die.toNat) ∧
    (s.sl.port.again.any fun q => q.1 == l && bitAt q.2 die.toNat) = false ∧ s.sl.lookup Use.L l = some w ∧ (∀ u ∈ s.sl.waysOf Use.L, u ≠ w
    → ¬(tagSV (s.sl.tag u (setOf l)) ≠ 0 ∧ tagTAG (s.sl.tag u (setOf l)) = l)) :=
  ⟨oi, 2, 0, 0x24, 0x20, 0, by decide +kernel⟩

theorem test_LoanInvalidated_3_2 :
    ∃ (s : State) (die : BitVec 3) (l : LineAddr) (v w left : BitVec 8), s.sl.ddTakes = true ∧ s.sl.port.invs = [(l, v)] ∧ (s.sl.modPort
    fun p => { p with invs := [] }).calm = true ∧ bitAt v die.toNat = true ∧ left = v &&& ~~~((1 : BitVec 8) <<< die.toNat) ∧
    s.sl.port.again = [(l, w)] ∧ bitAt w die.toNat = true ∧ s.sl.canSendDD (die.toNat * 3 + 1) = true :=
  ⟨oj, 2, 0, 0x24, 4, 0x20, by decide +kernel⟩

theorem test_ForwardAnswered_1 :
    ∃ (s : State) (m : RepMsg) (x : Trk) (i : Issue), s.sl.calmHolding [x] [] ∧ s.sl.ddTakes = true ∧ s.sl.awaits m i ∧ repPlain m
        ∧ i.why =
    .fwd x.id ∧ x.stage = .fwd ∧ x.plain ∧ (x.op = .wr ∨ x.op = .wrrel ∨ x.op = .cntwr) ∧ passThrough x.op x.req =
    false :=
  ⟨fs .wr, rep0, fx .wr, iss (.fwd 3), by unfold Trk.plain Slice.calmHolding Slice.awaits repPlain; decide +kernel⟩

theorem test_ForwardAnswered_2 :
    ∃ (s : State) (m : RepMsg) (x : Trk) (i : Issue), s.sl.calmHolding [x] [] ∧ s.sl.ddTakes = true ∧ s.sl.awaits m i ∧ repPlain m
        ∧ i.why =
    .fwd x.id ∧ x.stage = .fwd ∧ x.plain ∧ (x.op = .rd ∨ x.op = .rdc ∨ x.op = .rdacq) ∧ passThrough x.op x.req =
    false ∧ s.sl.hasUse Use.O = false ∧ s.sl.port.fwdWr = [] :=
  ⟨fs .rd, rep0, fx .rd, iss (.fwd 3), by unfold Trk.plain Slice.calmHolding Slice.awaits repPlain; decide +kernel⟩

theorem test_ForwardAnswered_3 :
    ∃ (s : State) (m : RepMsg) (x : Trk) (i : Issue), s.sl.calmHolding [x] [] ∧ s.sl.ddTakes = true ∧ s.sl.awaits m i ∧ repPlain m
        ∧ i.why =
    .fwd x.id ∧ x.stage = .fwd ∧ x.plain ∧ passThrough x.op x.req = true ∧ exitWrite x.op = false ∧ m.npart.toNat = m.part.toNat + 1 :=
  ⟨fps .rd, rep1, fp .rd, iss (.fwd 3), by unfold Trk.plain Slice.calmHolding Slice.awaits repPlain; decide +kernel⟩

theorem test_ForwardAnswered_4 :
    ∃ (s : State) (m : RepMsg) (x : Trk) (i : Issue), s.sl.calmHolding [x] [] ∧ s.sl.ddTakes = true ∧ s.sl.awaits m i ∧ repPlain m
        ∧ i.why =
    .fwd x.id ∧ x.stage = .fwd ∧ x.plain ∧ passThrough x.op x.req = true ∧ exitWrite x.op = true :=
  ⟨fps .wr, rep0, fp .wr, iss (.fwd 3), by unfold Trk.plain Slice.calmHolding Slice.awaits repPlain; decide +kernel⟩

theorem test_SealReleaseEnds :
    ∃ (s : State) (m : RepMsg) (i : Issue) (k : Nat) (h : Hold), s.sl.calm = true ∧ s.sl.miTakes = true ∧ s.sl.awaits m i ∧ repPlain m
        ∧ i.why
    = .seal k h.n ∧ k < 256 ∧ s.sl.release? k h.n = some h ∧ h.req.via = .mq :=
  ⟨ss, rep0, iss (.seal 7 0), 7, hh, by unfold Slice.awaits repPlain; decide +kernel⟩

theorem test_IssuedRequestsAnswered_1_1 :
    ∃ (s : State) (m : RepMsg) (i : Issue), ∃ c o, s.sl.calm = true ∧ s.sl.miTakes = true ∧ s.sl.awaits m i ∧ repPlain m ∧ i.why = .bulkWr
    c.id o ∧ s.sl.cmd? c.id = some c ∧ c.lines.erase o ≠ [] :=
  ⟨b1, rep0, iss (.bulkWr 5 0), bc, 0, by unfold Slice.awaits repPlain; decide +kernel⟩

theorem test_IssuedRequestsAnswered_1_2 :
    ∃ (s : State) (m : RepMsg) (i : Issue), ∃ c o vl, s.sl.calm = true ∧ s.sl.miTakes = true ∧ s.sl.awaits m i ∧ repPlain m
        ∧ i.why = .bulkRd
    c.id o ∧ s.sl.cmd? c.id = some c ∧ c.lines.erase o ≠ [] ∧ bOPC c.desc = BOp.COPY ∧ vl = (bDST c.desc + o) / 128 ∧ s.sl.vtQuar vl =
    false :=
  ⟨b2, rep0, iss (.bulkRd 5 128), bc, 128, 2*8192+9, by unfold Slice.awaits repPlain; decide +kernel⟩

theorem test_IssuedRequestsAnswered_1_3 :
    ∃ (s : State) (m : RepMsg) (i : Issue), ∃ c o, s.sl.calm = true ∧ s.sl.miTakes = true ∧ s.sl.awaits m i ∧ repPlain m ∧ i.why = .bulkRd
    c.id o ∧ s.sl.cmd? c.id = some c ∧ c.lines.erase o ≠ [] ∧ bOPC c.desc = BOp.COPY ∧ s.sl.vtQuar ((bDST c.desc + o) / 128) = true :=
  ⟨b6, rep0, iss (.bulkRd 5 128), bc, 128, by unfold Slice.awaits repPlain; decide +kernel⟩

theorem test_IssuedRequestsAnswered_1_4 :
    ∃ (s : State) (m : RepMsg) (i : Issue), s.sl.calm = true ∧ s.sl.miTakes = true ∧ s.sl.awaits m i ∧ repPlain m ∧ i.why = .incr :=
  ⟨withI t0 .incr, rep0, iss .incr, by unfold Slice.awaits repPlain; decide +kernel⟩

theorem test_IssuedRequestsAnswered_1_5 :
    ∃ (s : State) (m : RepMsg) (i : Issue), ∃ q, s.sl.calm = true ∧ s.sl.miTakes = true ∧ s.sl.awaits m i ∧ repPlain m
        ∧ i.why = .record q.id
    ∧ s.sl.bulk.cpls.find? (fun p => p.id == q.id) = some q ∧ q.group = none ∧ (∀ p ∈ s.sl.bulk.cpls, p.id = q.id → p = q) :=
  ⟨b3, rep0, iss (.record 4), cc, by unfold Slice.awaits repPlain; decide +kernel⟩

theorem test_IssuedRequestsAnswered_2 :
    ∃ (s : State) (tile : BitVec 8) (tag : BitVec 12) (i : Issue) (c : Cmd) (page : Nat) (left : List (Nat × BitVec 144)),
        s.sl.calm = true ∧
    s.sl.miTakes = true ∧ s.sl.out.answering tag = some i ∧ i.orphan = false ∧ i.why = .tinv c.id page ∧ s.sl.cmd? c.id = some c ∧ left =
    c.tiles.map (fun p => if p.1 = page then (p.1, p.2 &&& ~~~((1 : BitVec 144) <<< tile.toNat)) else p) ∧ left.any (fun p => p.2 != 0) =
    true :=
  ⟨b4, 1, 0, iss (.tinv 5 0x100), tc, 0x100, [(0x100, 0x4), (0x101, 0x3)], by decide +kernel⟩

theorem test_IssuedRequestsAnswered_3 :
    ∃ (s : State) (m : RepMsg) (c : Instr), s.sl.calm = true ∧ s.sl.miTakes = true ∧ s.sl.ddTakes = true
        ∧ (c = .ddReply m ∨ c = .forwardReply
    m ∨ c = .sealReleaseReply m ∨ c = .proxyReply m ∨ c = .bulkLineReply m ∨ c = .issuedReply m) ∧ s.sl.out.answering m.tag = none :=
  ⟨t0, rep0, .ddReply rep0, by decide +kernel⟩

theorem test_CreditsReturn_1_1 :
    ∃ (s : State) (c : Instr) (f : Fld) (full : Nat), ((c = .hcCreditReturn ∧ f = NS_PORTSTAT.HCCRED ∧ full = 96 ∧ s.sl.flag
    NS_PORTSTAT.MEMRDY = true) ∨ (c = .mrCreditReturn ∧ f = NS_PORTSTAT.MRCRED ∧ full = 32 ∧ s.sl.flag NS_PORTSTAT.MESHRDY = true) ∨ (c =
    .moCreditReturn ∧ f = NS_PORTSTAT.MOCRED ∧ full = 32 ∧ s.sl.flag NS_PORTSTAT.MESHRDY = true)) ∧ s.sl.between = true :=
  ⟨t0, .hcCreditReturn, NS_PORTSTAT.HCCRED, 96, by decide +kernel⟩

theorem test_CreditsReturn_1_2 :
    ∃ (s : State), s.sl.flag NS_PORTSTAT.LWRDY = true ∧ s.sl.between = true :=
  ⟨t0, by decide +kernel⟩

theorem test_CreditsReturn_1_3 :
    ∃ (s : State), s.sl.flag NS_PORTSTAT.DDRDY = true ∧ s.sl.between = true :=
  ⟨t0, by decide +kernel⟩

theorem test_CreditsReturn_2 :
    ∃ (s : State) (reqid : BitVec 8) (k : Credit), s.sl.port.credits = [k]
        ∧ (s.sl.modPort fun p => { p with credits := [] }).calm = true ∧
    k.reqid = reqid ∧ k.granted = true ∧ s.sl.sys.sclkRuns = true ∧ s.sl.credTimeout ≤ s.sl.now - k.since :=
  ⟨k1, 153, ck, by decide +kernel⟩

theorem test_CreditsReturn_3 :
    ∃ (s : State) (m : ClMsg), s.sl.between = true ∧ s.sl.flag NS_PORTSTAT.LWRDY = true ∧ (s.sl.sys.sclkRuns = false ∨ s.sl.flag
    NS_READY.HOSTCOH = true) ∧ s.sl.crosses m.cluster.toNat = true ∧ s.sl.bridgeSlot 0 = none ∧ s.sl.portCred? m.cluster.toNat = none :=
  ⟨bf, cx, by decide +kernel⟩

theorem test_MemoryLineServes_1_channel :
    ∃ (s : State) (x : Trk) (o : MemOp) (c : Instr) (data : LineData) (out' : Outs) (otag : BitVec 7) (m : RepMsg) (i : Issue), ∃ w,
    s.sl.calmHolding [x] [o] ∧ x.stage = .fill ∧ x.plain ∧ o.why = .trk x.id ∧ o.write = false ∧ ((c = .hcReadBeat
    otag data 0 ∧ o.otag = some otag.toNat ∧ s.sl.flag NS_PORTSTAT.MEMRDY = true ∧ s.sl.sys.sclkRuns = true ∧ out' = s.sl.out) ∨ (c =
    .proxyReply m ∧ out' = s.sl.out.without i.entry ∧ m.data = data ∧ repPlain m ∧ s.sl.awaits m i ∧ i.why = .proxy o.id ∧ s.sl.miTakes =
    true)) ∧ (x.op = .rd ∨ x.op = .rdc ∨ x.op = .rdacq) ∧ x.key = .pa x.req.line ∧ x.way = some w ∧ x.miss = true ∧ s.sl.isHost x.req.line
    = false ∧ s.sl.place x.op x.req = .here ∧ (w ∈ s.sl.waysOf Use.L) ∧ (s.sl.lookup Use.L x.req.line = none ∨ s.sl.lookup Use.L
    x.req.line = some w) ∧ tagTAG (s.sl.tag w (setOf x.req.line)) = x.req.line ∧ s.sl.flag NS_ECC_STAT.BKLOSS = false :=
  ⟨m2, lt m2, lo m2, .hcReadBeat 0 0x12345678 0, 0x12345678, m2.sl.out, 0, rep0, iss (.proxy (lo m6).id), 0,
   by unfold Trk.plain Slice.calmHolding Slice.awaits repPlain; decide +kernel⟩

end Memory

namespace Loans

def dl : LineAddr := 0x2000
def od := { t0 with sl := { (t0.sl.wr Reg.NS_WAYMAP 0x0000000000040201) with mem := ((t0.sl.setTag 0 (setOf dl) (tagW 0x2000 15 0)).mem.writeLine 0 (setOf dl) (lineOf (fun b => BitVec.ofNat 8 (0x40 + b)) 128) fullMask) } }

theorem test_LoanInvalidated_1 :
    ∃ (s : State) (die : BitVec 3) (l : LineAddr), ∃ w, s.sl.ddTakes = true ∧ s.sl.calm = true
        ∧ s.sl.canSendDD (die.toNat * 3 + 2) = true ∧
    s.sl.lookup Use.O l = some w ∧ (∀ v ∈ s.sl.waysOf Use.O, v ≠ w → ¬(tagSV (s.sl.tag v (setOf l)) ≠ 0 ∧ tagTAG (s.sl.tag v (setOf l)) =
    l)) :=
  ⟨od, 2, 0x2000, 0, by decide +kernel⟩

theorem test_LoanInvalidated_2_absent :
    ∃ (s : State) (die : BitVec 3) (l : LineAddr), s.sl.ddTakes = true ∧ s.sl.calm = true ∧ s.sl.canSendDD (die.toNat * 3 + 2) = true
        ∧ s.sl.hasUse Use.O = true ∧ s.sl.lookup Use.O l = none :=
  ⟨od, 2, 0, by decide +kernel⟩

end Loans

namespace Engine

def bd (opc dir len src dst : Nat) (w6 : Nat := 0) (urg : Nat := 0) : List Word := [BitVec.ofNat 64 (opc + dir * 128 + urg * 32 + 3 * 2^32 + 16 + 0xABC * 2^48), BitVec.ofNat 64 len, BitVec.ofNat 64 src, BitVec.ofNat 64 dst, 0, 0x1000, BitVec.ofNat 64 w6] ++ List.replicate 9 0
def mk (d : List Word) : Cmd := { id := 5, born := 1, desc := d, ctx := 0, gen := 0, priv := 0, reqid := 7, srcdie := 0, progress := 0,
                                  checked := false, status := none, faultVa := 0, poisonLn := 0, rejLn := 0, lines := [], stopAt := none,
                                      xlate := [], tiles := [] }
def wc (s : State) (cs : List Cmd) (a : Option Nat) : State := { s with sl := s.sl.modBulk fun b => { b with cmds := cs, active := a,
                                                                                                             nextCmd := 9 } }
def V0 := setF (vt t0) NS_VT_CTL.SNAPCTX 0
def cF := mk (bd 1 0 512 0 (2*2^20+128*8) 0x1122334455667788)
def cBad := mk (bd 1 1 512 0 (2*2^20+128*8) 0x1122334455667788)
def cU := { mk (bd 1 0 512 0 (2*2^20+128*8) 0x1122334455667788 1) with id := 6 }
def cA := {cF with checked := true, progress := 128}
def cC := { mk (bd 2 0 1024 0x100000 (2*2^20+128*8)) with checked := true, progress := 128, xlate := [(0x100, 0x777)] }
def cS := { mk (bd 4 1 1024 0x100000 (2*2^20+128*8) 3) with checked := true, progress := 128, xlate := [(0x100, 0x777)] }
def VL := let s := vtl V0 (setSV 0 15);
    { s with sl := ((s.sl.setTag 2 5 (setSV 0 15)).setTag 2 8 (setSV 0 15)).modMem fun m => (m.writeLine 2 5 (lineOf (fun b => BitVec.ofNat 8 (0x80 + b)) 128) fullMask).writeLine 2 8 0x0123F00545670123AB234567 fullMask }
def cO := { mk (bd 2 1 1024 (2*2^20+128*4) 0x100000) with checked := true, progress := 128, xlate := [(0x100, 0x777)] }
def cT := { mk (bd 4 0 128 (2*2^20+128*4) (2*2^20+128*8) 3) with checked := true, progress := 128 }
def cB := { mk ((bd 5 0 0x3000 0x100080 0).set 8 0x6) with checked := true, progress := 0xF80, xlate := [(0x101, 0x777)] }
def cV := { mk (bd 3 0 0 0 5) with checked := true, progress := 128 * 4 }
def bay1 := match VL.sl.memTgt (VL.sl.imageLine cV.desc 4) with | .chan b => b | _ => 0
def cR := { mk (bd 3 1 0 0 5) with checked := true, progress := 128 * 4 }
def cP := { mk (bd 2 0 0x3000 0x100000 (2*2^20+128*8)) with checked := true, progress := 128 }
def cc (a : Word) : Cpl := { id := 4, cmd := some 5, group := none, waits := [], sent := false, tag := 3, status := 2, irq := true,
                             cpladdr := a, words := [1,2,3,4], ctx := 0, gen := 0, cls := 2, reqid := 7, srcdie := 0, priv := 0 }
def cD := {cF with checked := true, status := some 0, progress := 512}
def rc (a : Word) := let s := wc V0 [cD] none; { s with sl := s.sl.modBulk fun b => { b with cpls := [cc a] } }

theorem test_BulkCommandStarts_1_1 :
    ∃ (s : State) (c : Cmd), s.sl.calm = true ∧ s.sl.bulkRuns = true ∧ s.sl.bulk.active = none ∧ s.sl.bulkNext = some c ∧ s.sl.cmd? c.id =
    some c ∧ c.checked = false ∧ c.stopAt = none ∧ s.sl.bulkCheck c = 0 ∧ s.sl.bulkEmpty c = false :=
  ⟨wc V0 [cF] none, cF, by decide +kernel⟩

theorem test_BulkCommandStarts_1_2 :
    ∃ (s : State) (c : Cmd), s.sl.calm = true ∧ s.sl.bulkRuns = true ∧ s.sl.bulk.active = none ∧ s.sl.bulkNext = some c ∧ s.sl.cmd? c.id =
    some c ∧ c.checked = false ∧ c.stopAt = none ∧ s.sl.bulkCheck c ≠ 0 ∧ s.sl.bulkOut c = 0 ∧ s.sl.imageInv c = false ∧
    s.sl.bulk.cpls.any (fun r => r.cmd == some c.id) = false :=
  ⟨wc V0 [cBad] none, cBad, by decide +kernel⟩

theorem test_BulkCommandStarts_2 :
    ∃ (s : State) (a : Cmd) (c : Cmd), s.sl.calm = true ∧ s.sl.bulkRuns = true ∧ s.sl.activeCmd = some a ∧ bURG a.desc = false
        ∧ s.sl.bulkNext
    = some c ∧ bURG c.desc = true ∧ s.sl.cmd? c.id = some c ∧ c.checked = false ∧ c.stopAt = none ∧ s.sl.bulkCheck c = 0 ∧ s.sl.bulkEmpty
    c = false :=
  ⟨wc V0 [{cF with checked := true}, cU] (some 5), {cF with checked := true}, cU, by decide +kernel⟩

theorem test_FillWritesLine :
    ∃ (s : State) (c : Cmd) (cmd : Instr) (vl : Nat), (cmd = .fill ∨ cmd = .bulkLineIssue) ∧ bOPC c.desc = BOp.FILL ∧ vl = (bDST c.desc +
    c.progress) / 128 ∧ s.sl.calm = true ∧ s.sl.activeCmd = some c ∧ s.sl.bulkRuns = true ∧ c.checked = true ∧ c.status = none ∧ c.stopAt
    = none ∧ c.progress < s.sl.bulkTotal c.desc ∧ s.sl.bulkOut c < 128 ∧ (s.sl.bulkKeys c).any s.sl.lineWaits = false ∧ (s.sl.bulkTotal
    c.desc ≤ c.progress + 128 → s.sl.bulkOut c = 0) ∧ s.sl.bulk.cpls.any (fun r => r.cmd == some c.id) = false :=
  ⟨wc V0 [cA] (some 5), cA, .fill, 2*8192+9, by decide +kernel⟩

theorem test_BulkReadsMemory :
    ∃ (s : State) (c : Cmd) (cmd : Instr) (m : Nat) (pa : Nat) (l : LineAddr), ((cmd = .copy ∧ bOPC c.desc = BOp.COPY
                                                                                 ∧ bDIR c.desc = false) ∨
    (cmd = .scatterReduce ∧ bOPC c.desc = BOp.SCATTER ∧ bDIR c.desc = true) ∨ (cmd = .bulkLineIssue ∧ bOPC c.desc = BOp.COPY ∧ bDIR c.desc
    = false)) ∧ bMem c.desc = some m ∧ c.paOf (m + c.progress) = some pa ∧ l = BitVec.ofNat 45 (pa / 128) ∧ s.sl.canIssueLine c = true ∧
    s.sl.canIssueReq = true :=
  ⟨wc V0 [cC] (some 5), cC, .copy, 0x100000, 0x777080, 0xeee1, by decide +kernel⟩

theorem test_BulkSendsLine_1 :
    ∃ (s : State) (c : Cmd) (vl : Nat), ∃ m pa l, vl = (bSRC c.desc + c.progress) / 128 ∧ s.sl.vtQuar vl = false ∧ s.sl.vtInit vl = 15 ∧
    s.sl.canIssueLine c = true ∧ s.sl.canIssueReq = true ∧ bOPC c.desc = BOp.COPY ∧ bDIR c.desc = true ∧ bMem c.desc = some m ∧ c.paOf (m
    + c.progress) = some pa ∧ l = BitVec.ofNat 45 (pa / 128) :=
  ⟨wc VL [cO] (some 5), cO, 2*8192+5, 0x100000, 0x777080, 0xeee1, by decide +kernel⟩

theorem test_BulkSendsLine_2 :
    ∃ (s : State) (c : Cmd) (vl : Nat), ∃ e h, vl = (bSRC c.desc + c.progress) / 128 ∧ s.sl.vtQuar vl = false ∧ s.sl.vtInit vl = 15 ∧
    s.sl.canIssueLine c = true ∧ s.sl.canIssueReq = true ∧ bOPC c.desc = BOp.SCATTER ∧ bDIR c.desc = false ∧ e = (s.sl.handleEntry c.desc
    (c.progress / bLEN c.desc)).2 ∧ h = e / 2 ^ 16 % 2 ^ 15 :=
  ⟨wc VL [cT] (some 5), cT, 2*8192+5, ((wc VL [cT] (some 5)).sl.handleEntry cT.desc 1).2,
   ((wc VL [cT] (some 5)).sl.handleEntry cT.desc 1).2 / 65536 % 32768, by decide +kernel⟩

theorem test_InvalidateSendsPage :
    ∃ (s : State) (c : Cmd) (pa : Nat) (m : BitVec 144), bOPC c.desc = BOp.BINV ∧ c.paOf (bSRC c.desc + c.progress) = some pa ∧ m =
    s.sl.bulkTiles c.desc ∧ m ≠ 0 ∧ s.sl.canIssueLine c = true ∧ s.sl.canIssueReq = true :=
  ⟨wc { VL with sl := VL.sl.wr (Reg.NS_DIST 0) 0 } [cB] (some 5), cB, 0x777000, 6, by decide +kernel⟩

theorem test_SnapshotMovesLine_1 :
    ∃ (s : State) (c : Cmd) (vl : Nat) (bay : Nat) (l : LineAddr), bOPC c.desc = BOp.SNAPSHOT ∧ vl = s.sl.snapLine (c.progress / 128)
        ∧ l =
    s.sl.imageLine c.desc (c.progress / 128) ∧ s.sl.canIssueLine c = true ∧ s.sl.lookup Use.L l = none ∧ s.sl.chanReady = true ∧
    s.sl.memTgt l = .chan bay ∧ bDIR c.desc = false ∧ s.sl.vtQuar vl = false ∧ s.sl.vtInit vl = 15 :=
  ⟨wc VL [cV] (some 5), cV, 2*8192+4, bay1, VL.sl.imageLine cV.desc 4, by decide +kernel⟩

theorem test_SnapshotMovesLine_2 :
    ∃ (s : State) (c : Cmd) (vl : Nat) (bay : Nat) (l : LineAddr), bOPC c.desc = BOp.SNAPSHOT ∧ vl = s.sl.snapLine (c.progress / 128)
        ∧ l =
    s.sl.imageLine c.desc (c.progress / 128) ∧ s.sl.canIssueLine c = true ∧ s.sl.lookup Use.L l = none ∧ s.sl.chanReady = true ∧
    s.sl.memTgt l = .chan bay ∧ bDIR c.desc = true :=
  ⟨wc VL [cR] (some 5), cR, 2*8192+4, bay1, VL.sl.imageLine cV.desc 4, by decide +kernel⟩

theorem test_PageMappedOrFaults_1 :
    ∃ (s : State) (va : BitVec 64) (c : Cmd) (p : Nat), s.sl.calm = true ∧ s.sl.activeCmd = some c ∧ s.sl.wantsPage c va.toNat = true ∧
    c.stopAt = none ∧ p = va.toNat / 4096 * 4096 - (bMem c.desc).getD 0 :=
  ⟨wc VL [cP] (some 5), 0x101000, cP, 0x1000, by decide +kernel⟩

theorem test_PageMappedOrFaults_2 :
    ∃ (s : State) (va : BitVec 64) (c : Cmd) (p : Nat), s.sl.calm = true ∧ s.sl.activeCmd = some c ∧ s.sl.wantsPage c va.toNat = true ∧
    c.stopAt = none ∧ p = va.toNat / 4096 * 4096 - (bMem c.desc).getD 0 ∧ c.progress < p :=
  ⟨wc VL [cP] (some 5), 0x101000, cP, 0x1000, by decide +kernel⟩

theorem test_PageMappedOrFaults_3 :
    ∃ (s : State) (va : BitVec 64) (c : Cmd) (p : Nat), s.sl.calm = true ∧ s.sl.activeCmd = some c ∧ s.sl.wantsPage c va.toNat = true ∧
    c.stopAt = none ∧ p = va.toNat / 4096 * 4096 - (bMem c.desc).getD 0 ∧ p ≤ c.progress ∧ s.sl.bulkOut c = 0 ∧ s.sl.imageInv c = false ∧
    s.sl.bulk.cpls.any (fun r => r.cmd == some c.id) = false :=
  ⟨wc VL [cP] (some 5), 0x100000, cP, 0, by decide +kernel⟩

theorem test_CompletionRecordWritten_1 :
    ∃ (s : State) (r : Cpl) (cpl : Option (BitVec 52)), ∃ p pa l, s.sl.calm = true ∧ s.sl.sys.sclkRuns = true
        ∧ s.sl.bulk.cpls.find? (fun r =>
    !r.sent && r.waits.all (fun l => s.sl.invDue l == 0)) = some r ∧ (∀ q ∈ s.sl.bulk.cpls, q.id = r.id → q = r) ∧ cpl = some p ∧
    r.cpladdr ≠ 0 ∧ pa = setBits p 0 12 (r.cpladdr.toNat % 4096) ∧ l = pa.extractLsb' 7 45 ∧ s.sl.canIssueReq = true :=
  ⟨rc 0x12345020, cc 0x12345020, some 0x777123, 0x777123, 0x777020, 0xeee0, by decide +kernel⟩

theorem test_CompletionRecordWritten_2 :
    ∃ (s : State) (r : Cpl) (cpl : Option (BitVec 52)), s.sl.calm = true ∧ s.sl.sys.sclkRuns = true
        ∧ s.sl.bulk.cpls.find? (fun r => !r.sent
    && r.waits.all (fun l => s.sl.invDue l == 0)) = some r ∧ (∀ q ∈ s.sl.bulk.cpls, q.id = r.id → q = r) ∧ (r.cpladdr = 0 ∨ cpl = none) :=
  ⟨rc 0, cc 0, some 0x777123, by decide +kernel⟩

theorem test_BulkReadsMemory_scatter :
    ∃ (s : State) (c : Cmd) (cmd : Instr) (m : Nat) (pa : Nat) (l : LineAddr), ((cmd = .copy ∧ bOPC c.desc = BOp.COPY
                                                                                 ∧ bDIR c.desc = false) ∨
    (cmd = .scatterReduce ∧ bOPC c.desc = BOp.SCATTER ∧ bDIR c.desc = true) ∨ (cmd = .bulkLineIssue ∧ bOPC c.desc = BOp.COPY ∧ bDIR c.desc
    = false)) ∧ bMem c.desc = some m ∧ c.paOf (m + c.progress) = some pa ∧ l = BitVec.ofNat 45 (pa / 128) ∧ s.sl.canIssueLine c = true ∧
    s.sl.canIssueReq = true :=
  ⟨wc V0 [cS] (some 5), cS, .scatterReduce, 0x100000, 0x777080, 0xeee1, by decide +kernel⟩

theorem test_FillWritesLine_last :
    ∃ (s : State) (c : Cmd) (cmd : Instr) (vl : Nat), (cmd = .fill ∨ cmd = .bulkLineIssue) ∧ bOPC c.desc = BOp.FILL ∧ vl = (bDST c.desc +
    c.progress) / 128 ∧ s.sl.calm = true ∧ s.sl.activeCmd = some c ∧ s.sl.bulkRuns = true ∧ c.checked = true ∧ c.status = none ∧ c.stopAt
    = none ∧ c.progress < s.sl.bulkTotal c.desc ∧ s.sl.bulkOut c < 128 ∧ (s.sl.bulkKeys c).any s.sl.lineWaits = false ∧ (s.sl.bulkTotal
    c.desc ≤ c.progress + 128 → s.sl.bulkOut c = 0) ∧ s.sl.bulk.cpls.any (fun r => r.cmd == some c.id) = false :=
  ⟨wc V0 [{cA with progress := 384}] (some 5), {cA with progress := 384}, .bulkLineIssue, 2*8192+11, by decide +kernel⟩

theorem test_CompletionRecordWritten_2_fault :
    ∃ (s : State) (r : Cpl) (cpl : Option (BitVec 52)), s.sl.calm = true ∧ s.sl.sys.sclkRuns = true
        ∧ s.sl.bulk.cpls.find? (fun r => !r.sent
    && r.waits.all (fun l => s.sl.invDue l == 0)) = some r ∧ (∀ q ∈ s.sl.bulk.cpls, q.id = r.id → q = r) ∧ (r.cpladdr = 0 ∨ cpl = none) :=
  ⟨rc 0x12345020, cc 0x12345020, none, by decide +kernel⟩

end Engine

namespace Groups

def desc (cmd op acc nelem expect tb te : Nat) : List Word :=
  [BitVec.ofNat 64 (cmd + op * 2^15 + acc * 2^19 + (1 : Nat) * 2^30), BitVec.ofNat 64 (nelem * 2^16 + expect), BitVec.ofNat 64 tb,
   BitVec.ofNat 64 te] ++ List.replicate 12 0
def lineD (d : List Word) : LineData := (d.zipIdx).foldl (fun a p => setBits a (64 * p.2) 64 p.1.toNat) 0
def gq (d : List Word) : Req := { q1 with pa := 0, mask := fullMask, data := lineD d, group := 5, cls := 2 }
def d1 := desc 1 0 0 32 3 (2*2^20 + 128*16) (2*2^20 + 128*32)
def G0 := vt t0
def GI := nextOf (exec (.openGrp (.mesh (gq d1))) G0)
def pg (s : State) : Grp := (s.sl.grps.headD { num := 0, desc := [], req := Req.zero, born := 0, opener := none, aborts := [],
                                               lines := [], leftCount := 0, booked := 0, idx := [], arrivals := 0, rejects := 0,
                                                   fwdRej := 0, shortU := 0, poisonLn := 0, fwdSent := 0, fwdDone := 0, byClose := false,
                                                       epiDone := false })
def ask (s : State) : GrpAsker := (pg s).opener.getD { staged := true, req := Req.zero, born := 0 }
def d3 := desc 1 0 0 64 3 0 (128*1) |>.set 0 (BitVec.ofNat 64 (1 + 2048 + 0 * 2^19 + 2^30))
def GM := nextOf (exec (.openGrp (.mesh (gq d3))) G0)
def GN := (nextOf (exec (.groupInitDone 5) GM)).cycle
def arm : Req := { gq (desc 0 0 0 0 0 0 0) with vsp := false, fmt := BitVec.ofNat 5 (accFmt 0), aux := 1, pa := 0,
                                                data := 0x3f8000003f900000 }
def GA := let s := otherTag GN 0 0 (tagW 0 15 0);
    nextOf (exec (.redn arm) { s with sl := s.sl.modMem fun m => m.writeLine 0 0 0x4000000040000000 fullMask })
def lt (s : State) : Trk := s.sl.port.trks.headD { id := 0, kind := .none, op := .rd, req := Req.zero, key := .none, stage := .done,
                                                   born := 0, joined := [], way := none, loss := 0, miss := false, urgent := false,
                                                       uninit := false, noAlloc := false, closed := false, cl := none, cvt := none }
def GV := (nextOf (exec (.groupInitDone 5) GI)).cycle
def arv : Req := { arm with vsp := true, pa := 0 }
def GB := nextOf (exec (.redn arv) GV)
def GC := nextOf (exec (.closeGrp (.mesh (gq (desc 2 0 0 0 0 0 0)))) (nextOf (exec .arrivalCombined GB)).cycle)
def GE := nextOf (exec (.epilogueStart 5) GC)
def GF := let s := setF GN (NS_GRPSTAT.STATE 5) 3; s
def rep0 : RepMsg := { tag := 0, status := 0xB, acklvl := 3, detail := 0, auxr := 0, part := 0, npart := 1, pois := 0, pcause := 0,
                       data := 0x777 }
def iss (w : Why) : Issue := { entry := 0, epoch := 0, op := .pxrd, ctx := 0, gen := 0, die := 0, line := 0, why := w, orphan := false,
                               since := 0 }
def withI (s : State) (w : Why) : State := { s with sl := { s.sl with out := { s.sl.out with issue := [iss w, { iss w with entry := 1,
                                                                                                                           epoch := 1 }] } } }
def GG := let s := setF (withI GV (.arrival 5)) (NS_GRPSTAT.STATE 5) 4; let d := (pg s).desc.set 1 (BitVec.ofNat 64 (200 * 2^16 + 3));
    { s with sl := s.sl.modGrp 5 fun p => { p with desc := d, fwdSent := gOutLines d, fwdDone := 1 } }

theorem test_GroupInitialised :
    ∃ (s : State) (g : BitVec 6) (n : Nat) (p : Grp) (a : GrpAsker), s.sl.calm = true ∧ n = g.toNat ∧ s.sl.grp? n = some p
        ∧ s.sl.grpState n =
    GSt.OPENING ∧ p.opener = some a ∧ a.staged = false ∧ a.req.via = .mq ∧ (gEXPLICIT p.desc = true ∨ gEXPECT p.desc ≠ 0) ∧ (gMEM p.desc =
    true ∨ (gCHUNKL p.desc = 0 ∧ gPRELOAD p.desc = false)) :=
  ⟨GI, 5, 5, pg GI, ask GI, by decide +kernel⟩

theorem test_ArrivalCombines_1 :
    ∃ (s : State) (x : Trk) (p : Grp) (n : Nat), ∃ w cnt, s.sl.calmHolding [x] [] ∧ x.stage = .combine ∧ (x.op = .redc ∨ x.op = .redn)
        ∧ n =
    x.req.group.toNat ∧ s.sl.grp? n = some p ∧ (∀ q ∈ s.sl.grps, q.num = n → q = p) ∧ x.plain ∧ s.sl.blocked x = false ∧ x.req.vsp = false ∧ p.lines.contains x.req.line
    = true ∧ s.sl.lookup Use.L x.req.line = some w ∧ reqCauses x.req.pois x.req.pcause = 0 ∧ s.sl.mem.loanAt w (setOf x.req.line) = 0 ∧
    cnt = (s.sl.mem.glwAt w (setOf x.req.line)).toNat % 65536 ∧ (gEXPECT p.desc = 0 ∨ cnt + arrK x.req < gEXPECT p.desc) :=
  ⟨GA, lt GA, pg GA, 5, 0, 0, by unfold Trk.plain Slice.calmHolding; decide +kernel⟩

theorem test_ArrivalCombines_2 :
    ∃ (s : State) (x : Trk) (p : Grp) (n : Nat), s.sl.calmHolding [x] [] ∧ x.stage = .combine ∧ (x.op = .redc ∨ x.op = .redn) ∧ n =
    x.req.group.toNat ∧ s.sl.grp? n = some p ∧ (∀ q ∈ s.sl.grps, q.num = n → q = p) ∧ x.plain ∧ s.sl.blocked x = false ∧ x.req.vsp = true ∧ p.lines = [] :=
  ⟨GB, lt GB, pg GB, 5, by unfold Trk.plain Slice.calmHolding; decide +kernel⟩

theorem test_GroupCompletes_1 :
    ∃ (s : State) (g : BitVec 6) (n : Nat) (p : Grp), ∃ line out, s.sl.calm = true ∧ n = g.toNat ∧ s.sl.grp? n = some p
        ∧ s.sl.grpState n =
    GSt.CLOSING ∧ p.epiDone = false ∧ gMEM p.desc = false ∧ gCHUNKL p.desc = 0 ∧ gOutLines p.desc = 1 ∧ gOUTFMT p.desc < 16 ∧ line = gTEXT
    p.desc / 128 ∧ out = s.sl.epiLine p 0 ∧ out.pz = 0 ∧ s.sl.vtQuar line = false :=
  ⟨GC, 5, 5, pg GC, (2*2^20 + 128*32)/128, GC.sl.epiLine (pg GC) 0, by decide +kernel⟩

theorem test_GroupCompletes_2 :
    ∃ (s : State) (g : BitVec 6) (n : Nat) (p : Grp), s.sl.calm = true ∧ n = g.toNat ∧ s.sl.grp? n = some p
        ∧ s.sl.grpState n = GSt.CLOSING ∧
    p.epiDone = false ∧ gMEM p.desc = true ∧ p.lines = [] :=
  ⟨GF, 5, 5, pg GF, by decide +kernel⟩

theorem test_GroupCompletes_3 :
    ∃ (s : State) (g : BitVec 6) (n : Nat) (p : Grp), ∃ st, s.sl.calm = true ∧ n = g.toNat ∧ s.sl.grp? n = some p ∧ s.sl.grpState n =
    GSt.CLOSING ∧ p.epiDone = true ∧ gFWD p.desc = false ∧ (st = (if p.byClose = true ∧ p.shortU ≠ 0
                                                                  ∧ gEXPECT p.desc ≠ 0 then 1 else 0)) :=
  ⟨GE, 5, 5, pg GE, 1, by decide +kernel⟩

theorem test_GroupCompletes_4 :
    ∃ (s : State) (g : BitVec 6) (n : Nat) (p : Grp) (m : RepMsg) (i : Issue), s.sl.calm = true ∧ n = g.toNat ∧ s.sl.grp? n = some p ∧
    s.sl.grpState n = GSt.FORWARDING ∧ s.sl.miTakes = true ∧ s.sl.awaits m i ∧ i.why = .arrival n ∧ p.fwdSent = gOutLines p.desc ∧
    p.fwdDone + 1 < gOutLines p.desc :=
  ⟨GG, 5, 5, pg GG, rep0, iss (.arrival 5), by unfold Slice.awaits; decide +kernel⟩

end Groups

namespace Registers

def ca (d : Word) : CtAcc := { data := d, tag := 3, origin := 0x11, priv := 2, upper := false, half := false }
def R0 := t0

theorem test_RegisterWriteStores_1 :
    ∃ (v : State) (s : State) (off : BitVec 16) (a : CtAcc) (o : Nat), ∃ fs, v.ctFor = s ∧ o = off.toNat ∧ s.sl.ctTakes = true
        ∧ s.sl.between
    = true ∧ s.sl.ctAdmits o true a = true ∧ regFields o = some fs ∧ plainReg o = true :=
  ⟨R0, (R0).ctFor, 0x1080, ca 0x8000000700000003, 0x1080, (regFields 0x1080).getD [], by decide +kernel⟩

theorem test_RegisterWriteStores_2 :
    ∃ (v : State) (s : State) (off : BitVec 16) (a : CtAcc) (o : Nat), ∃ code, v.ctFor = s ∧ o = off.toNat ∧ s.sl.ctTakes = true ∧
    s.sl.between = true ∧ s.sl.ctAdmits o true a = true ∧ (regFields o).isSome = true ∧ s.judged o a = .ignored code :=
  ⟨setF R0 NS_WAYCHG.BUSY 1, ((setF R0 NS_WAYCHG.BUSY 1)).ctFor, 0x1048, ca 0x1, Reg.NS_WAYMAP_NEXT, 4, by decide +kernel⟩

theorem test_RegisterWriteStores_3 :
    ∃ (v : State) (s : State) (off : BitVec 16) (a : CtAcc) (o : Nat), v.ctFor = s ∧ o = off.toNat ∧ s.sl.ctTakes = true
        ∧ s.sl.between = true
    ∧ s.sl.ctAdmits o true a = true ∧ regFields o = none :=
  ⟨R0, (R0).ctFor, 0xFFF8, ca 0xFFFFFFFFFFFFFFFF, 0xFFF8, by decide +kernel⟩

theorem test_RegisterWriteStores_4 :
    ∃ (v : State) (s : State) (off : BitVec 16) (o : Nat), v.ctFor = s ∧ o = off.toNat ∧ s.sl.ctTakes = true ∧ s.sl.between = true
        ∧ o % 8 ≠ 0 :=
  ⟨R0, (R0).ctFor, 0x1083, 0x1083, by decide +kernel⟩

theorem test_RegisterWriteStores_5 :
    ∃ (v : State) (s : State) (off : BitVec 16) (a : CtAcc) (o : Nat), v.ctFor = s ∧ o = off.toNat ∧ s.sl.ctTakes = true
        ∧ s.sl.between = true
    ∧ o % 8 = 0 ∧ a.priv.toNat < s.sl.needPriv o true a :=
  ⟨R0, (R0).ctFor, 0x1080, {ca 0xFFFFFFFFFFFFFFFF with priv := 1}, 0x1080, by decide +kernel⟩

theorem test_RegisterWriteStores_6 :
    ∃ (v : State) (s : State) (off : BitVec 16) (o : Nat), v.ctFor = s ∧ o = off.toNat ∧ s.sl.ctTakes = true ∧ s.sl.between = true
        ∧ o % 8 = 0 :=
  ⟨R0, (R0).ctFor, 0x1080, 0x1080, by decide +kernel⟩

theorem test_RegisterReadAnswers_2 :
    ∃ (v : State) (s : State) (off : BitVec 16) (a : CtAcc) (o : Nat) (page : Bool) (r : Nat) (fs : List FieldRow), v.ctFor = s ∧ o =
    off.toNat ∧ s.sl.ctTakes = true ∧ s.sl.between = true ∧ ((page = false ∧ s.sl.ctAdmits o false a = true ∧ r = o) ∨ (page = true ∧ o %
    8 = 0 ∧ aliasOf o = some r ∧ (a.priv.toNat ≠ Priv.user ∨ s.sl.userReads (some r) = true))) ∧ regFields r = some fs :=
  ⟨R0, (R0).ctFor, 0x1080, ca 0, 0x1080, false, 0x1080, (regFields 0x1080).getD [], by decide +kernel⟩

theorem test_RegisterReadAnswers_3 :
    ∃ (v : State) (s : State) (off : BitVec 16) (a : CtAcc) (o : Nat) (page : Bool), v.ctFor = s ∧ o = off.toNat ∧ s.sl.ctTakes = true ∧
    s.sl.between = true ∧ ((page = false ∧ s.sl.ctAdmits o false a = true ∧ regFields o = none) ∨ (page = true ∧ o % 8 = 0 ∧ (aliasOf
    o).bind regFields = none ∧ (a.priv.toNat ≠ Priv.user ∨ s.sl.userReads (aliasOf o) = true))) :=
  ⟨R0, (R0).ctFor, 0xFFF8, {ca 0 with priv := 3}, 0xFFF8, false, by decide +kernel⟩

theorem test_RegisterReadAnswers_4 :
    ∃ (v : State) (s : State) (off : BitVec 16) (o : Nat), v.ctFor = s ∧ o = off.toNat ∧ s.sl.ctTakes = true ∧ s.sl.between = true
        ∧ o % 8 ≠ 0 :=
  ⟨R0, (R0).ctFor, 0x1083, 0x1083, by decide +kernel⟩

theorem test_RegisterReadAnswers_5 :
    ∃ (v : State) (s : State) (off : BitVec 16) (a : CtAcc) (o : Nat) (page : Bool), v.ctFor = s ∧ o = off.toNat ∧ s.sl.ctTakes = true ∧
    s.sl.between = true ∧ o % 8 = 0 ∧ ((page = false ∧ a.priv.toNat < s.sl.needPriv o false a) ∨ (page = true ∧ a.priv.toNat = Priv.user ∧
    s.sl.userReads (aliasOf o) = false)) :=
  ⟨R0, (R0).ctFor, 0xC010, {ca 0 with priv := 1}, 0xC010, false, by decide +kernel⟩

theorem test_RegisterReadAnswers_2_alias :
    ∃ (v : State) (s : State) (off : BitVec 16) (a : CtAcc) (o : Nat) (page : Bool) (r : Nat) (fs : List FieldRow), v.ctFor = s ∧ o =
    off.toNat ∧ s.sl.ctTakes = true ∧ s.sl.between = true ∧ ((page = false ∧ s.sl.ctAdmits o false a = true ∧ r = o) ∨ (page = true ∧ o %
    8 = 0 ∧ aliasOf o = some r ∧ (a.priv.toNat ≠ Priv.user ∨ s.sl.userReads (some r) = true))) ∧ regFields r = some fs :=
  ⟨setF (setF R0 NS_CNT_PRIV.UREAD 1) NS_CNT_PRIV.UPMC 1, ((setF (setF R0 NS_CNT_PRIV.UREAD 1) NS_CNT_PRIV.UPMC 1)).ctFor, 0x80,
   {ca 0 with priv := 0}, 0x80, true, 0xA080, (regFields 0xA080).getD [], by decide +kernel⟩

theorem test_RegisterReadAnswers_5_alias :
    ∃ (v : State) (s : State) (off : BitVec 16) (a : CtAcc) (o : Nat) (page : Bool), v.ctFor = s ∧ o = off.toNat ∧ s.sl.ctTakes = true ∧
    s.sl.between = true ∧ o % 8 = 0 ∧ ((page = false ∧ a.priv.toNat < s.sl.needPriv o false a) ∨ (page = true ∧ a.priv.toNat = Priv.user ∧
    s.sl.userReads (aliasOf o) = false)) :=
  ⟨R0, (R0).ctFor, 0x80, {ca 0 with priv := 0}, 0x80, true, by decide +kernel⟩

end Registers

namespace Upkeep

def bd (opc dir len src dst : Nat) (w6 : Nat := 0) (urg : Nat := 0) : List Word := [BitVec.ofNat 64 (opc + dir * 128 + urg * 32 + 3 * 2^32 + 16 + 0xABC * 2^48), BitVec.ofNat 64 len, BitVec.ofNat 64 src, BitVec.ofNat 64 dst, 0, 0x1000, BitVec.ofNat 64 w6] ++ List.replicate 9 0
def mk (d : List Word) : Cmd := { id := 5, born := 1, desc := d, ctx := 0, gen := 0, priv := 0, reqid := 7, srcdie := 0, progress := 0,
                                  checked := false, status := none, faultVa := 0, poisonLn := 0, rejLn := 0, lines := [], stopAt := none,
                                      xlate := [], tiles := [] }
def wc (s : State) (cs : List Cmd) (a : Option Nat) : State := { s with sl := s.sl.modBulk fun b => { b with cmds := cs, active := a,
                                                                                                             nextCmd := 9 } }
def V0 := setF (vt t0) NS_VT_CTL.SNAPCTX 0
def cF := mk (bd 1 0 512 0 (2*2^20+128*8) 0x1122334455667788)
def cA := {cF with checked := true, progress := 128}
def ca (d : Word) : CtAcc := { data := d, tag := 3, origin := 0x11, priv := 3, upper := false, half := false }
def cah (d : Word) : CtAcc := { data := d, tag := 3, origin := 0x11, priv := 3, upper := false, half := true }
def A1 := wc V0 [cA] (some 5)
def CE := setF (setF t1 NS_ECC_CTL.CBEN 1) NS_ECC_CBDATA.DATA 0x1122334455667788
def cw (t w n k m : Nat) : CtAcc := ca (BitVec.ofNat 64 (t * 2^62 + w * 2^32 + n * 2^16 + k * 256 + m))

theorem test_UpkeepWritesAct_1 :
    ∃ (v : State) (s : State) (a : CtAcc), v.ctFor = s ∧ s.ctTakesWrite Reg.NS_BLK_CTL a = true
        ∧ s.sl.ctSets a NS_BLK_CTL.ABORT = false :=
  ⟨t0, (t0).ctFor, ca 2, by decide +kernel⟩

theorem test_UpkeepWritesAct_2 :
    ∃ (v : State) (s : State) (a : CtAcc), ∃ c, v.ctFor = s ∧ s.ctDoes a NS_BLK_CTL.ABORT = true ∧ s.sl.calm = true
        ∧ s.sl.bulk.cmds = [c] ∧
    c.status = none ∧ s.sl.imageInv c = false ∧ s.sl.bulk.active = some c.id ∧ s.sl.bulk.cpls = [] :=
  ⟨A1, (A1).ctFor, ca 4, cA, by decide +kernel⟩

theorem test_UpkeepWritesAct_3 :
    ∃ (v : State) (s : State) (a : CtAcc), v.ctFor = s ∧ s.ctTakesWrite Reg.NS_DIST_CTL a = true :=
  ⟨t0, (t0).ctFor, ca 2, by decide +kernel⟩

theorem test_UpkeepWritesAct_4 :
    ∃ (v : State) (s : State) (a : CtAcc), v.ctFor = s ∧ s.ctDoes a NS_UU_CTL.PREDCLR = true :=
  ⟨t0, (t0).ctFor, ca (2^8+2), by decide +kernel⟩

theorem test_UpkeepWritesAct_5 :
    ∃ (v : State) (s : State) (a : CtAcc), ∃ w, v.ctFor = s ∧ s.ctDoes a NS_WAYCHG.GO = true ∧ s.sl.flag NS_WAYCHG.BUSY = false
        ∧ w < 16 :=
  ⟨t0, (t0).ctFor, cah 1, 0, by decide +kernel⟩

theorem test_UpkeepWritesAct_6 :
    ∃ (v : State) (s : State) (a : CtAcc) (way : Nat) (set : Nat), v.ctFor = s ∧ s.ctDoes a NS_ECC_QUAR.QSET = true ∧ s.sl.ctSets a
    NS_ECC_QUAR.QCLR = false ∧ s.sl.calm = true ∧ way = (s.stored Reg.NS_ECC_QUAR a).fld NS_ECC_QUAR.WAY ∧ set = (s.stored Reg.NS_ECC_QUAR
    a).fld NS_ECC_QUAR.SET ∧ (s.sl.wayCode way = Use.V ∨ s.sl.wayCode way = Use.X ∨ (tagSV (s.sl.tag way set) = 0 ∧ tagBUSY (s.sl.tag way
    set) = false)) :=
  ⟨t0, (t0).ctFor, ca (3 * 2^32 + 7 * 2^16 + 1), 3, 7, by decide +kernel⟩

theorem test_UpkeepWritesAct_7 :
    ∃ (v : State) (s : State) (a : CtAcc) (way : Nat) (set : Nat), v.ctFor = s ∧ s.ctDoes a NS_ECC_QUAR.QCLR = true ∧ s.sl.ctSets a
    NS_ECC_QUAR.QSET = false ∧ s.sl.calm = true ∧ way = (s.stored Reg.NS_ECC_QUAR a).fld NS_ECC_QUAR.WAY ∧ set = (s.stored Reg.NS_ECC_QUAR
    a).fld NS_ECC_QUAR.SET :=
  ⟨t0, (t0).ctFor, ca (3 * 2^32 + 7 * 2^16 + 2), 3, 7, by decide +kernel⟩

theorem test_UpkeepWritesAct_8 :
    ∃ (v : State) (s : State) (a : CtAcc) (u : Slice) (way : Nat) (set : Nat) (word : Nat), v.ctFor = s
        ∧ s.ctDoes a NS_ECC_CBCTL.RAWRD = true
    ∧ s.sl.ctSets a NS_ECC_CBCTL.RAWWR = false ∧ s.sl.calm = true ∧ u = s.stored Reg.NS_ECC_CBCTL a ∧ way = u.fld NS_ECC_CBCTL.WAY ∧ set =
    u.fld NS_ECC_CBCTL.SET ∧ word = u.fld NS_ECC_CBCTL.WORD :=
  ⟨CE, (CE).ctFor, cw 0 0 0 3 1, CE.stored Reg.NS_ECC_CBCTL (cw 0 0 0 3 1), 0, 0, 3, by decide +kernel⟩

theorem test_UpkeepWritesAct_9 :
    ∃ (v : State) (s : State) (a : CtAcc) (u : Slice) (way : Nat) (set : Nat) (word : Nat) (d : Word), v.ctFor = s ∧ s.ctDoes a
    NS_ECC_CBCTL.RAWWR = true ∧ s.sl.ctSets a NS_ECC_CBCTL.RAWRD = false ∧ s.sl.calm = true ∧ u = s.stored Reg.NS_ECC_CBCTL a ∧ way =
    u.fld NS_ECC_CBCTL.WAY ∧ set = u.fld NS_ECC_CBCTL.SET ∧ word = u.fld NS_ECC_CBCTL.WORD ∧ d = s.sl.rd Reg.NS_ECC_CBDATA :=
  ⟨CE, (CE).ctFor, cw 0 0 0 3 2, CE.stored Reg.NS_ECC_CBCTL (cw 0 0 0 3 2), 0, 0, 3, CE.sl.rd Reg.NS_ECC_CBDATA, by decide +kernel⟩

theorem test_UpkeepWritesAct_10 :
    ∃ (v : State) (s : State) (a : CtAcc), v.ctFor = s ∧ s.ctTakesWrite Reg.NS_IRQ_SET a = true :=
  ⟨t0, (t0).ctFor, ca 2, by decide +kernel⟩

theorem test_UpkeepWritesAct_11 :
    ∃ (v : State) (s : State) (a : CtAcc), v.ctFor = s ∧ s.ctDoes a NS_DG_SEL.GO = true :=
  ⟨t0, (t0).ctFor, cah 1, by decide +kernel⟩

end Upkeep

namespace Ruled

def ca (d : Word) : CtAcc := { data := d, tag := 3, origin := 0x11, priv := 3, upper := false, half := false }
def VR := vt t0
def reg (en base lim : Nat) : Word := BitVec.ofNat 64 (en * 2^63) ||| BitVec.ofNat 64 (2^(NS_VT_REGION.BASE 0).lo * base + 2^(NS_VT_REGION.LIMIT 0).lo * lim)
def AC (st : Nat) (en : Nat) (h : List Hold) : State := let s := setF (setF t0 (NS_ACCN_TARGET.EN 7) en) (NS_ACCN_TARGET.STATE 7) st;
    { s with sl := { s.sl with holds := h } }
def hh : Hold := { k := 7, req := q1, born := 3, n := 0, issued := true, disable := false }
def OA := Reg.NS_ACCN_TARGET 7

theorem test_RuledWritesJudged_1 :
    ∃ (v : State) (s : State) (a : CtAcc) (c : Instr) (o : Nat), v.ctFor = s ∧ ((∃ n, c = .vtRegionWrite n a
                                                                                 ∧ o = Reg.NS_VT_REGION n.toNat) ∨
    (∃ n, c = .fpWinWrite n false a ∧ o = Reg.NS_FP_WINA n.toNat) ∨ (∃ n, c = .fpWinWrite n true a ∧ o = Reg.NS_FP_WINB n.toNat) ∨ (c =
    .maplistWrite a ∧ o = Reg.NS_CH_MAPLIST) ∨ (c = .deadmaskWrite a ∧ o = Reg.NS_DIR_DEADMASK) ∨ (∃ k, c = .accnTargetWrite k a ∧ o =
    Reg.NS_ACCN_TARGET k.toNat)) ∧ s.sl.ctAdmits o true a = true ∧ s.judged o a = .ignored ErrCode.REGVAL :=
  ⟨VR, (VR).ctFor, ca (reg 1 0x200 0x2FF), .vtRegionWrite 4 (ca (reg 1 0x200 0x2FF)), Reg.NS_VT_REGION 4, by decide +kernel⟩

theorem test_RuledWritesJudged_2_2 :
    ∃ (v : State) (s : State) (a : CtAcc) (n : BitVec 6) (o : Nat), v.ctFor = s ∧ o = Reg.NS_VT_REGION n.toNat
        ∧ s.sl.ctAdmits o true a = true
    ∧ s.judged o a = .ok :=
  ⟨VR, (VR).ctFor, ca (reg 0 0x200 0x2FF), 4, Reg.NS_VT_REGION 4, by decide +kernel⟩

theorem test_RuledWritesJudged_3 :
    ∃ (v : State) (s : State) (a : CtAcc) (n : BitVec 4) (b : Bool) (o : Nat), v.ctFor = s ∧ o = (if b then Reg.NS_FP_WINB n.toNat else
    Reg.NS_FP_WINA n.toNat) ∧ s.ctTakesWrite o a = true :=
  ⟨VR, (VR).ctFor, ca 0x80ACE02468ACE024, 3, true, Reg.NS_FP_WINB 3, by decide +kernel⟩

theorem test_RuledWritesJudged_5 :
    ∃ (v : State) (s : State) (a : CtAcc), ∃ c, v.ctFor = s ∧ s.ctTakesWrite Reg.NS_DIR_DEADMASK a = true ∧ c < 32 :=
  ⟨VR, (VR).ctFor, ca (reg 0 0x200 0x2FF), 4, by decide +kernel⟩

theorem test_RuledWritesJudged_6_1 :
    ∃ (v : State) (s : State) (a : CtAcc) (k : BitVec 8) (o : Nat), v.ctFor = s ∧ o = Reg.NS_ACCN_TARGET k.toNat
        ∧ s.ctTakesWrite o a = true ∧
    (s.sl.fld (NS_ACCN_TARGET.EN k.toNat) = 0 ∨ fldOf (s.written o a) (NS_ACCN_TARGET.EN k.toNat) = 1 ∧ (bitAt (ctMask a) 63 = false ∨
    bitAt (ctWord a) 63 = true)) :=
  ⟨AC 0 0 [], ((AC 0 0 [])).ctFor, ca 0x8ACE02468ACE0246, 7, OA, by decide +kernel⟩

theorem test_RuledWritesJudged_7 :
    ∃ (v : State) (s : State) (a : CtAcc) (m : BitVec 8) (o : Nat), v.ctFor = s ∧ o = Reg.NS_REG_BUDGET m.toNat
        ∧ s.ctTakesWrite o a = true :=
  ⟨t0, (t0).ctFor, ca 0x5, 7, Reg.NS_REG_BUDGET 7, by decide +kernel⟩

theorem test_RuledWritesJudged_8 :
    ∃ (v : State) (s : State) (a : CtAcc), v.ctFor = s ∧ s.ctDoes a NS_PV_CTL.POP = true
        ∧ loggedWrite Reg.NS_PV_CTL (s.view Reg.NS_PV_CTL)
    (s.written Reg.NS_PV_CTL a) = false :=
  ⟨AC 2 1 [hh], ((AC 2 1 [hh])).ctFor, ca 0x0000000000000003, by decide +kernel⟩

theorem test_RuledWritesJudged_9 :
    ∃ (v : State) (s : State) (a : CtAcc), v.ctFor = s ∧ s.ctTakesWrite Reg.NS_PV_SPILL a = true :=
  ⟨VR, (VR).ctFor, ca (reg 0 0x200 0x2FF), by decide +kernel⟩

end Ruled

namespace Service

def ca (d : Word) : CtAcc := { data := d, tag := 3, origin := 0x11, priv := 3, upper := false, half := false }
def D0 := { t0 with sl := (t0.sl.modCoh fun q => { q with portCred := (List.range 16).map fun c => { cluster := c, msg := 0, op := .rd, pa := 0, line := 0,
                                                                                                     granted := true, slot := .own,
                                                                                                         since := 0 } }) }
def ck : Credit := { reqid := 153, res := .chan, op := .rd, vsp := false, pa := 0, ctx := 0, gen := 0, tag := 0, srcdie := 0,
                     msg := some 1, granted := true, since := 0, lost := none }
def k1 := { t0 with sl := t0.sl.modPort fun p => { p with credits := [ck] } }
def fw (maj mn : Nat) : CtAcc := ca (BitVec.ofNat 64 (maj * 2^40 + mn * 2^32 + 1))
def fo (s : State) (a : CtAcc) := s.stored Reg.NS_FWIF a
def M0 := setF (setF (setF t0 NS_CH_MAPLIST.COUNT 1) NS_CH_MAPLIST.CH0 5) NS_PORTSTAT.HCCRED 1
def pl (s : State) : LineAddr := s.sl.bayLine s.sl.ownStack (31 * 2 ^ 19) s.sl.ownChan
def bay (s : State) : Nat := match s.sl.memTgt (pl s) with | .chan b => b | _ => 999
def S0 := setF (setF (setF t0 NS_CH_MAPLIST.COUNT 1) NS_CH_MAPLIST.CH0 0) NS_CH_STAT.CSTATE 3
def hq : Req := { q1 with slack := 4 }
def AH (st : Nat) : State := let s := setF (setF t0 (NS_ACCN_TARGET.EN 7) 1) (NS_ACCN_TARGET.STATE 7) st
  { s with sl := { s.sl with holds := [{ k := 7, n := 0, req := hq, born := 3, issued := false, disable := false }] } }
def AR : State := let s := AH 2; { s with sl := { s.sl with holds := [{ k := 7, n := 1, req := hq, born := 3, issued := true,
                                                                        disable := false }] } }

theorem test_RuledWritesJudged_4 :
    ∃ (v : State) (s : State) (a : CtAcc), v.ctFor = s ∧ s.ctTakesWrite Reg.NS_CH_MAPLIST a = true :=
  ⟨t0, (t0).ctFor, ca 0x100000005, by decide +kernel⟩

theorem test_RuledWritesJudged_6_2_1 :
    ∃ (v : State) (s : State) (a : CtAcc) (k : BitVec 8) (o : Nat), ∃ n h, v.ctFor = s ∧ o = Reg.NS_ACCN_TARGET k.toNat
        ∧ s.ctTakesWrite o a =
    true ∧ n = ((s.sl.holds.filter fun h => h.k == k.toNat && h.issued).map (·.n)).foldl max 0 ∧ s.sl.fld (NS_ACCN_TARGET.EN k.toNat) = 1
    ∧ bitAt (ctMask a) 63 = true ∧ bitAt (ctWord a) 63 = false ∧ s.sl.hold? k.toNat = some h ∧ s.sl.accState k.toNat ≠ AccSt.RELEASING ∧
    h.req.via = .mq :=
  ⟨AH 1, ((AH 1)).ctFor, ca 0, 7, Reg.NS_ACCN_TARGET 7, 0, { k := 7, n := 0, req := hq, born := 3, issued := false, disable := false },
   by decide +kernel⟩

theorem test_RuledWritesJudged_6_2_2 :
    ∃ (v : State) (s : State) (a : CtAcc) (k : BitVec 8) (o : Nat), ∃ n, v.ctFor = s ∧ o = Reg.NS_ACCN_TARGET k.toNat
        ∧ s.ctTakesWrite o a =
    true ∧ n = ((s.sl.holds.filter fun h => h.k == k.toNat && h.issued).map (·.n)).foldl max 0 ∧ s.sl.fld (NS_ACCN_TARGET.EN k.toNat) = 1
    ∧ bitAt (ctMask a) 63 = true ∧ bitAt (ctWord a) 63 = false ∧ (s.sl.hold? k.toNat = none ∨ s.sl.accState k.toNat = AccSt.RELEASING) :=
  ⟨AR, (AR).ctFor, ca 0, 7, Reg.NS_ACCN_TARGET 7, 1, by decide +kernel⟩

theorem test_ServiceWritesAct_1 :
    ∃ (v : State) (s : State) (a : CtAcc), ∃ c, v.ctFor = s ∧ s.ctDoes a NS_DIR_RECLAIM.GO = true ∧ s.sl.calm = true ∧ c = (s.stored
    Reg.NS_DIR_RECLAIM a).fld NS_DIR_RECLAIM.CLUSTER :=
  ⟨t0, (t0).ctFor, ca 0x109, 9, by decide +kernel⟩

theorem test_ServiceWritesAct_2 :
    ∃ (v : State) (s : State) (a : CtAcc), ∃ x, v.ctFor = s ∧ s.ctDoes a NS_RC_CREDREL.GO = true ∧ s.sl.port.credits = [x]
        ∧ (s.sl.modPort fun
    p => { p with credits := [] }).calm = true ∧ x.reqid.toNat = (s.stored Reg.NS_RC_CREDREL a).fld NS_RC_CREDREL.REQID :=
  ⟨k1, (k1).ctFor, ca 0x199, ck, by decide +kernel⟩

theorem test_ServiceWritesAct_3 :
    ∃ (v : State) (s : State) (a : CtAcc) (u : Slice) (fw : Nat) (img : Nat), v.ctFor = s ∧ s.ctDoes a NS_FWIF.GO = true ∧ u = s.stored
    Reg.NS_FWIF a ∧ fw = u.fld NS_FWIF.FWMIN ∧ img = u.fld NS_FWIF.IMGMIN :=
  ⟨t0, (t0).ctFor, fw 3 2, fo t0 (fw 3 2), 2, 2, by decide +kernel⟩

theorem test_ServiceWritesAct_4 :
    ∃ (v : State) (s : State) (a : CtAcc), v.ctFor = s ∧ s.ctTakesWrite Reg.NS_RC_BLK a = true ∧ s.sl.ctSets a NS_RC_BLK.GO = false :=
  ⟨t0, (t0).ctFor, ca 2, by decide +kernel⟩

theorem test_ServiceWritesAct_5 :
    ∃ (v : State) (s : State) (a : CtAcc), v.ctFor = s ∧ s.ctDoes a NS_RC_BLK.GO = true :=
  ⟨D0, (D0).ctFor, ca 0x109, by decide +kernel⟩

theorem test_ServiceWritesAct_6 :
    ∃ (v : State) (s : State) (a : CtAcc), v.ctFor = s ∧ s.ctDoes a NS_RC_WB.GO = true :=
  ⟨D0, (D0).ctFor, ca 0x109, by decide +kernel⟩

theorem test_ServiceWritesAct_7 :
    ∃ (v : State) (s : State) (a : CtAcc) (l : LineAddr) (bay : Nat), v.ctFor = s ∧ s.ctDoes a NS_CH_MAPCTL.PREP = true ∧ s.sl.ctSets a
    NS_CH_MAPCTL.SAVE = false ∧ s.sl.calm = true ∧ s.sl.flag NS_CH_MAPCTL.BUSY = false ∧ s.sl.chanListed = false ∧ s.sl.mapList ≠ [] ∧
    s.sl.holdsWithdrawn = false ∧ s.sl.chanReady = true ∧ s.sl.fld NS_PORTSTAT.HCCRED = 1 ∧ l = s.sl.bayLine s.sl.ownStack (31 * 2 ^ 19)
    s.sl.ownChan ∧ s.sl.memTgt l = .chan bay :=
  ⟨M0, (M0).ctFor, ca 8, pl M0, bay M0, by decide +kernel⟩

theorem test_ServiceWritesAct_8 :
    ∃ (v : State) (s : State) (a : CtAcc), v.ctFor = s ∧ s.ctDoes a NS_CH_MAPCTL.SAVE = true ∧ s.sl.ctSets a NS_CH_MAPCTL.PREP = false ∧
    s.sl.calm = true ∧ s.sl.flag NS_CH_MAPCTL.BUSY = false ∧ s.sl.cstate = CState.LOST ∧ s.sl.chanListed = true ∧ (∀ p ∈ s.sl.mem.tags,
    s.sl.wayCode (p.1 / 8192) ≠ Use.L ∨ tagSV p.2 = 0) :=
  ⟨setF S0 NS_CH_STAT.CSTATE CState.LOST, ((setF S0 NS_CH_STAT.CSTATE CState.LOST)).ctFor, ca 16, by decide +kernel⟩

theorem test_RuledWritesJudged_6_2_2_free :
    ∃ (v : State) (s : State) (a : CtAcc) (k : BitVec 8) (o : Nat), ∃ n, v.ctFor = s ∧ o = Reg.NS_ACCN_TARGET k.toNat
        ∧ s.ctTakesWrite o a =
    true ∧ n = ((s.sl.holds.filter fun h => h.k == k.toNat && h.issued).map (·.n)).foldl max 0 ∧ s.sl.fld (NS_ACCN_TARGET.EN k.toNat) = 1
    ∧ bitAt (ctMask a) 63 = true ∧ bitAt (ctWord a) 63 = false ∧ (s.sl.hold? k.toNat = none ∨ s.sl.accState k.toNat = AccSt.RELEASING) :=
  ⟨setF t0 (NS_ACCN_TARGET.EN 7) 1, ((setF t0 (NS_ACCN_TARGET.EN 7) 1)).ctFor, ca 0, 7, Reg.NS_ACCN_TARGET 7, 0, by decide +kernel⟩

end Service

namespace Walks

def wk (s : State) (f : Walk → Walk) : State := { s with sl := s.sl.modWalk f }
def DW (l : Nat) (v w : Word) (m : Word) := let s := wk t0 (fun q => { q with drain := some (w.toNat, l) });
    { s with sl := ((s.sl.wr Reg.NS_WAYMAP m).setFld NS_WAYCHG.DRAIN 9).setTag w.toNat l v }
def WC := let s := wState [(Reg.NS_WAYMAP_NEXT, 0x30)]; { s with sl := ((s.sl.setFld NS_WAYCHG.BUSY 1).setFld NS_WAYCHG.DRAIN 2) }
def RC := let s := setF t0 NS_DIR_STAT.RECLBUSY 1; { s with sl := s.sl.modCoh fun q => { q with reclaim := some 9, reclCleared := 3,
                                                                                                reclPoisoned := 0x1234567 } }
def pe : PvEntry := { stamp := 0x1122334455667788, old := 2, new := 3, seq := 4, kind := 0, priv := 1, origin := 2, offset := 3 }
def SP := let s := setF (setF (setF (setF (setF (setF (vt t0) (NS_VT_REGION.BASE 3) 0x200) (NS_VT_REGION.LIMIT 3) 0x2FF) NS_PV_SPILL.EN 1) NS_PV_SPILL.BASE 0x201) NS_PV_SPILL.LIMIT 0x202) NS_PV_SPILLWP.WP 0x105; { s with prov := { s.prov with held := [pe, { pe with seq := 5 }] } }
def DG (tg i : Nat) := wk (setF (setF (setF t1 NS_DG_SEL.BUSY 1) NS_DG_SEL.TARGET tg) NS_DG_SEL.INDEX i) fun q => { q with diag := some 0 }
def BL (f : Fld) (v : Nat) := let s := setF t0 f v; { s with sl := s.sl.modMeas fun q => { q with quiet := 300 } }
def SF := setF WC NS_READY.SAFE 1

theorem test_WalksGoOn_1 :
    ∃ (s : State), s.sl.sys.sclkRuns = true ∧ (s.sl.modWalk fun q => { q with prep := none, diag := none }).calm = true ∧ s.sl.walk.prep = none ∧ s.sl.walk.diag = none
        ∧ s.sl.safe
    = true :=
  ⟨SF, by decide +kernel⟩

theorem test_WalksGoOn_2 :
    ∃ (s : State) (w : Nat) (n : Nat), s.sl.sys.sclkRuns = true ∧ (s.sl.modWalk fun q => { q with prep := none, diag := none }).calm = true
        ∧ s.sl.walk.prep = none ∧ s.sl.walk.diag = none ∧ s.sl.safe = false ∧ s.sl.walk.drain = some (w, n) ∧ s.sl.flag NS_RC_BLK.IDLEREQ = false ∧ w < 16 ∧ n < 8192 ∧ (s.sl.wayCode w
    = Use.V ∨ s.sl.wayCode w = Use.X ∨ (tagBUSY (s.sl.tag w n) = false ∧ (s.sl.wayCode w = Use.O ∨ (tagGRP (s.sl.tag w n) = false ∧ (tagSV
    (s.sl.tag w n) = 0 ∨ s.sl.wayCode w = Use.L ∧ tagSD (s.sl.tag w n) = 0 ∧ s.sl.mem.loanAt w n = 0))))) :=
  ⟨DW 7 (tagW 7 5 0) 0 0, 0, 7, by decide +kernel⟩

theorem test_WalksGoOn_3 :
    ∃ (s : State), s.sl.sys.sclkRuns = true ∧ (s.sl.modWalk fun q => { q with prep := none, diag := none }).calm = true ∧ s.sl.walk.prep = none ∧ s.sl.walk.diag = none
        ∧ s.sl.safe
    = false ∧ s.sl.flag NS_WAYCHG.BUSY = true ∧ s.sl.drained? = true :=
  ⟨WC, by decide +kernel⟩

theorem test_WalksGoOn_4 :
    ∃ (s : State), ∃ c, s.sl.sys.sclkRuns = true ∧ (s.sl.modWalk fun q => { q with prep := none, diag := none }).calm = true ∧ s.sl.walk.prep = none ∧ s.sl.walk.diag = none ∧
    s.sl.coh.reclaim = some c ∧ s.sl.flag NS_DIR_STAT.RECLBUSY = true ∧ s.sl.flag NS_RC_BLK.IDLEREQ = false ∧ s.sl.mem.dir = [] :=
  ⟨RC, 9, by decide +kernel⟩

theorem test_WalksGoOn_5 :
    ∃ (s : State), s.sl.sys.sclkRuns = true ∧ (s.sl.modWalk fun q => { q with prep := none, diag := none }).calm = true ∧ s.sl.walk.prep = none ∧ s.sl.walk.diag = none ∧
    s.sl.walk.wb = some true :=
  ⟨wk (setF t0 NS_RC_WB.BUSY 1) fun q => { q with wb := some true }, by decide +kernel⟩

theorem test_WalksGoOn_6 :
    ∃ (s : State), ∃ k, s.sl.sys.sclkRuns = true ∧ (s.sl.modWalk fun q => { q with prep := none, diag := none }).calm = true ∧ s.sl.walk.diag = none ∧ s.sl.walk.prep = some k ∧
    s.sl.prepTotal ≤ k ∧ s.sl.holdsWithdrawn = false :=
  ⟨wk (setF (setF t0 NS_CH_MAPCTL.BUSY 1) NS_CH_MAPLIST.COUNT 1) fun q => { q with prep := some (2^19) }, 2^19, by decide +kernel⟩

theorem test_WalksGoOn_7 :
    ∃ (s : State), s.sl.sys.sclkRuns = true ∧ (s.sl.modWalk fun q => { q with prep := none, diag := none }).calm = true ∧ s.sl.walk.prep = none ∧ s.sl.walk.diag = none ∧
    s.sl.walk.save = true ∧ s.sl.holdsWithdrawn = false ∧ s.sl.cstate = CState.MAPPING :=
  ⟨wk (setF (setF (setF t0 NS_CH_MAPCTL.BUSY 1) NS_CH_MAPLIST.COUNT 1) NS_CH_STAT.CSTATE CState.MAPPING) fun q => { q with save := true }, by decide +kernel⟩

theorem test_WalksGoOn_8 :
    ∃ (s : State), ∃ pos, s.sl.sys.sclkRuns = true ∧ (s.sl.modWalk fun q => { q with prep := none, diag := none }).calm = true ∧ s.sl.walk.prep = none ∧ s.sl.walk.diag = none ∧
    s.sl.fld NS_ECC_CTL.SCRUBINT ≠ 0 ∧ 3 ≤ s.sl.sys.released ∧ s.sl.flag NS_RC_BLK.IDLEREQ = false ∧ pos = s.sl.fld NS_ECC_STAT.SCRUBPOS ∧
    (List.range 8).all (fun e => !dirBroken (s.sl.mem.dirWord (pos % 8192) e 0) (s.sl.mem.dirWord (pos % 8192) e 1)) = true :=
  ⟨DW 7 (tagW 7 5 0) 0 0, 0, by decide +kernel⟩

theorem test_WalksGoOn_9_1 :
    ∃ (s : State) (e : PvEntry) (rest : List PvEntry) (o : Nat), s.sl.sys.sclkRuns = true ∧ (s.sl.modWalk fun q =>
    { q with prep := none, diag := none }).calm = true ∧ s.sl.walk.prep = none ∧ s.sl.walk.diag = none ∧ s.prov.held = e :: rest ∧ s.sl.spillMay = true ∧ o = s.sl.spillAt ∧
    s.sl.spillOk (s.sl.fld NS_PV_SPILL.BASE) (s.sl.fld NS_PV_SPILL.LIMIT) = false :=
  ⟨setF SP NS_PV_SPILL.LIMIT 0x100, pe, [{ pe with seq := 5 }], (setF SP NS_PV_SPILL.LIMIT 0x100).sl.spillAt, by decide +kernel⟩

theorem test_WalksGoOn_9_2 :
    ∃ (s : State) (e : PvEntry) (rest : List PvEntry) (o : Nat), s.sl.sys.sclkRuns = true ∧ (s.sl.modWalk fun q =>
    { q with prep := none, diag := none }).calm = true ∧ s.sl.walk.prep = none ∧ s.sl.walk.diag = none ∧ s.prov.held = e :: rest ∧ s.sl.spillMay = true ∧ o = s.sl.spillAt ∧
    s.sl.spillOk (s.sl.fld NS_PV_SPILL.BASE) (s.sl.fld NS_PV_SPILL.LIMIT) = true ∧ (s.sl.fld NS_PV_SPILLWP.WP + 2 ^ 32 - s.sl.fld
    NS_PV_SPILLRP.RP) % 2 ^ 32 < s.sl.spillSize ∧ s.sl.vtQuar (o / 128) = false ∧ s.sl.lineWaits (.vit (BitVec.ofNat 17 (o / 128))) =
    false :=
  ⟨setF SP NS_PV_SPILLRP.RP 0x100, pe, [{ pe with seq := 5 }], SP.sl.spillAt, by decide +kernel⟩

theorem test_WalksGoOn_10 :
    ∃ (s : State), ∃ since i, s.sl.sys.sclkRuns = true ∧ (s.sl.modWalk fun q => { q with prep := none, diag := none }).calm = true
        ∧ s.sl.walk.prep = none ∧
    s.sl.walk.diag = some since ∧ i < 16 :=
  ⟨DG 0 0, 0, 0, by decide +kernel⟩

theorem test_WalksGoOn_11 :
    ∃ (s : State), ∃ k, s.sl.sys.sclkRuns = true ∧ (s.sl.modWalk fun q => { q with prep := none, diag := none }).calm = true ∧ s.sl.balanceDue = true
        ∧ k <
    9 :=
  ⟨BL NS_BALANCE.VALID 0, 3, by decide +kernel⟩

end Walks

namespace Time

def hd (l : List Beat) : Beat := l.headD { dests := [], dd := none, status := 0, detail := 0, acklvl := 0, auxr := 0, part := 0,
                                           npart := 0, pz := 0, data := 0, trk := none, last := true, isData := false,
                                               job := t0.sl.bgJob .none, measured := false }
def W0 := let s := { t0 with sl := t0.sl.wr Reg.NS_CNT_CYCLE 0x5000 };
    { s with sl := ((s.sl.setFld (NS_REG_CLASS.TARGET 3) 100).setFld (NS_REG_BUDGET.OVERCNT 0) 7).modMeas fun q => { q with latSum := [0,0,0,160,0,0,0,0], latCnt := [0,0,0,2,0,0,0,0], overBud := 0x80 } }
def x0 := { t0 with sl := { t0.sl with holds := [{ k := 7, req := { q1 with slack := 4 }, born := 3, n := 0, issued := true,
                                                   disable := true }] } }
def xd (s : State) : Dest := (s.sl.openReqs.map (·.1)).headD (reqDest .rd q1 0)
def bs := nextOf (exec (.fence q1) t0)
def lw0 : LwMsg := { lwMsg .snpS 3 0 with flag := true }
def ob := { t0 with sl := t0.sl.modOut fun o => { o with outq := [{ msg := .lw lw0, job := t0.sl.bgJob .none }] } }
def bg := nextOf (exec (.serviceGrant .reply) bs)

theorem test_TimeAndGrants_1 :
    ∃ (s : State) (n : Nat) (mean : Nat) (tgt : Nat), s.sl.between = true ∧ s.sl.clocked = true ∧ s.sl.now % 4096 = 0 ∧ s.sl.meas.window ≠
    some s.sl.now ∧ n < 256 ∧ mean = (if s.sl.meas.latCnt.getD n 0 = 0 then 0 else min 0xFFFF (s.sl.meas.latSum.getD n 0 /
    s.sl.meas.latCnt.getD n 0)) ∧ tgt = s.sl.fld (NS_REG_CLASS.TARGET n) :=
  ⟨W0, 3, 80, 100, by decide +kernel⟩

theorem test_TimeAndGrants_2 :
    ∃ (s : State) (reqid : BitVec 8) (srcdie : BitVec 3) (tag : BitVec 12) (d : Dest) (k : Nat), s.sl.between = true
        ∧ s.sl.openReqs = [(d,
    k)] ∧ d.reqid = reqid ∧ d.srcdie = srcdie ∧ d.tag = tag ∧ k ≠ 0xFFF ∧ s.sl.sys.sclkRuns = true ∧ s.sl.slackLeft k d.born = 0 ∧
    s.sl.port.late.contains d = false ∧ d.cls < 8 :=
  ⟨x0, q1.reqid, q1.srcdie, q1.tag, xd x0, 4, by decide +kernel⟩

theorem test_TimeAndGrants_3 :
    ∃ (s : State), ∃ i b, s.sl.between = true ∧ s.sl.sys.sclkRuns = true
        ∧ s.sl.choose Point.reply.num (s.sl.port.beats.map fun b => (b.job,
    true)) = some i ∧ s.sl.port.beats[i]? = some b :=
  ⟨bs, 0, hd bs.sl.port.beats, by decide +kernel⟩

theorem test_TimeAndGrants_4 :
    ∃ (s : State) (it : OutItem) (w : LwMsg), s.sl.between = true ∧ s.sl.calm = true ∧ s.sl.sys.sclkRuns = true ∧ s.sl.out.outq = [it] ∧
    it.msg = .lw w ∧ s.sl.out.lwCred.getD w.name.cls 0 ≠ 0 :=
  ⟨ob, { msg := .lw lw0, job := t0.sl.bgJob .none }, lw0, by decide +kernel⟩

theorem test_TimeAndGrants_5_1 :
    ∃ (s : State), ∃ b, s.sl.between = true ∧ s.sl.calm = true ∧ s.sl.mqRdy = true ∧ s.sl.port.granted = [b] ∧ b.trk = none
        ∧ b.isData = false
    ∧ b.live s.gentab = b.dests ∧ b.dests ≠ [] ∧ s.sl.fld NS_PORTSTAT.MRCRED ≠ 0 :=
  ⟨bg, hd bg.sl.port.granted, by decide +kernel⟩

theorem test_TimeAndGrants_5_2 :
    ∃ (s : State), ∃ b, s.sl.between = true ∧ s.sl.calm = true ∧ s.sl.mqRdy = true ∧ s.sl.port.granted = [b] ∧ b.trk = none
        ∧ b.isData = false
    ∧ b.live s.gentab = [] ∧ b.dests ≠ [] ∧ s.sl.fld NS_PORTSTAT.MRCRED ≠ 0 :=
  ⟨{ bg with gentab := [(0, 3)] }, hd bg.sl.port.granted, by decide +kernel⟩

theorem test_TimeAndGrants_7 :
    ∃ (s : State) (regs : List (Nat × Word)) (b : Slice) (t : State) (k : Nat), s.sl.between = true ∧ b = { s.sl with regs := regs } ∧
    t = s.cycleBy regs ∧ s.sl.clocked = true ∧ s.sl.sys.frzEdge = none ∧ (∀ q ∈ s.sl.waitClaims, q.cls < 8) ∧ k < 7 :=
  ⟨W0, W0.sl.regs, _, _, 3, by decide +kernel, rfl, rfl, by decide +kernel⟩

end Time

namespace Clocks

def sy (s : State) (f : Sys → Sys) : State := { s with sl := s.sl.modSys f }
def SL := setF t0 NS_CLKCTL.SLEEP 1
def SLP := nextOf (exec .sleepEnter SL)
def C (n : Nat) := let s := setF t0 NS_CH_STAT.CSTATE n; { s with sl := s.sl.modChan fun c => { c with rtCycles := 5000 } }
def iss (e : Nat) (c : BitVec 12) (g : BitVec 8) (w : Why) : Issue := { entry := e, epoch := 0, op := .pxrd, ctx := c, gen := g,
                                                                        die := 0, line := 0, why := w, orphan := false, since := 0 }
def PU := { t0 with gentab := [(5, 1)], sl := t0.sl.modOut fun o => { o with issue := [iss 0 5 1 .incr, iss 1 5 2 .incr, iss 2 6 1 .incr,
                                                                                       iss 3 5 1 (.proxy 1), iss 7 5 0 .incr],
                                                                                           epochs := [(0, 6), (7, 7)] } }
def PD := nextOf (exec (.purge 5 2) PU)
def HG := let s := nextOf (exec (.rd { q1 with pa := 0x3000 * 128 }) t0); { s with sl := s.sl.modMeas fun q => { q with prog := [5000] } }
def hu (s : State) (k : HangKind) : HangUnit := (s.sl.hangUnits k).headD { born := 0, reqid := 0, ctx := 0, opc := 0 }
def OE := { t0 with sl := (t0.sl.wr Reg.NS_CNT_CYCLE 0x500000).modOut fun o => { o with issue := [{ iss 5 0 0 .incr with orphan := true }] } }
def HG2 := setF HG NS_RC_CTL.HANGEXP 0
def C2 (n : Nat) := let s := setF (setF t0 NS_CH_STAT.CSTATE n) NS_CH_CTL.RTMAXEXP 9;
    { s with sl := s.sl.modChan fun c => { c with rtCycles := 5000 } }

theorem test_ClockAndCapture_1 :
    ∃ (s : State), s.sl.between = true ∧ s.sl.sys.released ≠ 0 :=
  ⟨setF t0 NS_CLKCTL.SCLKDIV 2, by decide +kernel⟩

theorem test_ClockAndCapture_2 :
    ∃ (s : State) (c : Instr), s.sl.between = true ∧ ((c = .sleepEnter ∧ s.sl.sys.woken = false) ∨ (c = .resleep ∧ s.sl.sys.woken = true ∧
    4096 ≤ s.sl.meas.drowsy)) ∧ s.sl.clocked = true ∧ s.sl.flag NS_CLKCTL.SLEEP = true ∧ s.sl.sys.released = 6 ∧ s.sl.maySleep = true :=
  ⟨SL, .sleepEnter, by decide +kernel⟩

theorem test_ClockAndCapture_3 :
    ∃ (s : State), s.sl.between = true ∧ s.sl.sys.sclkRuns = false :=
  ⟨SLP, by decide +kernel⟩

theorem test_ClockAndCapture_4 :
    ∃ (s : State), s.sl.between = true ∧ s.sl.sys.sclkRuns = false ∧ s.sl.flag NS_PORTSTAT.LWRDY = true ∧ s.sl.coh.bridge = [] ∧
    s.sl.coh.portCred = [] :=
  ⟨SLP, by decide +kernel⟩

theorem test_ClockAndCapture_5 :
    ∃ (s : State), s.sl.between = true ∧ s.sl.sys.sclkRuns = false ∧ s.sl.sys.waking = true ∧ s.sl.chan.hcLate = none
        ∧ s.sl.calm = true :=
  ⟨nextOf (exec .wake SLP), by decide +kernel⟩

theorem test_ClockAndCapture_6 :
    ∃ (s : State), s.sl.between = true ∧ s.sl.sys.released ≠ 0 ∧ s.sl.sys.inReset = none ∧ s.sl.sys.frz = false :=
  ⟨setF t0 NS_CLKCTL.SCLKDIV 2, by decide +kernel⟩

theorem test_ClockAndCapture_7 :
    ∃ (s : State), ∃ n, s.sl.between = true ∧ s.sl.clocked = true ∧ s.sl.sys.frzEdge = some n ∧ (∀ q ∈ s.sl.waitClaims, q.cls < 8) :=
  ⟨sy t0 fun y => { y with frz := true, frzEdge := some 3 }, 3, by decide +kernel⟩

theorem test_ClockAndCapture_8 :
    ∃ (s : State), s.sl.between = true ∧ s.sl.sys.frz = true :=
  ⟨sy t0 fun y => { y with frz := true }, by decide +kernel⟩

theorem test_ChannelStateFollows_1 :
    ∃ (s : State) (c : Instr), ∃ v, s.sl.flag NS_PORTSTAT.MEMRDY = true ∧ s.sl.calm = true ∧ ((c = .retrainEnter
                                                                                               ∧ v = HcState.RETRAIN) ∨ (c =
    .channelNormal ∧ v = HcState.NORMAL) ∨ (c = .channelLost ∧ v = HcState.MAPPED_OUT)) ∧ s.sl.sys.sclkRuns = false :=
  ⟨SLP, .channelLost, HcState.MAPPED_OUT, by decide +kernel⟩

theorem test_ChannelStateFollows_2 :
    ∃ (s : State), s.sl.flag NS_PORTSTAT.MEMRDY = true ∧ s.sl.calm = true ∧ s.sl.sys.sclkRuns = true ∧ s.sl.cstate = CState.NORMAL :=
  ⟨t0, by decide +kernel⟩

theorem test_ChannelStateFollows_3 :
    ∃ (s : State), s.sl.flag NS_PORTSTAT.MEMRDY = true ∧ s.sl.calm = true ∧ s.sl.sys.sclkRuns = true ∧ s.sl.chanListed = false
        ∧ (s.sl.cstate
    = CState.INIT ∨ s.sl.cstate = CState.RETRAIN ∨ s.sl.cstate = CState.LOST) :=
  ⟨C 0, by decide +kernel⟩

theorem test_ChannelStateFollows_4 :
    ∃ (s : State), s.sl.flag NS_PORTSTAT.MEMRDY = true ∧ s.sl.calm = true ∧ s.sl.sys.sclkRuns = true ∧ (s.sl.cstate = CState.INIT ∨
    s.sl.cstate = CState.NORMAL ∨ s.sl.cstate = CState.RETRAIN) :=
  ⟨t0, by decide +kernel⟩

theorem test_ChannelStateFollows_5 :
    ∃ (s : State), s.sl.flag NS_PORTSTAT.MEMRDY = true ∧ s.sl.calm = true ∧ s.sl.cstate = CState.RETRAIN ∧ s.sl.chan.rtRaised = false
        ∧ 2 ^
    max 12 (s.sl.fld NS_CH_CTL.RTMAXEXP) ≤ s.sl.chan.rtCycles ∧ s.sl.sys.sclkRuns = true :=
  ⟨C2 2, by decide +kernel⟩

theorem test_PurgeAndHang_1 :
    ∃ (s : State) (v : State), s.sl.between = true ∧ v.msgFor = s ∧ s.sl.msgReady = true :=
  ⟨(t0).msgFor, t0, by decide +kernel⟩

theorem test_PurgeAndHang_2 :
    ∃ (s : State) (v : State) (k : Nat), s.sl.between = true ∧ v.msgFor = s ∧ s.sl.calm = true ∧ s.sl.msgReady = true
        ∧ s.sl.bulk.cmds = [] ∧
    s.sl.grps = [] ∧ s.sl.bulk.cpls = [] ∧ s.sl.out.outq = [] ∧ s.sl.holds = [] ∧ (s.sl.out.issue.map (·.entry)).Nodup ∧ k < 256 :=
  ⟨(PU).msgFor, PU, 3, by decide +kernel⟩

theorem test_PurgeAndHang_3 :
    ∃ (s : State), ∃ ctx gen, s.sl.between = true ∧ s.sl.walk.purge = some (ctx, gen)
        ∧ (s.sl.modWalk fun q => { q with purge := none }).calm
    = true ∧ s.sl.sys.sclkRuns = true ∧ s.sl.teardownRegions ctx = [] :=
  ⟨(PD).msgFor, 5, 2, by decide +kernel⟩

theorem test_PurgeAndHang_4 :
    ∃ (s : State) (kind : HangKind) (u : HangUnit) (us : List HangUnit) (k : Nat), s.sl.between = true ∧ k = HangKind.num kind ∧
    s.sl.hangLimit ≤ s.sl.meas.prog.getD k 0 ∧ bitAt s.sl.meas.hung k = false ∧ s.sl.hangUnits kind = u :: us ∧ (∀ v ∈ us, u.born ≤
    v.born) :=
  ⟨(HG2).msgFor, .read, hu HG2 .read, [], 0, by decide +kernel⟩

theorem test_PurgeAndHang_5 :
    ∃ (s : State) (entry : BitVec 9) (i : Issue), s.sl.between = true ∧ s.sl.calm = true ∧ s.sl.out.issue = [i] ∧ i.entry = entry.toNat ∧
    i.orphan = true ∧ s.sl.hangLimit ≤ s.sl.now - i.since ∧ s.sl.sys.sclkRuns = true :=
  ⟨(OE).msgFor, 5, { iss 5 0 0 .incr with orphan := true }, by decide +kernel⟩

theorem test_ClockAndCapture_7_last :
    ∃ (s : State), ∃ n, s.sl.between = true ∧ s.sl.clocked = true ∧ s.sl.sys.frzEdge = some n ∧ (∀ q ∈ s.sl.waitClaims, q.cls < 8) :=
  ⟨sy t0 fun y => { y with frz := true, frzEdge := some 1 }, 1, by decide +kernel⟩

theorem test_ClockAndCapture_4_wing :
    ∃ (s : State), s.sl.between = true ∧ s.sl.sys.sclkRuns = false ∧ s.sl.flag NS_PORTSTAT.LWRDY = true ∧ s.sl.coh.bridge = [] ∧
    s.sl.coh.portCred = [] :=
  ⟨SLP, by decide +kernel⟩

end Clocks

namespace Resets

def sy (s : State) (f : Sys → Sys) : State := { s with sl := s.sl.modSys f }
def RS := { t1 with gentab := [(3, 4)], sl := (setF (setF t1 NS_ID.LOCK 1) NS_CTL.IRQEN 1).sl.modOut fun o => { o with epochs := [(0, 6),
                                                                                                                                  (7, 7)] } }
def BR := sy (setF (setF t1 NS_RC_BLK.BUSY 1) NS_RC_BLK.IDLEREQ 1) fun y => { y with blockSince := some 0 }
def rel (s : State) (n : Nat) : State := sy s fun y => { y with released := n }
def T := otherTag (otherTag t1 3 7 (setQUAR (setBUSY (setGRP (tagW 7 3 3) true) true) true)) 2 7 (setBUSY (setGRP (tagW 7 3 3) true) true)
def T2 := { T with sl := T.sl.wr Reg.NS_WAYMAP 0x0000000000003300 }
def hl : LineAddr := BitVec.ofNat 45 (2^33 + 2^6)
def de : DirEnt := { state := 2, owner := 5, lastupd := 3, tag := hl, busy := true, sharers := 32 }
def RV := { t0 with sl := (((t0.sl.wr Reg.NS_CNT_CYCLE 0x12345000).wr Reg.NS_DIR_DEADMASK 0xFFFFFFDF).putEnt (setOf hl) 3 de).modCoh fun q => { q with recoverFrom := some 0, recover := [(hl, true)] } }

theorem test_ResetsLeave_1 :
    ∃ (s : State) (c : Instr) (lvl : Level), ∃ cause eff, ((c = .powerOnReset ∧ lvl = .por ∧ cause = 0) ∨ (c = .packageReset
                                                                                                           ∧ lvl = .pkg ∧
    cause = 1) ∨ (c = .computeReset ∧ lvl = .cmp ∧ cause = 2)) ∧ eff = Level.max lvl s.sl.sys.applied :=
  ⟨RS, .powerOnReset, .por, 0, .por, by decide +kernel⟩

theorem test_ResetsLeave_2 :
    ∃ (s : State), ∃ eff, s.sl.blockDue = true ∧ s.sl.quiescent = true ∧ s.sl.between = true ∧ eff = Level.max .cmp s.sl.sys.applied :=
  ⟨BR, .cmp, by decide +kernel⟩

theorem test_ResetsLeave_3 :
    ∃ (s : State), s.sl.between = true :=
  ⟨RS, by decide +kernel⟩

theorem test_ResetsLeave_4 :
    ∃ (s : State), s.sl.between = true :=
  ⟨RS, by decide +kernel⟩

theorem test_ResetsLeave_5 :
    ∃ off fs, regFields off = some fs :=
  ⟨0x80, (regFields 0x80).getD [], by decide +kernel⟩

theorem test_ReleaseSteps_1 :
    ∃ (s : State), s.sl.between = true ∧ s.sl.releases 1 = true :=
  ⟨rel t0 0, by decide +kernel⟩

theorem test_ReleaseSteps_2 :
    ∃ (s : State), s.sl.between = true ∧ s.sl.releases 2 = true ∧ Sparse.wf (fun _ => 0) s.sl.mem.tags = true ∧ s.sl.mem.bkchk = [] :=
  ⟨rel T2 1, by decide +kernel⟩

theorem test_ReleaseSteps_3 :
    ∃ (s : State), s.sl.between = true ∧ s.sl.releases 3 = true :=
  ⟨rel t0 2, by decide +kernel⟩

theorem test_ReleaseSteps_4 :
    ∃ (s : State), s.sl.between = true ∧ s.sl.releases 4 = true :=
  ⟨rel t0 3, by decide +kernel⟩

theorem test_ReleaseSteps_5 :
    ∃ (s : State) (ok : Bool), s.sl.between = true ∧ s.sl.releases 5 = true ∧ s.sl.calm = true ∧ s.sl.sys.reinv = [] ∧ ok = (s.sl.fld
    NS_FWIF.RESULT == 1 || s.sl.fld NS_FWIF.RESULT == 2) :=
  ⟨rel t0 4, false, by decide +kernel⟩

theorem test_ReleaseSteps_6 :
    ∃ (s : State), s.sl.between = true ∧ s.sl.releases 6 = true :=
  ⟨rel (setF t0 NS_FWIF.RESULT 2) 5, by decide +kernel⟩

theorem test_ReleaseSteps_7 :
    ∃ (s : State) (l : LineAddr) (x : Bool) (c : Nat) (k : Nat) (e : Nat) (d : DirEnt), s.sl.between = true
        ∧ s.sl.coh.recoverFrom = some c ∧
    c + s.sl.snpTimeout ≤ s.sl.now ∧ s.sl.coh.recover = [(l, x)] ∧ (s.sl.modCoh fun q => { q with recover := [] }).calm = true ∧
    s.sl.findEnt l = some (e, d) ∧ ((List.range 32).filter fun j => !s.sl.dead j) = [k] ∧ s.sl.canSendLW 1 = true :=
  ⟨RV, hl, true, 0, 5, 3, de, by decide +kernel⟩

end Resets

end Sys2Proof.Tests
end

/-! SUPPORT. Completion records: what the event of a due record does to a calm slice, with the rules it stands on (frames of register
fields, events that leave a calm slice still, requests that leave at once on MO). -/

namespace Sys2Proof.Machine

/-! ### Registers under a frame of fields -/

/-- Slices with the same registers keep every field. -/
theorem Slice.keepsFields_of_rd {s t : Slice} (fs : List Fld) (h : ∀ off, t.rd off = s.rd off) : s.keepsFields t fs :=
  fun off i _ => by rw [h off]

/-- Setting one of the fields of a frame stays inside it. -/
theorem Slice.keepsFields.setFld {s t : Slice} {fs : List Fld} (h : s.keepsFields t fs) {f : Fld} (hf : f ∈ fs) (n : Nat) :
    s.keepsFields (t.setFld f n) fs := by
  intro off i hi
  rw [← h off i hi, Slice.rd_setFld]
  split
  · next ho =>
    subst ho
    exact bitAt_setBits_other _ n (hi f hf rfl)
  · rfl

/-- Two changes one after the other change the fields of both. -/
theorem Slice.keepsFields.append {s t u : Slice} {fs gs : List Fld} (h : s.keepsFields t fs) (k : t.keepsFields u gs) :
    s.keepsFields u (gs ++ fs) := fun off i hi =>
  (k off i fun f hf => hi f (List.mem_append_left _ hf)).trans (h off i fun f hf => hi f (List.mem_append_right _ hf))

/-- A register that holds none of the changed fields keeps its word. -/
theorem Slice.keepsFields.rd_eq {s t : Slice} {fs : List Fld} (h : s.keepsFields t fs) {off : Nat} (ho : ∀ f ∈ fs, f.off ≠ off) :
    t.rd off = s.rd off :=
  BitVec.eq_of_getLsbD_eq fun i _ => h off i fun f hf he => absurd he (ho f hf)

/-- A field in a register that holds none of the changed fields keeps its value. -/
theorem Slice.keepsFields.fld_eq {s t : Slice} {fs : List Fld} (h : s.keepsFields t fs) {g : Fld} (hg : ∀ f ∈ fs, f.off ≠ g.off) :
    t.fld g = s.fld g := Slice.fld_congr g (h.rd_eq hg)

/-- A field that was set to 1 is raised. -/
theorem Slice.flag_setFld_one (s : Slice) {f : Fld} (h : f.fits) (hw : f.w = 1) : (s.setFld f 1).flag f = true := by
  unfold Slice.flag
  rw [Slice.fld_setFld s 1 h, hw]
  rfl

theorem Slice.flag_setFld_other (s : Slice) {f g : Fld} (n : Nat) (h : f.apart g) : (s.setFld f n).flag g = s.flag g := by
  unfold Slice.flag
  rw [Slice.fld_setFld_other s n h]

/-! ### An event of the slice's own -/

/-- Where the effect of an event leaves the slice between two steps, the slice is that, and the log holds the event's entries. -/
theorem State.run_loggedOwn (s : State) {f : List (Nat × BitVec 8) → Slice → Slice} {u : Slice} (hu : f s.gentab s.sl = u)
    (hb : u.between = true) : ∃ t, s.run f = .next t ∧ s.loggedOwn t ∧ t.sl = u := by
  unfold Slice.between at hb
  simp only [Bool.and_eq_true, Bool.not_eq_true'] at hb
  obtain ⟨hfail, hcap⟩ := hb
  subst hu
  refine ⟨_, State.run_eq s f, ?_⟩
  rw [State.effect_of ({ s with turn := Turn.own } : State) f hfail hcap]
  exact ⟨⟨by simp, by simp, by simp, rfl⟩, rfl⟩

/-! ### What settling a calm slice looks at -/

/-- What calm says of the parts that a bulk event may meet. -/
theorem Slice.calm_parts {s : Slice} (h : s.calm = true) :
    s.still = true ∧ s.port.trks = [] ∧ s.port.invs = [] ∧ s.between = true := by
  unfold Slice.calm at h
  simp only [Bool.and_eq_true, List.isEmpty_iff] at h
  obtain ⟨⟨⟨⟨⟨⟨⟨⟨⟨⟨hstill, htrks⟩, -⟩, -⟩, hinvs⟩, -⟩, -⟩, -⟩, -⟩, -⟩, hbtw⟩ := h
  exact ⟨hstill, htrks, hinvs, hbtw⟩

/-- The registers that decide what can move: the use of the ways, safe mode, and the states of groups. -/
def restReg (off : Nat) : Prop :=
  off = Reg.NS_WAYMAP ∨ off = Reg.NS_WAYCHG ∨ off = Reg.NS_READY ∨ off = Reg.NS_BLK_PROG ∨ ∃ n, off = Reg.NS_GRPSTAT n

/-- Two slices that agree in everything but the bulk engine, what has left, measurements, counts of grants and registers that decide no
move. -/
structure Slice.restsAs (s t : Slice) : Prop where
  same : t = { s with regs := t.regs, bulk := t.bulk, out := t.out, meas := t.meas, port := { s.port with grants := t.port.grants } }
  bridge : t.out.bridgeOut = s.out.bridgeOut
  reg : ∀ off, restReg off → t.rd off = s.rd off

theorem Slice.restsAs.lookup_eq {s t : Slice} (h : s.restsAs t) (use : Nat) (l : LineAddr) : t.lookup use l = s.lookup use l := by
  have hmap : t.rd Reg.NS_WAYMAP = s.rd Reg.NS_WAYMAP := h.reg _ (.inl rfl)
  have hsafe : t.safe = s.safe := Slice.flag_congr _ (h.reg _ (.inr (.inr (.inl rfl))))
  have hways : t.waysOf use = s.waysOf use := by unfold Slice.waysOf Slice.wayCode; rw [hmap]
  unfold Slice.lookup
  rw [hsafe, hways, h.same]
  rfl

theorem Slice.restsAs.loansCalled_eq {s t : Slice} (h : s.restsAs t) (l : LineAddr) : t.loansCalled l = s.loansCalled l := by
  unfold Slice.loansCalled
  rw [h.lookup_eq, h.same]
  rfl

theorem Slice.restsAs.grpCalled_eq {s t : Slice} (h : s.restsAs t) (p : Grp) : t.grpCalled p = s.grpCalled p := by
  have hstate : t.grpState p.num = s.grpState p.num := Slice.fld_congr _ (h.reg _ (.inr (.inr (.inr (.inr ⟨_, rfl⟩)))))
  have hbusy : t.grpBusy p.num = s.grpBusy p.num := by rw [h.same]; rfl
  unfold Slice.grpCalled
  rw [hstate, hbusy, funext h.loansCalled_eq]

theorem Slice.restsAs.bulkTotal_eq {s t : Slice} (h : s.restsAs t) (d : List Word) : t.bulkTotal d = s.bulkTotal d := by
  have hmap : t.rd Reg.NS_WAYMAP = s.rd Reg.NS_WAYMAP := h.reg _ (.inl rfl)
  have hchg : t.rd Reg.NS_WAYCHG = s.rd Reg.NS_WAYCHG := h.reg _ (.inr (.inl rfl))
  unfold Slice.bulkTotal Slice.vWays Slice.isV Slice.wayCode Slice.draining
  rw [hmap, hchg]

/-- A slice that rests as a calm one is still, where NS_BLK_PROG shows the bytes done and no bulk command is over. -/
theorem Slice.restsAs.still {s t : Slice} (h : s.restsAs t) (hs : s.calm = true) (hp : t.progKept = true)
    (hc : ∀ c ∈ t.bulk.cmds, t.cmdEnd c = none) : t.still = true := by
  obtain ⟨hstill, htrks, -, -⟩ := Slice.calm_parts hs
  have hcmds : t.bulk.cmds.all (fun c => (t.cmdEnd c).isNone) = true := by simpa using hc
  have htrk : t.port.trks = [] := by rw [h.same]; exact htrks
  unfold Slice.still at hstill ⊢
  rw [hp, hcmds, htrk, h.bridge, funext h.grpCalled_eq, h.same]
  simp only [Bool.and_eq_true] at hstill ⊢
  simp [hstill]

/-! ### Completion records and the command table -/

/-- A command is over in both slices or in neither, where its record is due in both or in neither. -/
theorem Slice.restsAs.cmdEnd_eq {s t : Slice} (h : s.restsAs t) (hs : s.calm = true) {c : Cmd}
    (hr : t.bulk.cpls.any (fun r => r.cmd == some c.id) = s.bulk.cpls.any (fun r => r.cmd == some c.id)) : t.cmdEnd c = s.cmdEnd c := by
  obtain ⟨-, -, hinvs, -⟩ := Slice.calm_parts hs
  have himage : ∀ u : Slice, u.port.invs = [] → u.imageInv c = false := by
    intro u hu
    simp [Slice.imageInv, Slice.imageInvs, hu]
  have hout : t.bulkOut c = s.bulkOut c := by rw [h.same]; rfl
  unfold Slice.cmdEnd
  rw [hr, hout, himage s hinvs, himage t (by rw [h.same]; exact hinvs), h.bulkTotal_eq]

/-- A calm slice stays still when commands leave the table and records change, if each command that is left has its record as before. -/
theorem Slice.restsAs.still_of_cmds {s t : Slice} (h : s.restsAs t) (hs : s.calm = true) (hshown : t.bulk.shown = s.bulk.shown)
    (hcmd : ∀ id c, t.cmd? id = some c → s.cmd? id = some c)
    (hcpl : ∀ c ∈ t.bulk.cmds, c ∈ s.bulk.cmds ∧
      t.bulk.cpls.any (fun r => r.cmd == some c.id) = s.bulk.cpls.any (fun r => r.cmd == some c.id)) : t.still = true := by
  obtain ⟨hstill, -, -, -⟩ := Slice.calm_parts hs
  unfold Slice.still at hstill
  simp only [Bool.and_eq_true] at hstill
  obtain ⟨⟨⟨-, hprog⟩, hends⟩, -⟩ := hstill
  refine h.still hs ?_ fun c hc => ?_
  · have hfld : t.fld NS_BLK_PROG.PROGRESS = s.fld NS_BLK_PROG.PROGRESS :=
      Slice.fld_congr _ (h.reg _ (.inr (.inr (.inr (.inl rfl)))))
    have hbytes : ∀ c, t.bulkBytes c = s.bulkBytes c := fun c => by rw [h.same]; rfl
    unfold Slice.progKept at hprog ⊢
    rw [hshown]
    cases hsh : s.bulk.shown with
    | none => rfl
    | some id =>
      rw [hsh] at hprog
      simp only [Option.bind_some] at hprog ⊢
      cases ht : t.cmd? id with
      | none => rfl
      | some c =>
        rw [hcmd id c ht] at hprog
        simpa only [hfld, hbytes] using hprog
  · obtain ⟨hmem, hany⟩ := hcpl c hc
    rw [h.cmdEnd_eq hs hany]
    simpa using List.all_eq_true.mp hends c hmem

/-- A change of the first element that matches which keeps a property keeps whether any element has it. -/
theorem any_replaceFirst {α : Type} (p q : α → Bool) (f : α → α) (h : ∀ x, q (f x) = q x) (l : List α) :
    (replaceFirst p f l).any q = l.any q := by
  induction l with
  | nil => rfl
  | cons x xs ih =>
    unfold replaceFirst
    split <;> simp [h, ih]

/-- The element that alone carries its key is found by its key. -/
theorem find?_key {α : Type} (key : α → Nat) {l : List α} {r : α} (hr : r ∈ l) (hu : ∀ q ∈ l, key q = key r → q = r) :
    l.find? (fun q => key q == key r) = some r := by
  cases hf : l.find? (fun q => key q == key r) with
  | none => exact absurd (List.find?_eq_none.mp hf r hr) (by simp)
  | some q => rw [hu q (List.mem_of_find?_eq_some hf) (by simpa using List.find?_some hf)]

/-! ### A record that is dropped -/

/-- The record is due no longer, and its command's slot is free. -/
def Slice.withoutRecord (s : Slice) (r : Cpl) : Slice := s.modBulk fun b => { b with
  cpls := b.cpls.filter (fun q => q.id != r.id), cmds := b.cmds.filter (fun c => some c.id != r.cmd) }

/-- The interrupt of page 0 that a record raises (R174, R310). -/
def Cpl.irqFld (r : Cpl) : Fld := if r.group.isSome = true then NS_IRQ_STAT.GROUP else NS_IRQ_STAT.BULK

/-- What a record raises when its descriptor asks for it. -/
def Slice.raiseRecord (s : Slice) (r : Cpl) : Slice := if r.irq then (s.setFld NS_BLK_STAT.CPLIRQ 1).irqSet r.irqFld else s

/-- A record with an address whose page faults is noted in NS_BLK_CPLERR (R192). -/
def Slice.noteFault (s : Slice) (r : Cpl) : Slice :=
  if r.cpladdr = 0 then s
  else ((s.setFld NS_BLK_CPLERR.TAG r.tag).setFld NS_BLK_CPLERR.STATUS r.status).bump NS_BLK_CPLERR.COUNT 1

/-- The slice once a record has been dropped. -/
def Slice.dropRecord (s : Slice) (r : Cpl) : Slice := ((s.noteFault r).withoutRecord r).raiseRecord r

/-- The fields that raising a record changes. -/
def Cpl.irqFlds (r : Cpl) : List Fld := if r.irq = true then [NS_BLK_STAT.CPLIRQ, r.irqFld] else []

/-- The fields that noting a record changes. -/
def Cpl.errFlds (r : Cpl) : List Fld :=
  if r.cpladdr ≠ 0 then [NS_BLK_CPLERR.TAG, NS_BLK_CPLERR.STATUS, NS_BLK_CPLERR.COUNT] else []

theorem Slice.recordDone_of {s : Slice} {r : Cpl} (h : s.bulk.cpls.find? (fun q => q.id == r.id) = some r) :
    s.recordDone r.id = (s.withoutRecord r).raiseRecord r := by
  unfold Slice.recordDone
  rw [h]
  rfl

/-- The next record, without an address or with a page that faults, is dropped. -/
theorem Slice.writeRecord_drop {s : Slice} {r : Cpl} {cpl : Option (BitVec 52)} (g : List (Nat × BitVec 8))
    (hrun : s.sys.sclkRuns = true) (hnext : s.bulk.cpls.find? (fun r => !r.sent && r.waits.all (fun l => s.invDue l == 0)) = some r)
    (hid : ∀ q ∈ s.bulk.cpls, q.id = r.id → q = r) (hdrop : r.cpladdr = 0 ∨ cpl = none) :
    s.writeRecord g cpl = s.dropRecord r := by
  have hfind : s.bulk.cpls.find? (fun q => q.id == r.id) = some r := find?_key Cpl.id (List.mem_of_find?_eq_some hnext) hid
  unfold Slice.writeRecord Slice.dropRecord Slice.noteFault
  rw [hnext]
  simp only [hrun, Bool.not_true, Bool.false_eq_true, if_false]
  by_cases ha : r.cpladdr = 0
  · rw [if_pos ha, if_pos ha, Slice.recordDone_of hfind]
  · obtain rfl := hdrop.resolve_left ha
    rw [if_neg ha, if_neg ha]
    exact Slice.recordDone_of hfind

theorem Slice.noteFault_keeps (s : Slice) (r : Cpl) : s.keepsFields (s.noteFault r) r.errFlds := by
  unfold Slice.noteFault Cpl.errFlds
  by_cases ha : r.cpladdr = 0
  · rw [if_pos ha]
    exact Slice.keepsFields_of_rd _ fun _ => rfl
  · rw [if_neg ha, if_pos ha]
    have h0 := Slice.keepsFields_of_rd [NS_BLK_CPLERR.TAG, NS_BLK_CPLERR.STATUS, NS_BLK_CPLERR.COUNT] fun off => Eq.refl (s.rd off)
    exact ((h0.setFld (by simp) _).setFld (by simp) _).setFld (by simp) _

theorem Slice.raiseRecord_keeps (s : Slice) (r : Cpl) : s.keepsFields (s.raiseRecord r) r.irqFlds := by
  unfold Slice.raiseRecord Cpl.irqFlds
  cases r.irq
  · exact Slice.keepsFields_of_rd _ fun _ => rfl
  · have h0 := Slice.keepsFields_of_rd [NS_BLK_STAT.CPLIRQ, r.irqFld] fun off => Eq.refl (s.rd off)
    exact (h0.setFld (by simp) 1).setFld (by simp) 1

theorem Cpl.irqFld_off (r : Cpl) : r.irqFld.off = 0x0100 := by unfold Cpl.irqFld; split <;> rfl

theorem Cpl.irqFlds_off {r : Cpl} {f : Fld} (h : f ∈ r.irqFlds) : f.off = Reg.NS_BLK_STAT ∨ f.off = Reg.NS_IRQ_STAT := by
  unfold Cpl.irqFlds at h
  split at h
  · rcases List.mem_pair.mp h with rfl | rfl
    · exact .inl rfl
    · exact .inr r.irqFld_off
  · exact absurd h List.not_mem_nil

theorem Cpl.errFlds_off {r : Cpl} {f : Fld} (h : f ∈ r.errFlds) : f.off = Reg.NS_BLK_CPLERR := by
  unfold Cpl.errFlds at h
  split at h
  · simp only [List.mem_cons, List.not_mem_nil, or_false] at h
    rcases h with rfl | rfl | rfl <;> rfl
  · exact absurd h List.not_mem_nil

/-- Dropping a record changes the bulk engine and registers only. -/
theorem Slice.dropRecord_eq (s : Slice) (r : Cpl) :
    s.dropRecord r = { s with regs := (s.dropRecord r).regs, meas := (s.dropRecord r).meas, bulk := (s.withoutRecord r).bulk } := by
  unfold Slice.dropRecord Slice.raiseRecord Slice.noteFault
  split <;> split <;> rfl

theorem Slice.dropRecord_keeps (s : Slice) (r : Cpl) : s.keepsFields (s.dropRecord r) (r.irqFlds ++ r.errFlds) :=
  (s.noteFault_keeps r).append (((s.noteFault r).withoutRecord r).raiseRecord_keeps r)

/-- The registers that report on records and on credits decide no move. -/
theorem reportReg_ne_restReg {a b : Nat}
    (ha : a = Reg.NS_BLK_STAT ∨ a = Reg.NS_IRQ_STAT ∨ a = Reg.NS_BLK_CPLERR ∨ a = Reg.NS_PORTSTAT) (hb : restReg b) : a ≠ b := by
  simp only [restReg, Reg.NS_WAYMAP, Reg.NS_WAYCHG, Reg.NS_READY, Reg.NS_BLK_PROG, Reg.NS_GRPSTAT] at hb
  simp only [Reg.NS_BLK_STAT, Reg.NS_IRQ_STAT, Reg.NS_BLK_CPLERR, Reg.NS_PORTSTAT] at ha
  omega

theorem Slice.dropRecord_restReg (s : Slice) (r : Cpl) {off : Nat} (h : restReg off) : (s.dropRecord r).rd off = s.rd off := by
  refine (s.dropRecord_keeps r).rd_eq fun f hf => ?_
  have hoff : f.off = Reg.NS_BLK_STAT ∨ f.off = Reg.NS_IRQ_STAT ∨ f.off = Reg.NS_BLK_CPLERR := by
    rcases List.mem_append.mp hf with h | h
    · exact (Cpl.irqFlds_off h).imp_right .inl
    · exact .inr (.inr (Cpl.errFlds_off h))
  exact reportReg_ne_restReg (by tauto) h

theorem Slice.dropRecord_raises (s : Slice) {r : Cpl} (h : r.irq = true) :
    (s.dropRecord r).flag NS_BLK_STAT.CPLIRQ = true ∧ (s.dropRecord r).flag r.irqFld = true := by
  unfold Slice.dropRecord Slice.raiseRecord Slice.irqSet
  rw [if_pos h]
  refine ⟨?_, ?_⟩
  · rw [Slice.flag_setFld_other _ _ (.inl (by rw [r.irqFld_off]; decide))]
    exact Slice.flag_setFld_one _ (by decide) rfl
  · obtain ⟨hfits, hw⟩ : r.irqFld.fits ∧ r.irqFld.w = 1 := by unfold Cpl.irqFld; split <;> decide
    exact Slice.flag_setFld_one _ hfits hw

theorem Slice.dropRecord_notes (s : Slice) {r : Cpl} (h : r.cpladdr ≠ 0) :
    (s.dropRecord r).fld NS_BLK_CPLERR.TAG = r.tag % 2 ^ 16 ∧ (s.dropRecord r).fld NS_BLK_CPLERR.STATUS = r.status % 2 ^ 8 ∧
      (s.dropRecord r).fld NS_BLK_CPLERR.COUNT = min (2 ^ NS_BLK_CPLERR.COUNT.w - 1) (s.fld NS_BLK_CPLERR.COUNT + 1) := by
  have hraise : ∀ g : Fld, g.off = Reg.NS_BLK_CPLERR → (s.dropRecord r).fld g = (s.noteFault r).fld g := fun g hg =>
    (((s.noteFault r).withoutRecord r).raiseRecord_keeps r).fld_eq fun f hf => by
      rw [hg]
      rcases Cpl.irqFlds_off hf with h | h <;> rw [h] <;> decide
  rw [hraise _ rfl, hraise _ rfl, hraise _ rfl]
  unfold Slice.noteFault
  rw [if_neg h]
  refine ⟨?_, ?_, ?_⟩
  · rw [Slice.fld_bump_other _ _ (by decide), Slice.fld_setFld_other _ _ (by decide), Slice.fld_setFld _ _ (by decide)]
  · rw [Slice.fld_bump_other _ _ (by decide), Slice.fld_setFld _ _ (by decide)]
  · rw [Slice.fld_bump _ _ (by decide), Slice.fld_setFld_other _ _ (by decide), Slice.fld_setFld_other _ _ (by decide)]

/-- A command that keeps its slot is found as before. -/
theorem Slice.withoutRecord_cmd? {s : Slice} {r : Cpl} {id : Nat} {c : Cmd} (h : (s.withoutRecord r).cmd? id = some c) :
    s.cmd? id = some c := by
  have hne : (some id != r.cmd) = true := by
    rw [← show c.id = id by simpa using List.find?_some h]
    exact (List.mem_filter.mp (List.mem_of_find?_eq_some h)).2
  rw [← h]
  show _ = (s.bulk.cmds.filter _).find? _
  rw [List.find?_filter]
  unfold Slice.cmd?
  congr 1
  funext a
  by_cases ha : a.id = id
  · simp [ha, hne]
  · simp [ha]

/-- A command that keeps its slot has a record due as before: the one that is gone was another's. -/
theorem Slice.withoutRecord_due {s : Slice} {r : Cpl} (hid : ∀ q ∈ s.bulk.cpls, q.id = r.id → q = r) {c : Cmd}
    (hc : c ∈ (s.withoutRecord r).bulk.cmds) : c ∈ s.bulk.cmds ∧
      (s.withoutRecord r).bulk.cpls.any (fun q => q.cmd == some c.id) = s.bulk.cpls.any (fun q => q.cmd == some c.id) := by
  obtain ⟨hmem, hne⟩ := List.mem_filter.mp hc
  refine ⟨hmem, ?_⟩
  show (s.bulk.cpls.filter _).any _ = _
  rw [List.any_filter, Bool.eq_iff_iff, List.any_eq_true, List.any_eq_true]
  refine exists_congr fun q => and_congr_right fun hq => ?_
  by_cases hqr : q.id = r.id
  · obtain rfl := hid q hq hqr
    have hcmd : q.cmd ≠ some c.id := fun h => by simp [h] at hne
    simp [hcmd]
  · simp [hqr]

/-- A calm slice is still once a record has been dropped with its command. -/
theorem Slice.dropRecord_still {s : Slice} {r : Cpl} (hs : s.calm = true) (hid : ∀ q ∈ s.bulk.cpls, q.id = r.id → q = r) :
    (s.dropRecord r).still = true := by
  have hbulk : (s.dropRecord r).bulk = (s.withoutRecord r).bulk := by rw [Slice.dropRecord_eq]
  have hcmd : ∀ id, (s.dropRecord r).cmd? id = (s.withoutRecord r).cmd? id := fun _ => by unfold Slice.cmd?; rw [hbulk]
  have hrest : s.restsAs (s.dropRecord r) := ⟨by rw [Slice.dropRecord_eq], by rw [Slice.dropRecord_eq], fun _ => s.dropRecord_restReg r⟩
  refine hrest.still_of_cmds hs (by rw [hbulk]; rfl) (fun id c hc => ?_) fun c hc => ?_
  · exact Slice.withoutRecord_cmd? (hcmd id ▸ hc)
  · rw [hbulk] at hc ⊢
    exact Slice.withoutRecord_due hid hc

/-! ### A record that is written -/

/-- Work without slack is never urgent (R490). -/
theorem Slice.urgentBy_free (s : Slice) {j : Job} (hs : j.slack = 0xFFF) (ho : j.others = []) : s.urgentBy j = none := by
  unfold Slice.urgentBy Job.claims Slice.claimGone
  simp [hs, ho]

/-- The slice once a request has left on MO under the issue entry `e`: with its tag, its remaining slack and a cause for each poisoned
sector. -/
def Slice.sentOn (s : Slice) (q : OReq) (j : Job) (e : Nat) : Slice :=
  let ep := s.out.epochOf e
  let r := { q.req with tag := BitVec.ofNat 12 (ep.toNat * 512 + e), slack := BitVec.ofNat 12 (s.slackLeft q.req.slack.toNat j.born),
                        pcause := reqCauses q.req.pois q.req.pcause }
  let i : Issue := { entry := e, epoch := ep, op := q.op, ctx := r.ctx, gen := r.gen, die := q.die, line := r.line, why := q.why,
                     orphan := false, since := s.now, acks := q.tiles }
  ((s.spend .mo).modOut fun o => { o with issue := o.issue ++ [i], sentReq := o.sentReq ++ [{ q with req := r }] }).granted
    Point.outbound.num

/-- What can be sent at once on MO leaves at once (R475, R528, R620). -/
theorem Slice.emit_req {s : Slice} (g : List (Nat × BitVec 8)) {q : OReq} {j : Job} (h : s.canIssueReq = true) (hd : q.dd = false)
    (hw : q.why ≠ .incr) (hs : j.slack = 0xFFF) (ho : j.others = []) :
    ∃ e, s.out.freeEntry = some e ∧ s.emit g (.req q) j = s.sentOn q j e := by
  unfold Slice.canIssueReq at h
  simp only [Bool.and_eq_true, List.isEmpty_iff, bne_iff_ne, Option.isSome_iff_exists] at h
  obtain ⟨⟨⟨hrun, hq⟩, hcred⟩, e, he⟩ := h
  refine ⟨e, he, ?_⟩
  have hlook : s.lookBy s { j with lane := OutMsg.lane (.req q) } = (s, { j with lane := OutMsg.lane (.req q) }) := by
    unfold Slice.lookBy
    rw [s.urgentBy_free (j := { j with lane := OutMsg.lane (.req q) }) hs ho]
  have hcan : s.canSend (.req q) = true := by
    simp [Slice.canSend, OutMsg.pool, hd, Slice.creditsOf, hrun, he, Nat.pos_of_ne_zero hcred]
  have hnext : s.nextOut = none := by
    unfold Slice.nextOut
    rw [hq]
    rfl
  unfold Slice.emit
  rw [hlook]
  simp only [hcan, hnext, hq, Option.isNone_none, List.any_nil, Bool.not_false, Bool.and_self, if_true]
  unfold Slice.sendOut Slice.sentOn
  -- `hw` rules out the one kind of request whose leaving is counted in another register (INCSENT)
  simp only [he, OutMsg.pool, hd, Bool.false_eq_true, if_false]

/-- The request that has left differs from the one that was sent in its tag, its slack and its causes only. -/
theorem Slice.sentOn_sendsReq {s : Slice} {q : OReq} {j : Job} {e : Nat} (he : s.out.freeEntry = some e) :
    s.sendsReq (s.sentOn q j e) fun p =>
      p = { q with req := { q.req with tag := p.req.tag, slack := p.req.slack, pcause := p.req.pcause } } :=
  ⟨_, _, rfl, he, rfl, rfl, rfl, rfl, rfl, rfl, rfl, rfl⟩

theorem Slice.sentOn_fld (s : Slice) (q : OReq) (j : Job) (e : Nat) (h : s.canIssueReq = true) :
    (s.sentOn q j e).fld NS_PORTSTAT.MOCRED + 1 = s.fld NS_PORTSTAT.MOCRED := by
  unfold Slice.canIssueReq at h
  simp only [Bool.and_eq_true, bne_iff_ne] at h
  obtain ⟨⟨-, hcred⟩, -⟩ := h
  have hlt := s.fld_lt NS_PORTSTAT.MOCRED
  have hset : (s.sentOn q j e).fld NS_PORTSTAT.MOCRED = (s.fld NS_PORTSTAT.MOCRED - 1) % 2 ^ NS_PORTSTAT.MOCRED.w :=
    s.stir.fld_setFld _ (by decide)
  rw [hset, Nat.mod_eq_of_lt (by omega)]
  omega

theorem Slice.sentOn_keeps (s : Slice) (q : OReq) (j : Job) (e : Nat) : s.keepsFields (s.sentOn q j e) [NS_PORTSTAT.MOCRED] :=
  have h0 : s.keepsFields s.stir [NS_PORTSTAT.MOCRED] := Slice.keepsFields_of_rd _ fun _ => rfl
  h0.setFld (by simp) _

/-- A request that leaves at once decides no move. -/
theorem Slice.sentOn_restReg (s : Slice) (q : OReq) (j : Job) (e : Nat) {off : Nat} (h : restReg off) :
    (s.sentOn q j e).rd off = s.rd off := by
  refine (s.sentOn_keeps q j e).rd_eq fun f hf => ?_
  obtain rfl := List.mem_singleton.mp hf
  exact reportReg_ne_restReg (.inr (.inr (.inr rfl))) h

/-- The record's write is on its way. -/
def Slice.markSent (s : Slice) (r : Cpl) : Slice := s.modBulk fun b => { b with
  cpls := replaceFirst (fun q => q.id == r.id) (fun q => { q with sent := true }) b.cpls }

/-- The request that writes a record at the physical address `pa`: its four words in their sector (R171, R173). -/
def Cpl.request (r : Cpl) (pa : BitVec 52) : Req := { Req.zero with
  pa := paOfLine (pa.extractLsb' 7 45), mask := sectorMask (pa.toNat / 32 % 4), data := r.line pa, ctx := r.ctx, gen := r.gen,
  cls := BitVec.ofNat 3 r.cls, reqid := r.reqid, srcdie := r.srcdie, priv := r.priv }

/-- The message that carries it to the home of its line. -/
def Slice.recordReq (s : Slice) (r : Cpl) (pa : BitVec 52) : OReq :=
  let home := s.homeOf (pa.extractLsb' 7 45)
  { dd := false, die := home.1, slice := home.2, op := .wr, req := { r.request pa with odd := pipeOf .wr (r.request pa) },
    why := .record r.id }

/-- The unit of work it counts as (R474, R477). -/
def Slice.recordJob (s : Slice) (r : Cpl) (pa : BitVec 52) : Job :=
  { kind := if r.group.isSome then .group else .request, cls := r.cls, master := r.reqid.toNat, born := s.now, slack := 0xFFF,
    est := .wr, key := .pa (pa.extractLsb' 7 45) }

/-- The slice once the record's write has left under the issue entry `e`. -/
def Slice.sendRecord (s : Slice) (r : Cpl) (pa : BitVec 52) (e : Nat) : Slice :=
  (s.markSent r).sentOn (s.recordReq r pa) (s.recordJob r pa) e

/-- The next record, at an address whose page is mapped, is marked and sent when it can leave at once. -/
theorem Slice.writeRecord_send {s : Slice} {r : Cpl} {p : BitVec 52} (g : List (Nat × BitVec 8)) (hrun : s.sys.sclkRuns = true)
    (hnext : s.bulk.cpls.find? (fun r => !r.sent && r.waits.all (fun l => s.invDue l == 0)) = some r) (ha : r.cpladdr ≠ 0)
    (hsend : s.canIssueReq = true) :
    ∃ e, s.out.freeEntry = some e ∧
      s.writeRecord g (some p) = s.sendRecord r (setBits p 0 12 (r.cpladdr.toNat % 4096)) e := by
  let pa : BitVec 52 := setBits p 0 12 (r.cpladdr.toNat % 4096)
  obtain ⟨e, he, hemit⟩ := Slice.emit_req (s := s.markSent r) g (q := s.recordReq r pa) (j := s.recordJob r pa) hsend rfl
    (by simp [Slice.recordReq]) rfl rfl
  refine ⟨e, he, Eq.trans ?_ hemit⟩
  unfold Slice.writeRecord
  rw [hnext]
  simp only [hrun, Bool.not_true, Bool.false_eq_true, if_false, if_neg ha]
  rfl

/-- A calm slice is still once a record's write is on its way. -/
theorem Slice.sendRecord_still {s : Slice} (hs : s.calm = true) (r : Cpl) (pa : BitVec 52) (e : Nat) :
    (s.sendRecord r pa e).still = true := by
  have hrest : s.restsAs (s.sendRecord r pa e) := ⟨rfl, rfl, fun _ h => (s.markSent r).sentOn_restReg _ _ e h⟩
  refine hrest.still_of_cmds hs rfl (fun _ _ hc => hc) fun c hc => ⟨hc, ?_⟩
  exact any_replaceFirst _ (fun q : Cpl => q.cmd == some c.id) (fun q => { q with sent := true }) (fun _ => rfl) _

/-- What has left is the write of the record's sector to the home of its line. -/
theorem Slice.sendRecord_sendsReq {s : Slice} {e : Nat} (he : s.out.freeEntry = some e) (r : Cpl) (pa : BitVec 52) :
    s.sendsReq (s.sendRecord r pa e) fun q => q.op = .wr ∧ q.dd = false ∧ (q.die, q.slice) = s.homeOf (pa.extractLsb' 7 45) ∧
      q.why = .record r.id ∧ q.req.pa = paOfLine (pa.extractLsb' 7 45) ∧ q.req.mask = sectorMask (pa.toNat / 32 % 4) ∧
      q.req.data = r.line pa ∧ q.req.ctx = r.ctx ∧ q.req.gen = r.gen := by
  obtain ⟨q, i, hout, hent, hep, htag, hop, hwhy, hctx, hgen, horph, hq⟩ :=
    Slice.sentOn_sendsReq (s := s.markSent r) (q := s.recordReq r pa) (j := s.recordJob r pa) he
  refine ⟨q, i, hout, hent, hep, htag, hop, hwhy, hctx, hgen, horph, ?_⟩
  rw [hq]
  exact ⟨rfl, rfl, rfl, rfl, rfl, rfl, rfl, rfl, rfl⟩

theorem exec_completionRecord (cpl : Option (BitVec 52)) (s : State) :
    exec (.completionRecord cpl) s = s.run fun g sl => (sl.writeRecord g cpl).settle g := rfl

/-- A completion record's event that leaves the slice still and between two steps answers with what it makes of the records. -/
theorem State.completionRecord_still {s : State} {cpl : Option (BitVec 52)} {u : Slice} (hw : s.sl.writeRecord s.gentab cpl = u)
    (hstill : u.still = true) (hb : u.between = true) : ∃ t, exec (.completionRecord cpl) s = .next t ∧ s.loggedOwn t ∧ t.sl = u := by
  rw [exec_completionRecord]
  exact s.run_loggedOwn (by rw [hw, u.settle_still _ hstill]) hb

/-- Settles O45: a record that can leave is sent (`writeRecord_send`), one without an address or with a page that faults is dropped
(`writeRecord_drop`), and after either the calm slice is still, so that settling adds nothing. -/
theorem completionRecordWritten : Obligations.CompletionRecordWritten := by
  unfold Obligations.CompletionRecordWritten
  intro s r cpl hcalm hrun hnext hid
  obtain ⟨-, -, -, hbtw⟩ := Slice.calm_parts hcalm
  refine ⟨fun p pa l hp ha hpa hl hsend => ?_, fun hdrop => ?_⟩
  · subst hp hpa hl
    obtain ⟨e, he, hw⟩ := Slice.writeRecord_send (p := p) s.gentab hrun hnext ha hsend
    obtain ⟨t, ht, hlog, hsl⟩ := State.completionRecord_still hw (Slice.sendRecord_still hcalm r _ e) hbtw
    refine ⟨t, ht, hlog, ?_⟩
    rw [hsl]
    exact ⟨rfl, Slice.sendRecord_sendsReq he r _, (s.sl.markSent r).sentOn_fld _ _ e hsend, (s.sl.markSent r).sentOn_keeps _ _ e⟩
  · obtain ⟨t, ht, hlog, hsl⟩ := State.completionRecord_still (Slice.writeRecord_drop s.gentab hrun hnext hid hdrop)
      (Slice.dropRecord_still hcalm hid) (by rw [Slice.dropRecord_eq]; exact hbtw)
    refine ⟨t, ht, hlog, ?_⟩
    rw [hsl]
    exact ⟨s.sl.dropRecord_eq r, s.sl.dropRecord_raises, s.sl.dropRecord_notes, s.sl.dropRecord_keeps r⟩

end Sys2Proof.Machine

/-! SUPPORT. Answers and timeouts of snoops: what they do to the one open transaction of a slice that is calm but for it, with the rules
they stand on (the table of transactions, settling beside a transaction that waits, messages that LW delivers at once). -/

namespace Sys2Proof.Machine

/-! ### One open transaction -/

/-- The slice with `x` as its one open transaction. -/
def Slice.withTxn (s : Slice) (x : Txn) : Slice := s.modCoh fun q => { q with txns := [x] }

/-- No other part of the slice that settling looks at depends on the transactions. -/
theorem Slice.still_withTxn {s : Slice} {y : Txn} (h : (s.modCoh fun q => { q with txns := [] }).still = true) (hy : y.waits = true) :
    (s.withTxn y).still = true := by
  have htx : (s.withTxn y).coh.txns.all Txn.waits = (s.modCoh fun q => { q with txns := [] }).coh.txns.all Txn.waits := by
    simp [Slice.withTxn, hy]
  unfold Slice.still at h ⊢
  rw [htx]
  exact h

/-- A still slice has reserved no credit, here or at the LCL port, and holds no message that waits for it to wake. -/
theorem Slice.still_credits {s : Slice} (h : s.still = true) : s.port.credits = [] ∧ s.coh.portCred = [] ∧ s.coh.bridge = [] := by
  unfold Slice.still at h
  simp only [Bool.and_eq_true, List.isEmpty_iff] at h
  tauto

/-- The one open transaction is the transaction of its line. -/
theorem Slice.txn?_one {s : Slice} {x : Txn} (h : s.coh.txns = [x]) : s.txn? x.line = some x := by simp [Slice.txn?, h]

/-- A change of the transaction of that line is a change of it. -/
theorem Slice.modTxn_one {s : Slice} {x : Txn} (f : Txn → Txn) (h : s.coh.txns = [x]) : s.modTxn x.line f = s.withTxn (f x) := by
  simp [Slice.modTxn, Slice.withTxn, Slice.modCoh, replaceFirst, h]

/-! ### Messages that LW delivers at once -/

/-- Without a reservation the LCL port grants nothing. -/
theorem Slice.portGrants_none {s : Slice} (h : s.coh.portCred = []) : s.portGrants = s := by
  unfold Slice.portGrants
  rw [h]
  rfl

/-- An empty wing bridge has an entry for every message, and one that meets no reservation of the LCL port changes nothing there. -/
theorem Slice.enters_free {s : Slice} (b : BridgeMsg) (hpc : s.coh.portCred = []) (hbr : s.coh.bridge = []) :
    ∃ slot, s.enters b = (s, b, some slot) := by
  have hslot : s.bridgeSlot b.cls = some .own := by simp [Slice.bridgeSlot, Slice.ownUsed, hbr, hpc]
  have hport : s.portCred? b.cl.cluster.toNat = none := by simp [Slice.portCred?, hpc]
  unfold Slice.enters
  dsimp only
  cases s.crosses b.cl.cluster.toNat with
  | false => exact ⟨.crossing, by simp [hbr]⟩
  | true => exact ⟨.own, by simp [hslot, hport]⟩

/-- A message that finds the slice ready and the wing bridge empty is handled in its cycle. -/
theorem Slice.clTake_ready {s : Slice} (g : List (Nat × BitVec 8)) (b : BridgeMsg) (hrdy : s.lwReady = true) (hpc : s.coh.portCred = [])
    (hbr : s.coh.bridge = []) : s.clTake g b = ((s.clHandle g b).settle g).portGrants := by
  unfold Slice.lwReady at hrdy
  simp only [Bool.and_eq_true] at hrdy
  obtain ⟨⟨hlw, hcoh⟩, hrun⟩ := hrdy
  obtain ⟨slot, hslot⟩ := s.enters_free b hpc hbr
  unfold Slice.clTake
  simp [hlw, hcoh, hrun, hslot]

/-! ### SNP_ACK -/

/-- The transaction once the cluster `c` has answered its snoop: what it had, whether it sends dirty data, whether it has a writeback
pending (R387, R391). -/
def Slice.ackedTxn (s : Slice) (x : Txn) (c : Nat) (had : Had) (d wbp : Bool) : Txn := { x with
  snoops := x.snoops.filter (fun p => p.1 != c), dataDue := x.dataDue + (if d = true ∧ s.dataToHome x = true then 1 else 0),
  fromOwner := x.fromOwner || (s.ownerSupplies x c && had != .none), hadX := x.hadX || had == .x,
  wbp := if wbp = true then x.wbp ||| oneCluster c else x.wbp }

/-- A transaction with another snoop unanswered goes on waiting. -/
theorem Slice.ackedTxn_waits (s : Slice) {x : Txn} {c : Nat} (had : Had) (d wbp : Bool) (hv : x.waitVictim = none)
    (h : x.snoops.any (fun p => p.1 != c) = true) : (s.ackedTxn x c had d wbp).waits = true := by
  have hleft : (x.snoops.filter (fun p => p.1 != c)).isEmpty = false := by
    obtain ⟨p, hp, hne⟩ := List.any_eq_true.mp h
    exact List.isEmpty_eq_false_iff_exists_mem.mpr ⟨p, List.mem_filter.mpr ⟨hp, hne⟩⟩
  simp [Txn.waits, Txn.stands, Slice.ackedTxn, hv, hleft]

/-- The answer to an unanswered snoop is taken into the transaction; where no credit is reserved, a pending writeback releases none. -/
theorem Slice.snpAck_unanswered {s : Slice} {m : ClMsg} {x : Txn} (g : List (Nat × BitVec 8)) (had : Had) (d wbp : Bool)
    (htx : s.coh.txns = [x]) (hl : x.line = m.line) (hsn : x.snoops.any (fun p => p.1 == m.cluster.toNat) = true)
    (hcr : s.port.credits = []) : s.snpAck g m had d wbp = (s.withTxn (s.ackedTxn x m.cluster.toNat had d wbp)).settle g := by
  have hcredit : ∀ y, (s.withTxn y).credit? (clusterId m) = none := fun _ => by simp [Slice.credit?, Slice.withTxn, hcr]
  unfold Slice.snpAck Slice.ackedTxn
  rw [← hl, Slice.txn?_one htx]
  simp only [hsn, Slice.modTxn_one _ htx, hcredit, Bool.not_true, Bool.false_eq_true, if_false, ite_self, Bool.and_eq_true]

/-- The slice once the answer has been taken. -/
def Slice.ackTaken (s : Slice) (x : Txn) (c : Nat) (had : Had) (d wbp : Bool) : Slice :=
  (s.lwRxBack 2).withTxn (s.ackedTxn x c had d wbp)

/-- While another snoop is unanswered, the answer gives its receive credit back, is taken into the transaction, and moves nothing else. -/
theorem Slice.clTake_snpAck {s : Slice} {m : ClMsg} {x : Txn} (g : List (Nat × BitVec 8)) (had : Had) (d wbp : Bool) (hc : s.calmBut x)
    (hrdy : s.lwReady = true) (hl : x.line = m.line) (hv : x.waitVictim = none)
    (hsn : x.snoops.any (fun p => p.1 == m.cluster.toNat) = true) (hmore : x.snoops.any (fun p => p.1 != m.cluster.toNat) = true) :
    s.clTake g (.snpAck m had d wbp) = s.ackTaken x m.cluster.toNat had d wbp := by
  obtain ⟨htx, hcalm⟩ := hc
  obtain ⟨hrest, -, -, -⟩ := Slice.calm_parts hcalm
  obtain ⟨hcr, hpc, hbr⟩ := Slice.still_credits hrest
  have hstill : (s.ackTaken x m.cluster.toNat had d wbp).still = true :=
    Slice.still_withTxn (s := s.lwRxBack 2) hrest (s.ackedTxn_waits had d wbp hv hmore)
  have hhandle : s.clHandle g (.snpAck m had d wbp) = s.ackTaken x m.cluster.toNat had d wbp :=
    (Slice.snpAck_unanswered (s := s.lwRxBack 2) g had d wbp htx hl hsn hcr).trans (Slice.settle_still _ g hstill)
  rw [Slice.clTake_ready g _ hrdy hpc hbr, hhandle, Slice.settle_still _ g hstill]
  exact Slice.portGrants_none hpc

theorem exec_snpAck (m : ClMsg) (had : Had) (d wbp : Bool) (s : State) :
    exec (.snpAck m had d wbp) s = s.run fun g sl => sl.clTake g (.snpAck m had d wbp) := rfl

/-! ### SNOOP_TIMEOUT -/

/-- NS_DIR_STAT names the cluster whose snoop has timed out, and the directory interrupt of page 0 is raised (R405). -/
def Slice.noteTimeout (s : Slice) (c : Nat) : Slice :=
  ((s.setFld NS_DIR_STAT.SNPTO 1).setFld NS_DIR_STAT.TOCLUSTER c).irqSet NS_IRQ_STAT.DIR

/-- The transaction once the timeout of the snoop to `c` has been reported. -/
def Txn.reported (x : Txn) (c : Nat) : Txn := { x with timedOut := x.timedOut ||| oneCluster c }

/-- The timeout of an unanswered snoop is noted, where it has not been yet. -/
theorem Slice.snoopTimedOut_due {s : Slice} {m : ClMsg} {x : Txn} (htx : s.coh.txns = [x]) (hl : x.line = m.line)
    (hnew : bitAt x.timedOut m.cluster.toNat = false)
    (hdue : x.snoops.any (fun p => p.1 == m.cluster.toNat && s.snpTimeout ≤ s.now - p.2) = true) :
    s.snoopTimedOut m = (s.noteTimeout m.cluster.toNat).withTxn (x.reported m.cluster.toNat) := by
  unfold Slice.snoopTimedOut
  rw [← hl, Slice.txn?_one htx]
  simp only [hnew, hdue, Bool.not_true, Bool.or_self, Bool.false_eq_true, if_false]
  exact Slice.modTxn_one (s := s.noteTimeout m.cluster.toNat) _ htx

theorem Slice.noteTimeout_shows (s : Slice) {c : Nat} (hc : c < 32) :
    (s.noteTimeout c).flag NS_DIR_STAT.SNPTO = true ∧ (s.noteTimeout c).fld NS_DIR_STAT.TOCLUSTER = c ∧
      (s.noteTimeout c).flag NS_IRQ_STAT.DIR = true := by
  unfold Slice.noteTimeout Slice.irqSet
  refine ⟨?_, ?_, Slice.flag_setFld_one _ (by decide) rfl⟩
  · rw [Slice.flag_setFld_other _ _ (by decide), Slice.flag_setFld_other _ _ (by decide)]
    exact Slice.flag_setFld_one _ (by decide) rfl
  · rw [Slice.fld_setFld_other _ _ (by decide), Slice.fld_setFld _ _ (by decide)]
    exact Nat.mod_eq_of_lt hc

theorem Slice.noteTimeout_keeps (s : Slice) (c : Nat) :
    s.keepsFields (s.noteTimeout c) [NS_DIR_STAT.SNPTO, NS_DIR_STAT.TOCLUSTER, NS_IRQ_STAT.DIR] := by
  have h0 := Slice.keepsFields_of_rd [NS_DIR_STAT.SNPTO, NS_DIR_STAT.TOCLUSTER, NS_IRQ_STAT.DIR] fun off => Eq.refl (s.rd off)
  exact ((h0.setFld (by simp) 1).setFld (by simp) c).setFld (by simp) 1

theorem exec_snoopTimeout (m : ClMsg) (s : State) : exec (.snoopTimeout m) s = s.run fun _ sl => sl.snoopTimedOut m := rfl

/-- Settles O29: an answer while another snoop is unanswered is taken into the transaction, which goes on waiting, so that the slice is
still and settling adds nothing (`clTake_snpAck`); a timeout that is due is noted once (`snoopTimedOut_due`). -/
theorem snoopAnsweredOrTimedOut : Obligations.SnoopAnsweredOrTimedOut := by
  unfold Obligations.SnoopAnsweredOrTimedOut
  intro s m x c hc hcl hl hv hsn
  subst hcl
  obtain ⟨htx, hcalm⟩ := hc
  obtain ⟨-, -, -, hbtw⟩ := Slice.calm_parts hcalm
  refine ⟨fun had d wbp hrdy hmore => ?_, fun hnew hdue => ?_⟩
  · obtain ⟨t, ht, hlog, hsl⟩ := s.run_loggedOwn (f := fun g sl => sl.clTake g (.snpAck m had d wbp))
      (Slice.clTake_snpAck s.gentab had d wbp ⟨htx, hcalm⟩ hrdy hl hv hsn hmore) hbtw
    refine ⟨t, (exec_snpAck m had d wbp s).trans ht, hlog, ?_⟩
    rw [hsl]
    exact ⟨rfl, rfl⟩
  · obtain ⟨t, ht, hlog, hsl⟩ := s.run_loggedOwn (f := fun _ sl => sl.snoopTimedOut m)
      (Slice.snoopTimedOut_due htx hl hnew hdue) hbtw
    obtain ⟨hto, hcluster, hirq⟩ := s.sl.noteTimeout_shows m.cluster.isLt
    refine ⟨t, (exec_snoopTimeout m s).trans ht, hlog, ?_⟩
    rw [hsl]
    exact ⟨rfl, hto, hcluster, hirq, s.sl.noteTimeout_keeps m.cluster.toNat⟩

end Sys2Proof.Machine

/-! SUPPORT. Sealed writes at their counter: what accepting a request charges, when a calm slice stays still after one, how a request
that holds no tracker is carried out at once, and the two ends of a sealed write (R456 to R458). -/

namespace Sys2Proof.Machine

/-! ### Frames -/

/-- A change that keeps the registers keeps the frame. -/
theorem Slice.keepsFields.of_rd {s t u : Slice} {fs : List Fld} (h : s.keepsFields t fs) (hu : ∀ off, u.rd off = t.rd off) :
    s.keepsFields u fs := fun off i hi => by rw [hu off, h off i hi]

/-- Adding to a count among the fields of a frame stays inside it. -/
theorem Slice.keepsFields.bump {s t : Slice} {fs : List Fld} (h : s.keepsFields t fs) {f : Fld} (hf : f ∈ fs) (n : Nat) :
    s.keepsFields (t.bump f n) fs := h.setFld hf _

theorem Slice.keepsFields.mono {s t : Slice} {fs gs : List Fld} (h : s.keepsFields t fs) (hsub : fs ⊆ gs) : s.keepsFields t gs :=
  fun off i hi => h off i fun f hf => hi f (hsub hf)

/-! ### No group begins to close -/

/-- No group's register has come to read CLOSING. -/
def Slice.noneCloses (s t : Slice) : Prop := ∀ n, t.grpState n = GSt.CLOSING → s.grpState n = GSt.CLOSING

/-- A STATE with its highest bit set is not CLOSING. -/
theorem Slice.grpState_not_closing {s : Slice} {n : Nat} (h : s.fld ⟨Reg.NS_GRPSTAT n, 63, 1⟩ ≠ 0) : s.grpState n ≠ GSt.CLOSING := by
  unfold Slice.grpState
  unfold Slice.fld at h ⊢
  simp only [getBits, Nat.shiftRight_eq_div_pow, Reg.NS_GRPSTAT, GSt.CLOSING] at h ⊢
  omega

/-- Setting a field lets no group begin to close where it lies below STATE, or leaves STATE's highest bit set. -/
theorem Slice.setFld_noneCloses (s : Slice) {f : Fld} (x : Nat) (h : f.lo + f.w ≤ 61 ∨ (s.setFld f x).fld ⟨f.off, 63, 1⟩ ≠ 0) :
    s.noneCloses (s.setFld f x) := by
  intro n hn
  by_cases hoff : f.off = Reg.NS_GRPSTAT n
  · rcases h with hlow | htop
    · rw [← hn]
      exact (s.fld_setFld_other x (.inr (.inl hlow))).symm
    · rw [hoff] at htop
      exact absurd hn (Slice.grpState_not_closing htop)
  · rw [← hn]
    exact (s.fld_setFld_other x (.inl hoff)).symm

theorem Slice.bump_noneCloses (s : Slice) {f : Fld} (n : Nat) (h : f.lo + f.w ≤ 61) : s.noneCloses (s.bump f n) :=
  s.setFld_noneCloses _ (.inl h)

theorem Slice.noneCloses.trans {s t u : Slice} (h : s.noneCloses t) (k : t.noneCloses u) : s.noneCloses u := fun n hn => h n (k n hn)

/-! ### A calm slice that has answered -/

/-- An answer has changed registers, measurements, the port and the holds of counters only: the port's trackers and the registers below
those of the groups stand, and no group begins to close. Group numbers are not bounded here, so that the register of a group may be any
one above: `closes` is what a charge and a counter keep of them. -/
structure Slice.answersAs (s t : Slice) : Prop where
  same : t = { s with regs := t.regs, meas := t.meas, port := t.port, holds := t.holds }
  port : s.port.keeps t.port
  trks : t.port.trks = s.port.trks
  reg : ∀ off < 0x3200, t.rd off = s.rd off
  closes : s.noneCloses t

theorem Slice.answersAs.invs_eq {s t : Slice} (h : s.answersAs t) : t.port.invs = s.port.invs := by
  have hport := h.port
  unfold Port.keeps at hport
  rw [hport]

theorem Slice.answersAs.lookup_eq {s t : Slice} (h : s.answersAs t) (use : Nat) (l : LineAddr) : t.lookup use l = s.lookup use l := by
  have hsafe : t.safe = s.safe := Slice.flag_congr _ (h.reg _ (by decide))
  have hways : t.waysOf use = s.waysOf use := by unfold Slice.waysOf Slice.wayCode; rw [h.reg _ (by decide)]
  unfold Slice.lookup
  rw [hsafe, hways, h.same]
  rfl

theorem Slice.answersAs.loansCalled_eq {s t : Slice} (h : s.answersAs t) (l : LineAddr) : t.loansCalled l = s.loansCalled l := by
  have hdue : ∀ l, t.invDue l = s.invDue l := fun l => by unfold Slice.invDue; rw [h.invs_eq]
  have hmem : t.mem = s.mem := by rw [h.same]
  unfold Slice.loansCalled
  rw [h.lookup_eq, hdue, hmem]

/-- A group whose loan copies are called in stays so. -/
theorem Slice.answersAs.grpCalled {s t : Slice} (h : s.answersAs t) (htrks : s.port.trks = []) {p : Grp} (hp : s.grpCalled p = true) :
    t.grpCalled p = true := by
  have hbusy : t.grpBusy p.num = s.grpBusy p.num := by simp [Slice.grpBusy, h.trks, htrks]
  unfold Slice.grpCalled at hp ⊢
  rw [hbusy, funext h.loansCalled_eq]
  by_cases hc : t.grpState p.num = GSt.CLOSING
  · rw [hc]
    rw [h.closes _ hc] at hp
    exact hp
  · simp [hc]

theorem Slice.answersAs.cmdEnd_eq {s t : Slice} (h : s.answersAs t) (hinvs : s.port.invs = []) (c : Cmd) : t.cmdEnd c = s.cmdEnd c := by
  have hout : t.bulkOut c = s.bulkOut c := by rw [h.same]; rfl
  have himage : ∀ u : Slice, u.port.invs = [] → u.imageInv c = false := fun u hu => by simp [Slice.imageInv, Slice.imageInvs, hu]
  have htotal : t.bulkTotal c.desc = s.bulkTotal c.desc := by
    unfold Slice.bulkTotal Slice.vWays Slice.isV Slice.wayCode Slice.draining
    rw [h.reg _ (by decide), h.reg _ (by decide)]
  have hbulk : t.bulk = s.bulk := by rw [h.same]
  unfold Slice.cmdEnd
  rw [hbulk, hout, himage s hinvs, himage t (h.invs_eq.trans hinvs), htotal]

theorem Slice.answersAs.progKept_eq {s t : Slice} (h : s.answersAs t) : t.progKept = s.progKept := by
  have hfld : t.fld NS_BLK_PROG.PROGRESS = s.fld NS_BLK_PROG.PROGRESS := Slice.fld_congr _ (h.reg _ (by decide))
  unfold Slice.progKept
  rw [hfld, h.same]
  rfl

/-- A calm slice is still once it has answered. -/
theorem Slice.answersAs.still {s t : Slice} (h : s.answersAs t) (hs : s.calm = true) : t.still = true := by
  obtain ⟨hstill, htrks, hinvs, -⟩ := Slice.calm_parts hs
  have hsweeps : t.port.sweeps = s.port.sweeps := by rw [show t.port = _ from h.port]
  have hcredits : t.port.credits = s.port.credits := by rw [show t.port = _ from h.port]
  have hout : t.out = s.out := by rw [h.same]
  have hchan : t.chan = s.chan := by rw [h.same]
  have hgrps : t.grps = s.grps := by rw [h.same]
  have hheld : t.grpHeld = s.grpHeld := by rw [h.same]
  have hbulk : t.bulk = s.bulk := by rw [h.same]
  have hcoh : t.coh = s.coh := by rw [h.same]
  have hwalk : t.walk = s.walk := by rw [h.same]
  unfold Slice.still at hstill ⊢
  rw [hsweeps, hcredits, hout, hchan, hgrps, hheld, hbulk, hcoh, hwalk, h.progKept_eq, funext (h.cmdEnd_eq hinvs), h.trks, htrks]
  simp only [Bool.and_eq_true] at hstill ⊢
  obtain ⟨⟨⟨⟨hrest, hcalled⟩, hprog⟩, hends⟩, -⟩ := hstill
  have hcalled' : s.grps.all t.grpCalled = true :=
    List.all_eq_true.mpr fun p hp => h.grpCalled htrks (List.all_eq_true.mp hcalled p hp)
  exact ⟨⟨⟨⟨hrest, hcalled'⟩, hprog⟩, hends⟩, rfl⟩

/-! ### What an acceptance charges -/

/-- Counting: the slice has changed fields `fs`, measurements and the mark of the data port only, and no group begins to close. -/
structure Slice.counts (s t : Slice) (fs : List Fld) : Prop where
  same : t = { s with regs := t.regs, meas := t.meas, port := t.port }
  port : t.port = { s.port with dataTaken := t.port.dataTaken }
  keeps : s.keepsFields t fs
  closes : s.noneCloses t

theorem Slice.counts.refl (s : Slice) (fs : List Fld) : s.counts s fs :=
  ⟨rfl, rfl, Slice.keepsFields_of_rd fs fun _ => rfl, fun _ hn => hn⟩

/-- Setting one of the fields, where no group's STATE comes to read CLOSING by it. -/
theorem Slice.counts.setFld {s t : Slice} {fs : List Fld} (h : s.counts t fs) {f : Fld} (hf : f ∈ fs) (n : Nat)
    (hcl : t.noneCloses (t.setFld f n)) : s.counts (t.setFld f n) fs :=
  ⟨congrArg (Slice.setFld · f n) h.same, h.port, h.keeps.setFld hf n, h.closes.trans hcl⟩

theorem Slice.counts.noteBudget {s t : Slice} {fs : List Fld} (h : s.counts t fs) (n : Nat) : s.counts (t.noteBudget n) fs := by
  unfold Slice.noteBudget
  split
  · exact ⟨congrArg (Slice.modMeas · _) h.same, h.port, h.keeps, h.closes⟩
  · exact h

theorem Slice.counts.ev {s t : Slice} {fs : List Fld} (h : s.counts t fs) (code n : Nat) (p : Option Bool) (c : Option Nat) :
    s.counts (t.ev code n p c) fs := by
  unfold Slice.ev Slice.evBy
  split
  · exact h
  · exact ⟨congrArg (Slice.modMeas · fun _ => _) h.same, h.port, h.keeps, h.closes⟩

theorem Slice.counts.takesData {s t : Slice} {fs : List Fld} (h : s.counts t fs) :
    s.counts (t.modPort fun p => { p with dataTaken := true }) fs :=
  ⟨congrArg (Slice.modPort · fun p => { p with dataTaken := true }) h.same,
    congrArg (fun p : Port => { p with dataTaken := true }) h.port, h.keeps, h.closes⟩

/-- A count of bytes with its overflow mark in the highest bit. -/
theorem Slice.counts.count48 {s t : Slice} {fs : List Fld} (h : s.counts t fs) (off n : Nat) (hc : (⟨off, 0, 48⟩ : Fld) ∈ fs)
    (ho : (⟨off, 63, 1⟩ : Fld) ∈ fs) : s.counts (t.count48 ⟨off, 0, 48⟩ ⟨off, 63, 1⟩ n).1 fs := by
  have hcount := fun k => h.setFld hc k (t.setFld_noneCloses k (.inl (by simp)))
  unfold Slice.count48
  dsimp only
  split
  · refine (hcount _).setFld ho 1 (Slice.setFld_noneCloses _ 1 (.inr ?_))
    rw [Slice.fld_setFld _ _ (by simp)]
    simp
  · exact hcount _

/-- The fields of a class's count of written bytes, for a request with a data line (R491). -/
def byteFlds (op : Op) (r : Req) : List Fld :=
  if op.hasData then [NS_REG_WRBYTES.COUNT r.cls.toNat, NS_REG_WRBYTES.OVF r.cls.toNat] else []

/-- The bytes of a data line are counted, except where a freeze stops counting. -/
theorem Slice.counts.dataLine {s t : Slice} {op : Op} {r : Req} (h : s.counts t (byteFlds op r)) (hd : op.hasData = true) :
    s.counts (if t.frozen then t else (t.count48 (NS_REG_WRBYTES.COUNT r.cls.toNat) (NS_REG_WRBYTES.OVF r.cls.toNat) 128).1)
      (byteFlds op r) := by
  split
  · exact h
  · exact h.count48 _ _ (by simp [byteFlds, hd]) (by simp [byteFlds, hd])

/-- Beside the charge to the master, an acceptance counts the bytes of a data line. -/
theorem Slice.charge_counts (s : Slice) (op : Op) (r : Req) (cvt : Option (BitVec 5 × Nat)) :
    (s.bump (NS_REG_BUDGET.USED r.reqid.toNat) (linesCharged op r cvt)).counts (s.charge op r cvt) (byteFlds op r) := by
  unfold Slice.charge
  dsimp only
  generalize s.bump (NS_REG_BUDGET.USED r.reqid.toNat) (linesCharged op r cvt) = b
  have hbudget := (Slice.counts.refl b (byteFlds op r)).noteBudget r.reqid.toNat
  split
  · exact hbudget
  · next hd =>
    have hdata : op.hasData = true := by simpa using hd
    split
    · exact (hbudget.ev _ _ _ _).takesData.dataLine hdata
    · exact (hbudget.ev _ _ _ _).dataLine hdata

/-! ### A request that holds no tracker -/

/-- What holds no tracker waits at no service point. -/
theorem Trk.point_free {t : Trk} (h : opTrk t.op = .none) : t.point = none := by
  unfold Trk.point
  split
  · rfl
  · revert h
    cases t.op <;> simp [opTrk]

theorem Slice.serveHere_free (s : Slice) (g : List (Nat × BitVec 8)) {t : Trk} (h : opTrk t.op = .none) :
    s.serveHere g t = s.serveFree g t := by
  unfold Slice.serveHere
  revert h
  cases t.op <;> simp [opTrk]

theorem Slice.touches_keyless (s : Slice) {t : Trk} (h : t.key = .none) : s.touches t = [] := by
  unfold Slice.touches
  rw [h]
  cases t.op <;> rfl

/-- What orders no line and needs no tracker waits for a purge of its context only. -/
theorem Slice.heldBack_free {s : Slice} {t : Trk} (hkey : t.key = .none) (hkind : t.kind = .none) (hanew : t.anew = false)
    (hpurge : s.walk.purge = none) : s.heldBack t = false := by
  simp [Slice.heldBack, Slice.blocked, Slice.touches_keyless _ hkey, Slice.arrivalWaits, Slice.purgeWait, hkey, hkind, hanew, hpurge]

/-- The only tracker, of a request that needs none, is served at once. -/
theorem Slice.advanceTrk_free {s : Slice} (g : List (Nat × BitVec 8)) {t : Trk} (htrks : s.port.trks = [t]) (hstage : t.stage = .queued)
    (hanew : t.anew = false) (hop : opTrk t.op = .none) (hback : s.heldBack t = false) (hplace : s.place t.op t.req = .here) :
    s.advanceTrk g t.id = s.serveFree g t := by
  have hfind : s.trk? t.id = some t := by simp [Slice.trk?, htrks]
  unfold Slice.advanceTrk
  rw [hfind]
  simp only [hstage, hback, hanew, Bool.false_eq_true, if_false]
  unfold Slice.serveTrk
  rw [hplace]
  exact s.serveHere_free g hop

/-- The slice once it has given a request that holds no tracker its number in the order of acceptance. -/
def Slice.numbered (s : Slice) : Slice := s.modPort fun p => { p with nextId := p.nextId + 1 }

theorem Slice.keyOf_none (s : Slice) {op : Op} {r : Req} (h : reqKey op r = .none) : s.keyOf op r = .none := by
  unfold Slice.keyOf
  rw [h]
  cases s.place op r <;> rfl

/-- A request of this slice that orders no line and needs no tracker is charged, numbered and carried out at once. -/
theorem Slice.accept_free {s t : Slice} (g : List (Nat × BitVec 8)) {op : Op} {r q : Req} {cvt : Option (BitVec 5 × Nat)}
    (hq : Req.taken op r = q) (ht : s.charge op q cvt = t) (hop : opTrk op = .none) (hkey : reqKey op q = .none)
    (htrks : t.port.trks = []) (hpurge : t.walk.purge = none) (hplace : t.place op q = .here) :
    s.accept g op r .pass cvt none = (t.openTrk op q .queued cvt).1.serveFree g (t.openTrk op q .queued cvt).2 := by
  have hone : (t.openTrk op q .queued cvt).1.port.trks = [(t.openTrk op q .queued cvt).2] := by simp [Slice.openTrk, htrks]
  have hmod : ((t.openTrk op q .queued cvt).1.modTrk (t.openTrk op q .queued cvt).2.id fun u => { u with res := none }) =
      (t.openTrk op q .queued cvt).1 := by
    simp [Slice.modTrk, Slice.openTrk, Slice.modPort, htrks, replaceFirst]
  have hclose : (t.openTrk op q .queued cvt).1.closeReads (t.openTrk op q .queued cvt).2 = (t.openTrk op q .queued cvt).1 := by
    simp [Slice.closeReads, Slice.openTrk, hop]
  have hback : (t.openTrk op q .queued cvt).1.heldBack (t.openTrk op q .queued cvt).2 = false :=
    Slice.heldBack_free (t.keyOf_none hkey) hop rfl hpurge
  unfold Slice.accept
  simp only [hop, hq, ht, bne_self_eq_false, Bool.and_false, Bool.false_eq_true, if_false, hmod, hclose]
  rw [Trk.point_free (t := (t.openTrk op q .queued cvt).2) hop]
  exact Slice.advanceTrk_free g hone rfl rfl hop hback hplace

/-! ### The acceptance of a sealed write -/

/-- The slice once it has taken a request that holds no tracker at a pipe, charged it and numbered it. -/
def Slice.takesFree (s : Slice) (op : Op) (r : Req) : Slice :=
  ((s.stir.slotServed r.odd).charge op (Req.taken op r) none).numbered

theorem Req.taken_reqid (op : Op) (r : Req) : (Req.taken op r).reqid = r.reqid := by unfold Req.taken; dsimp only; split <;> rfl

theorem Req.taken_cls (op : Op) (r : Req) : (Req.taken op r).cls = r.cls := by unfold Req.taken; dsimp only; split <;> rfl

theorem Req.taken_aux (op : Op) (r : Req) : (Req.taken op r).aux = r.aux := by unfold Req.taken; dsimp only; split <;> rfl

theorem chargeFlds_eq (op : Op) (r : Req) : chargeFlds op r = NS_REG_BUDGET.USED r.reqid.toNat :: byteFlds op r := rfl

/-- The slice before the request's number is given: its count of the master has the charge, and its class's bytes are counted. -/
theorem Slice.takesFree_counts (s : Slice) (op : Op) (r : Req) :
    ((s.stir.slotServed r.odd).bump (NS_REG_BUDGET.USED r.reqid.toNat) (linesCharged op (Req.taken op r) none)).counts
      ((s.stir.slotServed r.odd).charge op (Req.taken op r) none) (byteFlds op r) := by
  have h := (s.stir.slotServed r.odd).charge_counts op (Req.taken op r) none
  unfold byteFlds at h ⊢
  rwa [Req.taken_reqid, Req.taken_cls] at h

theorem byteFlds_off {op : Op} {r : Req} {f : Fld} (h : f ∈ byteFlds op r) : 0x7140 ≤ f.off ∧ f.off < 0x7800 := by
  have := r.cls.isLt
  unfold byteFlds at h
  split at h
  · rcases List.mem_pair.mp h with rfl | rfl <;> dsimp only <;> omega
  · exact absurd h List.not_mem_nil

theorem chargeFlds_off {op : Op} {r : Req} {f : Fld} (h : f ∈ chargeFlds op r) : 0x7140 ≤ f.off ∧ f.off < 0x8000 := by
  have := r.reqid.isLt
  rcases List.mem_cons.mp h with rfl | h
  · dsimp only
    omega
  · have := byteFlds_off h
    omega

theorem Slice.takesFree_keeps (s : Slice) (op : Op) (r : Req) : s.keepsFields (s.takesFree op r) (chargeFlds op r) := by
  have h0 : s.keepsFields (s.stir.slotServed r.odd) [NS_REG_BUDGET.USED r.reqid.toNat] := Slice.keepsFields_of_rd _ fun _ => rfl
  have hused := h0.bump (f := NS_REG_BUDGET.USED r.reqid.toNat) (by simp) (linesCharged op (Req.taken op r) none)
  exact (hused.append (s.takesFree_counts op r).keeps).mono (by simp [chargeFlds_eq])

theorem Slice.takesFree_charged (s : Slice) (op : Op) (r : Req) :
    s.charged (s.takesFree op r) r (linesCharged op (Req.taken op r) none) := by
  have hbytes := (s.takesFree_counts op r).keeps.fld_eq (g := NS_REG_BUDGET.USED r.reqid.toNat) fun f hf => by
    have := byteFlds_off hf
    simp only
    omega
  exact hbytes.trans (Slice.fld_bump _ _ (by simp))

theorem Slice.takesFree_same (s : Slice) (op : Op) (r : Req) :
    s.takesFree op r = { s with regs := (s.takesFree op r).regs, meas := (s.takesFree op r).meas, port := (s.takesFree op r).port } :=
  congrArg Slice.numbered (s.takesFree_counts op r).same

/-- The mark of a slot is all that it changes. -/
theorem Slice.slotServed_port (s : Slice) (odd : Bool) : (s.slotServed odd).port = { s.port with
    slotE := (s.slotServed odd).port.slotE, slotO := (s.slotServed odd).port.slotO,
    rcrE := (s.slotServed odd).port.rcrE, rcrO := (s.slotServed odd).port.rcrO } := by
  cases odd <;> rfl

/-- Beside the marks of the cycle only the number of the next acceptance changes at the port. -/
theorem Slice.takesFree_port (s : Slice) (op : Op) (r : Req) : (s.takesFree op r).port = { s.port with
    nextId := s.port.nextId + 1, slotE := (s.takesFree op r).port.slotE, slotO := (s.takesFree op r).port.slotO,
    rcrE := (s.takesFree op r).port.rcrE, rcrO := (s.takesFree op r).port.rcrO, dataTaken := (s.takesFree op r).port.dataTaken } := by
  have hcharge := (s.takesFree_counts op r).port
  have hslot : ((s.stir.slotServed r.odd).bump (NS_REG_BUDGET.USED r.reqid.toNat) (linesCharged op (Req.taken op r) none)).port = _ :=
    s.stir.slotServed_port r.odd
  rw [hslot] at hcharge
  unfold Slice.takesFree Slice.numbered
  rw [Slice.modPort_port, hcharge]
  rfl

theorem Slice.takesFree_answersAs (s : Slice) (op : Op) (r : Req) : s.answersAs (s.takesFree op r) where
  same := by rw [s.takesFree_same op r]
  port := by
    rw [s.takesFree_port op r]
    rfl
  trks := by rw [s.takesFree_port op r]
  reg off hoff := (s.takesFree_keeps op r).rd_eq fun f hf => by
    have := chargeFlds_off hf
    omega
  closes := by
    have hused := (s.stir.slotServed r.odd).bump_noneCloses (f := NS_REG_BUDGET.USED r.reqid.toNat)
      (linesCharged op (Req.taken op r) none) (by simp)
    exact hused.trans (s.takesFree_counts op r).closes

theorem Slice.takesFree_beats (s : Slice) (op : Op) (r : Req) : (s.takesFree op r).port.beats = s.port.beats := by
  rw [s.takesFree_port op r]

theorem Slice.takesFree_rd (s : Slice) (op : Op) (r : Req) {off : Nat} (h : off < 0x7140 ∨ 0x8000 ≤ off) :
    (s.takesFree op r).rd off = s.rd off :=
  (s.takesFree_keeps op r).rd_eq fun f hf => by
    have := chargeFlds_off hf
    omega

theorem Slice.takesFree_now (s : Slice) (op : Op) (r : Req) : (s.takesFree op r).now = s.now := by
  unfold Slice.now
  rw [s.takesFree_rd op r (by decide)]

/-! ### Steps of an answer -/

theorem Slice.answersAs.setFld {s t : Slice} (h : s.answersAs t) {f : Fld} (n : Nat) (hoff : 0x3200 ≤ f.off)
    (hcl : t.noneCloses (t.setFld f n)) : s.answersAs (t.setFld f n) where
  same := congrArg (Slice.setFld · f n) h.same
  port := h.port
  trks := h.trks
  reg off hlt := (t.rd_setFld_other n (by omega)).trans (h.reg off hlt)
  closes := h.closes.trans hcl

theorem Slice.answersAs.holds {s t : Slice} (h : s.answersAs t) (l : List Hold) : s.answersAs { t with holds := l } where
  same := congrArg (fun u : Slice => { u with holds := l }) h.same
  port := h.port
  trks := h.trks
  reg := h.reg
  closes := h.closes

/-- The slice with one more reply beat. -/
def Slice.withBeat (s : Slice) (b : Beat) : Slice := s.modPort fun p => { p with beats := p.beats ++ [b] }

theorem Slice.withBeat_rd (s : Slice) (b : Beat) (off : Nat) : (s.withBeat b).rd off = s.rd off := rfl

theorem Slice.withBeat_fld (s : Slice) (b : Beat) (f : Fld) : (s.withBeat b).fld f = s.fld f := rfl

theorem Slice.answersAs.beat {s t : Slice} (h : s.answersAs t) (b : Beat) : s.answersAs (t.withBeat b) where
  same := congrArg (Slice.withBeat · b) h.same
  port := by
    unfold Port.keeps
    exact congrArg (fun p : Port => { p with beats := p.beats ++ [b] }) h.port
  trks := h.trks
  reg := h.reg
  closes := h.closes

/-! ### Sealed writes -/

theorem accNum_lt (r : Req) : accNum r < 256 := Nat.mod_lt _ (by decide)

/-- The conditions of R456 in their order. -/
theorem Slice.sealCheck_eq (s : Slice) (r : Req) :
    s.sealCheck r = (if r.aux.toNat / 2 ^ 41 % 2 ^ 7 ≠ 0 then Stat.BAD_ACCN
      else if s.fld (NS_ACCN_TARGET.EN (accNum r)) = 0 then Stat.ACCN_OFF
      else if s.fld (NS_ACCN_TARGET.CTX (accNum r)) ≠ r.ctx.toNat then Stat.ACCN_CTX
      else if s.accState (accNum r) = AccSt.HOLDING ∨ s.accState (accNum r) = AccSt.RELEASING then Stat.ACCN_BUSY
      else if s.accState (accNum r) = AccSt.ERROR then Stat.ACCN_ERR else 0) := by
  have hword : accWordOk r = !decide (r.aux.toNat / 2 ^ 41 % 2 ^ 7 ≠ 0) := by
    have : accWord r / 2 ^ 41 = r.aux.toNat / 2 ^ 41 % 2 ^ 7 := by
      unfold accWord getBits
      rw [Nat.shiftRight_zero]
      omega
    unfold accWordOk
    rw [this]
    simp [Bool.beq_eq_decide_eq]
  unfold Slice.sealCheck
  simp only [hword, Slice.flag, Bool.not_not, decide_eq_true_eq, bne_iff_ne, Bool.or_eq_true, ne_eq, Bool.not_eq_true', bne_eq_false_iff_eq]

/-- The conditions are those of the counter's register. -/
theorem Slice.sealCheck_congr {s t : Slice} (r : Req) (h : t.rd (Reg.NS_ACCN_TARGET (accNum r)) = s.rd (Reg.NS_ACCN_TARGET (accNum r))) :
    t.sealCheck r = s.sealCheck r := by
  have hfld : ∀ f : Fld, f.off = Reg.NS_ACCN_TARGET (accNum r) → t.fld f = s.fld f := fun f hf => Slice.fld_congr f (hf ▸ h)
  rw [Slice.sealCheck_eq, Slice.sealCheck_eq]
  unfold Slice.accState
  rw [hfld (NS_ACCN_TARGET.EN (accNum r)) rfl, hfld (NS_ACCN_TARGET.CTX (accNum r)) rfl, hfld (NS_ACCN_TARGET.STATE (accNum r)) rfl]

/-- A sealed write is served at its counter's slice. -/
theorem Slice.place_sealwr (s : Slice) (r : Req) : s.place .sealwr r = s.placeAt r (accDie r, accSlice r) := by
  simp [Slice.place, Req.vt, Op.isVt, Op.readsVsp]

theorem Slice.placeAt_congr {s t : Slice} (r : Req) (h : Nat × Nat) (hid : t.rd NS_ID.DIE.off = s.rd NS_ID.DIE.off) :
    t.placeAt r h = s.placeAt r h := by
  have hdie : t.die = s.die := Slice.fld_congr _ hid
  have hnum : t.num = s.num := Slice.fld_congr _ hid
  unfold Slice.placeAt
  rw [hdie, hnum]

/-- A calm slice carries out no purge, and its bookkeeping arrays hold no error. -/
theorem Slice.calm_purge {s : Slice} (h : s.calm = true) : s.walk.purge = none ∧ s.mem.bkchk = [] := by
  unfold Slice.calm at h
  simp only [Bool.and_eq_true, List.isEmpty_iff, Option.isNone_iff_eq_none] at h
  tauto

/-- A sealed write gives up the tracker it has been accepted with. -/
theorem Slice.serveFree_sealwr {s : Slice} (g : List (Nat × BitVec 8)) (q : Req) (htrks : s.port.trks = []) :
    (s.openTrk .sealwr q .queued none).1.serveFree g (s.openTrk .sealwr q .queued none).2 =
      s.numbered.sealWrite g q s.now s.port.nextId := by
  have hdrop : ((s.openTrk .sealwr q .queued none).1.modPort fun p => { p with
      trks := p.trks.filter (fun u => u.id != (s.openTrk .sealwr q .queued none).2.id) }) = s.numbered := by
    simp [Slice.openTrk, Slice.numbered, Slice.modPort, htrks]
  unfold Slice.serveFree
  rw [hdrop]
  rfl

/-- At a calm slice a sealed write is charged, numbered and judged at once. -/
theorem Slice.accept_sealwr {s : Slice} (g : List (Nat × BitVec 8)) {r : Req} (hs : s.calm = true) (hplace : s.place .sealwr r = .here) :
    (s.stir.slotServed r.odd).accept g .sealwr r .pass (s.cvtOf .sealwr r) none =
      (s.takesFree .sealwr r).sealWrite g (Req.taken .sealwr r) s.now s.port.nextId := by
  obtain ⟨-, htrks, -, -⟩ := Slice.calm_parts hs
  obtain ⟨hpurge, -⟩ := Slice.calm_purge hs
  have hans := s.takesFree_answersAs .sealwr r
  have hplace' : (s.takesFree .sealwr r).place .sealwr (Req.taken .sealwr r) = .here := by
    rw [← hplace, Slice.place_sealwr, Slice.place_sealwr]
    exact Slice.placeAt_congr r _ (s.takesFree_rd _ r (by decide))
  have hwalk : (s.takesFree .sealwr r).walk = s.walk := by rw [s.takesFree_same]
  have hnext : ((s.stir.slotServed r.odd).charge .sealwr (Req.taken .sealwr r) none).port.nextId = s.port.nextId :=
    Nat.succ.inj (congrArg Port.nextId (s.takesFree_port .sealwr r))
  rw [← hnext, ← s.takesFree_now .sealwr r]
  exact (Slice.accept_free (s := s.stir.slotServed r.odd) (r := r) (cvt := none) g (op := .sealwr) rfl rfl rfl rfl
    (hans.trks.trans htrks) (hwalk ▸ hpurge) hplace').trans (Slice.serveFree_sealwr g _ (hans.trks.trans htrks))

/-- The whole reply to a sealed write. -/
def Slice.sealBeat (s : Slice) (r : Req) (status : Nat) : Beat := s.statusBeat .sealwr (Req.taken .sealwr r) none s.now status 0

theorem Slice.sealBeat_answers (s : Slice) {r : Req} (status : Nat) (hvia : r.via = .mq) :
    (s.sealBeat r status).answers .sealwr r s.now status 0 0 0 :=
  ⟨rfl, congrArg Via.dd? hvia, rfl, rfl, rfl, rfl, rfl, rfl, rfl⟩

/-- A reply to a request of the mesh waits at the reply port. -/
theorem Slice.reply_mesh (s : Slice) (g : List (Nat × BitVec 8)) {b : Beat} (h : b.dd = none) : s.reply g b = s.withBeat b := by
  unfold Slice.reply
  rw [h]
  rfl

/-- A refusal is counted, and REJ is set (R456). -/
def Slice.countsRefusal (s : Slice) : Slice := (s.bump NS_ACCN_EVT.REJECTED 1).setFld NS_ACCN_STICKY.REJ 1

/-- The slice once it has refused a sealed write. -/
def Slice.refusesSeal (s : Slice) (r : Req) : Slice := (s.takesFree .sealwr r).countsRefusal.withBeat (s.sealBeat r (s.sealCheck r))

theorem accNum_taken (op : Op) (r : Req) : accNum (Req.taken op r) = accNum r := by unfold accNum accHandle; rw [Req.taken_aux]

theorem accTarget_taken (op : Op) (r : Req) : accTarget (Req.taken op r) = accTarget r := by unfold accTarget accWord; rw [Req.taken_aux]

/-- What is held of a sealed write (R457). -/
def Slice.sealHold (s : Slice) (r : Req) : Hold :=
  { k := accNum r, n := s.port.nextId, req := Req.taken .sealwr r, born := s.now, issued := false, disable := false }

/-- The counter takes the TARGET of a sealed write and is HOLDING (R458). -/
def Slice.setsTarget (s : Slice) (r : Req) : Slice :=
  (s.setFld (NS_ACCN_TARGET.TARGET (accNum r)) (accTarget r)).setFld (NS_ACCN_TARGET.STATE (accNum r)) AccSt.HOLDING

/-- The slice with a sealed write in its counter's hold, before the counter follows. -/
def Slice.takesHold (s : Slice) (r : Req) : Slice := { s.takesFree .sealwr r with holds := s.holds ++ [s.sealHold r] }

/-- The slice once it holds a sealed write (R457). -/
def Slice.keepsSeal (s : Slice) (r : Req) : Slice := ((s.takesHold r).setsTarget r).withBeat (s.sealBeat r Stat.HELD)

theorem Slice.takesFree_accn (s : Slice) (op : Op) (r q : Req) :
    (s.takesFree op r).rd (Reg.NS_ACCN_TARGET (accNum q)) = s.rd (Reg.NS_ACCN_TARGET (accNum q)) := by
  have := accNum_lt q
  exact s.takesFree_rd op r (.inl (by dsimp only [Reg.NS_ACCN_TARGET]; omega))

theorem Slice.takesFree_sealCheck (s : Slice) (r : Req) :
    (s.takesFree .sealwr r).sealCheck (Req.taken .sealwr r) = s.sealCheck r :=
  Slice.sealCheck_congr r (s.takesFree_accn _ r r)

theorem Slice.sealWrite_refused {s : Slice} (g : List (Nat × BitVec 8)) {r : Req} (hvia : r.via = .mq) (hc : s.sealCheck r ≠ 0) :
    (s.takesFree .sealwr r).sealWrite g (Req.taken .sealwr r) s.now s.port.nextId = s.refusesSeal r := by
  unfold Slice.sealWrite
  rw [s.takesFree_sealCheck r]
  simp only [bne_iff_ne, ne_eq, hc, not_false_eq_true, if_true]
  exact Slice.reply_mesh _ g (congrArg Via.dd? hvia)

/-- A counter that has not reached the target of its hold releases nothing (R458). -/
theorem Slice.tryRelease_below {s : Slice} (g : List (Nat × BitVec 8)) {k : Nat}
    (h : s.fld (NS_ACCN_TARGET.COUNT k) < s.fld (NS_ACCN_TARGET.TARGET k)) : s.tryRelease g k = s := by
  unfold Slice.tryRelease
  cases s.hold? k with
  | none => rfl
  | some w => exact if_pos h

theorem accTarget_lt (r : Req) : accTarget r < 2 ^ 24 := Nat.mod_lt _ (by decide)

theorem Slice.keepsSeal_fld (s : Slice) (r : Req) (f : Fld) : (s.keepsSeal r).fld f = ((s.takesHold r).setsTarget r).fld f :=
  Slice.withBeat_fld _ _ f

theorem Slice.setsTarget_target (s : Slice) (r : Req) : (s.setsTarget r).fld (NS_ACCN_TARGET.TARGET (accNum r)) = accTarget r := by
  unfold Slice.setsTarget
  rw [Slice.fld_setFld_other _ _ (.inr (.inr (by simp))), Slice.fld_setFld _ _ (by simp)]
  exact Nat.mod_eq_of_lt (accTarget_lt r)

theorem Slice.setsTarget_state (s : Slice) (r : Req) : (s.setsTarget r).fld (NS_ACCN_TARGET.STATE (accNum r)) = AccSt.HOLDING :=
  Slice.fld_setFld _ _ (by simp)

theorem Slice.setsTarget_other (s : Slice) {r : Req} {f : Fld} (ht : (NS_ACCN_TARGET.TARGET (accNum r)).apart f)
    (hst : (NS_ACCN_TARGET.STATE (accNum r)).apart f) : (s.setsTarget r).fld f = s.fld f :=
  (Slice.fld_setFld_other _ _ hst).trans (Slice.fld_setFld_other _ _ ht)

theorem Slice.keepsSeal_count (s : Slice) (r : Req) :
    (s.keepsSeal r).fld (NS_ACCN_TARGET.COUNT (accNum r)) = s.fld (NS_ACCN_TARGET.COUNT (accNum r)) := by
  rw [Slice.keepsSeal_fld, Slice.setsTarget_other _ (.inr (.inr (by simp))) (.inr (.inr (by simp)))]
  exact Slice.fld_congr _ (s.takesFree_accn .sealwr r r)

theorem Slice.sealWrite_held {s : Slice} (g : List (Nat × BitVec 8)) {r : Req} (hvia : r.via = .mq) (hc : s.sealCheck r = 0)
    (hbelow : s.fld (NS_ACCN_TARGET.COUNT (accNum r)) < accTarget r) :
    (s.takesFree .sealwr r).sealWrite g (Req.taken .sealwr r) s.now s.port.nextId = s.keepsSeal r := by
  have hholds : (s.takesFree .sealwr r).holds = s.holds := by rw [s.takesFree_same]
  have hkept : (s.keepsSeal r).tryRelease g (accNum r) = s.keepsSeal r :=
    Slice.tryRelease_below g (by rw [s.keepsSeal_count, s.keepsSeal_fld, Slice.setsTarget_target]; exact hbelow)
  have hreply : ∀ t : Slice, t.sealReply g (s.sealHold r) Stat.HELD = t.withBeat (s.sealBeat r Stat.HELD) := fun t =>
    t.reply_mesh g (congrArg Via.dd? hvia)
  have hanswer : ((s.takesHold r).setsTarget r).sealReply g (s.sealHold r) Stat.HELD = s.keepsSeal r := hreply _
  unfold Slice.sealWrite
  rw [s.takesFree_sealCheck r, hc, hholds, accNum_taken, accTarget_taken]
  simp only [bne_self_eq_false, Bool.false_eq_true, if_false]
  exact (congrArg (Slice.tryRelease · g (accNum r)) hanswer).trans hkept

/-! ### A sealed write that is refused -/

theorem Slice.refusesSeal_fld (s : Slice) (r : Req) (f : Fld) : (s.refusesSeal r).fld f = (s.takesFree .sealwr r).countsRefusal.fld f :=
  Slice.withBeat_fld _ _ f

theorem Slice.countsRefusal_rejected (s : Slice) :
    s.countsRefusal.fld NS_ACCN_EVT.REJECTED = min (2 ^ NS_ACCN_EVT.REJECTED.w - 1) (s.fld NS_ACCN_EVT.REJECTED + 1) :=
  (Slice.fld_setFld_other _ _ (by decide)).trans (Slice.fld_bump s 1 (by decide))

theorem Slice.countsRefusal_rej (s : Slice) : s.countsRefusal.flag NS_ACCN_STICKY.REJ = true := Slice.flag_setFld_one _ (by decide) rfl

theorem Slice.countsRefusal_other (s : Slice) {f : Fld} (h : 0x6018 ≤ f.off) : s.countsRefusal.fld f = s.fld f :=
  (Slice.fld_setFld_other _ _ (.inl (by dsimp only; omega))).trans (Slice.fld_bump_other _ _ (.inl (by dsimp only; omega)))

theorem Slice.refusesSeal_answersAs (s : Slice) (r : Req) : s.answersAs (s.refusesSeal r) := by
  have hcount := (s.takesFree_answersAs .sealwr r).setFld (f := NS_ACCN_EVT.REJECTED) (satAdd (2 ^ 16 - 1) _ 1) (by decide)
    (Slice.bump_noneCloses _ 1 (by decide))
  exact (hcount.setFld (f := NS_ACCN_STICKY.REJ) 1 (by decide) (Slice.setFld_noneCloses _ 1 (.inl (by decide)))).beat _

theorem Slice.refusesSeal_keeps (s : Slice) (r : Req) :
    s.keepsFields (s.refusesSeal r) (chargeFlds .sealwr r ++ [NS_ACCN_EVT.REJECTED, NS_ACCN_STICKY.REJ]) := by
  have h := (s.takesFree_keeps .sealwr r).mono (List.subset_append_left _ [NS_ACCN_EVT.REJECTED, NS_ACCN_STICKY.REJ])
  have hset := (h.bump (f := NS_ACCN_EVT.REJECTED) (by simp) 1).setFld (f := NS_ACCN_STICKY.REJ) (by simp) 1
  exact hset.of_rd fun off => Slice.withBeat_rd _ _ off

theorem Slice.refusesSeal_rejected (s : Slice) (r : Req) :
    (s.refusesSeal r).fld NS_ACCN_EVT.REJECTED = min (2 ^ NS_ACCN_EVT.REJECTED.w - 1) (s.fld NS_ACCN_EVT.REJECTED + 1) := by
  rw [Slice.refusesSeal_fld, Slice.countsRefusal_rejected,
    Slice.fld_congr _ (s.takesFree_rd .sealwr r (off := NS_ACCN_EVT.REJECTED.off) (by decide))]

theorem Slice.refusesSeal_rej (s : Slice) (r : Req) : (s.refusesSeal r).flag NS_ACCN_STICKY.REJ = true := by
  unfold Slice.flag
  rw [Slice.refusesSeal_fld]
  exact Slice.countsRefusal_rej _

theorem Slice.refusesSeal_same (s : Slice) (r : Req) : s.refusesSeal r =
    { s with regs := (s.refusesSeal r).regs, meas := (s.refusesSeal r).meas, port := (s.refusesSeal r).port } :=
  congrArg (fun u : Slice => u.countsRefusal.withBeat (s.sealBeat r (s.sealCheck r))) (s.takesFree_same .sealwr r)

theorem Slice.refusesSeal_queuesBeat (s : Slice) {r : Req} (hvia : r.via = .mq) :
    s.queuesBeat (s.refusesSeal r) (fun b => b.answers .sealwr r s.now (s.sealCheck r) 0 0 0) :=
  ⟨_, congrArg (· ++ [_]) (s.takesFree_beats .sealwr r), s.sealBeat_answers _ hvia⟩

theorem Slice.refusesSeal_charged (s : Slice) (r : Req) : s.charged (s.refusesSeal r) r 1 := by
  unfold Slice.charged
  rw [Slice.refusesSeal_fld, Slice.countsRefusal_other _ (by dsimp only; omega)]
  exact s.takesFree_charged .sealwr r

/-! ### A sealed write that is held -/

theorem Slice.sealCheck_enabled {s : Slice} {r : Req} (h : s.sealCheck r = 0) : s.fld (NS_ACCN_TARGET.EN (accNum r)) ≠ 0 := by
  intro hen
  rw [Slice.sealCheck_eq, if_pos hen] at h
  split at h <;> simp at h

/-- No group takes the STATE of an enabled counter for CLOSING. -/
theorem Slice.keepsSeal_answersAs {s : Slice} {r : Req} (hc : s.sealCheck r = 0) : s.answersAs (s.keepsSeal r) := by
  have hen : ((s.takesHold r).setsTarget r).fld (NS_ACCN_TARGET.EN (accNum r)) ≠ 0 := by
    rw [Slice.setsTarget_other _ (.inr (.inl (by simp))) (.inr (.inl (by simp)))]
    have h := Slice.fld_congr (NS_ACCN_TARGET.EN (accNum r)) (s.takesFree_accn .sealwr r r)
    exact h ▸ Slice.sealCheck_enabled hc
  have htarget := ((s.takesFree_answersAs .sealwr r).holds (s.holds ++ [s.sealHold r])).setFld (f := NS_ACCN_TARGET.TARGET (accNum r))
    (accTarget r) (by dsimp only; omega) (Slice.setFld_noneCloses _ _ (.inl (by simp)))
  exact (htarget.setFld (f := NS_ACCN_TARGET.STATE (accNum r)) AccSt.HOLDING (by dsimp only; omega)
    (Slice.setFld_noneCloses _ _ (.inr hen))).beat _

theorem Slice.keepsSeal_keeps (s : Slice) (r : Req) :
    s.keepsFields (s.keepsSeal r) (chargeFlds .sealwr r ++ [NS_ACCN_TARGET.TARGET (accNum r), NS_ACCN_TARGET.STATE (accNum r)]) := by
  have h : s.keepsFields (s.takesHold r) _ := (s.takesFree_keeps .sealwr r).mono
    (List.subset_append_left _ [NS_ACCN_TARGET.TARGET (accNum r), NS_ACCN_TARGET.STATE (accNum r)])
  have hset := (h.setFld (f := NS_ACCN_TARGET.TARGET (accNum r)) (by simp) (accTarget r)).setFld
    (f := NS_ACCN_TARGET.STATE (accNum r)) (by simp) AccSt.HOLDING
  exact hset.of_rd fun off => Slice.withBeat_rd _ _ off

theorem Slice.keepsSeal_charged (s : Slice) (r : Req) : s.charged (s.keepsSeal r) r 1 := by
  have hk := accNum_lt r
  have hapart : ∀ f : Fld, f.off = Reg.NS_ACCN_TARGET (accNum r) → f.apart (NS_REG_BUDGET.USED r.reqid.toNat) := fun f hf =>
    .inl (by rw [hf]; dsimp only [Reg.NS_ACCN_TARGET]; omega)
  unfold Slice.charged
  rw [Slice.keepsSeal_fld, Slice.setsTarget_other _ (hapart _ rfl) (hapart _ rfl)]
  exact s.takesFree_charged .sealwr r

theorem Slice.keepsSeal_target (s : Slice) (r : Req) : (s.keepsSeal r).fld (NS_ACCN_TARGET.TARGET (accNum r)) = accTarget r := by
  rw [Slice.keepsSeal_fld, Slice.setsTarget_target]

theorem Slice.keepsSeal_state (s : Slice) (r : Req) : (s.keepsSeal r).accState (accNum r) = AccSt.HOLDING := by
  unfold Slice.accState
  rw [Slice.keepsSeal_fld, Slice.setsTarget_state]

theorem Slice.keepsSeal_queuesBeat (s : Slice) {r : Req} (hvia : r.via = .mq) :
    s.queuesBeat (s.keepsSeal r) (fun b => b.answers .sealwr r s.now Stat.HELD 0 0 0) :=
  ⟨_, congrArg (· ++ [_]) (s.takesFree_beats .sealwr r), s.sealBeat_answers _ hvia⟩

/-! ### The step of a request that is accepted at once -/

/-- A request that is admitted and leaves the slice still and between two steps. -/
theorem State.request_admitted {v s : State} {op : Op} {r : Req} {u : Slice} (hs : s.sl.calm = true) (hadm : v.admits s op r)
    (hu : (s.sl.stir.slotServed r.odd).accept s.gentab op r .pass (s.sl.cvtOf op r) none = u) (hstill : u.still = true)
    (hb : u.between = true) : ∃ t, v.request op r = .next t ∧ s.logged t ∧ t.sl = u := by
  obtain ⟨-, htrks, -, -⟩ := Slice.calm_parts hs
  obtain ⟨-, hbk⟩ := Slice.calm_purge hs
  obtain ⟨hslot, hadmits⟩ := hadm
  have heff : s.sl.request op r s.gentab = u := by
    rw [Slice.request_admits _ _ op r hadmits htrks hbk, hu, Slice.settle_still _ _ hstill]
  unfold Slice.between at hb
  simp only [Bool.and_eq_true, Bool.not_eq_true'] at hb
  obtain ⟨hfail, hcap⟩ := hb
  rw [← heff] at hfail hcap ⊢
  unfold State.request
  rw [hslot, State.effect_of s (fun g sl => sl.request op r g) hfail hcap]
  exact ⟨_, rfl, ⟨by simp, by simp, by simp, rfl⟩, rfl⟩

/-- What admission says of a request. -/
theorem Slice.admits_parts {s : Slice} {g : List (Nat × BitVec 8)} {op : Op} {r : Req} (h : s.admits g op r = true) :
    r.via = .mq ∧ s.place op r = .here := by
  unfold Slice.admits at h
  simp only [Bool.and_eq_true, beq_iff_eq] at h
  tauto

theorem exec_sealwr (r : Req) (s : State) : exec (.sealwr r) s = s.request .sealwr r := rfl

/-- A sealed write that a calm slice takes at once leaves it as `sealWrite` does, where that is an answer. -/
theorem State.sealwr_admitted {v s : State} {r : Req} {u : Slice} (hs : s.sl.calm = true) (hadm : v.admits s .sealwr r)
    (hu : (s.sl.takesFree .sealwr r).sealWrite s.gentab (Req.taken .sealwr r) s.sl.now s.sl.port.nextId = u) (hans : s.sl.answersAs u) :
    ∃ t, exec (.sealwr r) v = .next t ∧ s.logged t ∧ t.sl = u := by
  obtain ⟨-, -, -, hbtw⟩ := Slice.calm_parts hs
  obtain ⟨-, hplace⟩ := Slice.admits_parts hadm.2
  have hsys : u.sys = s.sl.sys := by rw [hans.same]
  rw [exec_sealwr]
  refine State.request_admitted hs hadm ((Slice.accept_sealwr _ hs hplace).trans hu) (hans.still hs) ?_
  unfold Slice.between
  rw [hsys]
  exact hbtw

/-- Settles O11: a calm slice carries a sealed write out as it accepts it (`accept_sealwr`); `sealWrite_held` and `sealWrite_refused` are its
two ends, and after either the slice is still (`answersAs.still`), so that settling adds nothing. -/
theorem sealedWriteHeld : Obligations.SealedWriteHeld := by
  unfold Obligations.SealedWriteHeld
  intro v s r hs hadm
  obtain ⟨-, htrks, -, -⟩ := Slice.calm_parts hs
  obtain ⟨hvia, -⟩ := Slice.admits_parts hadm.2
  refine ⟨s.sl.sealCheck_eq r, fun hc _ hbelow => ?_, fun hc => ?_⟩
  · have hans := Slice.keepsSeal_answersAs hc
    obtain ⟨t, ht, hlog, hsl⟩ := State.sealwr_admitted hs hadm (Slice.sealWrite_held s.gentab hvia hc hbelow) hans
    refine ⟨t, ht, hlog, ?_⟩
    rw [hsl]
    exact ⟨hans.same, hans.port, s.sl.keepsSeal_queuesBeat hvia, hans.trks.trans htrks, s.sl.keepsSeal_target r,
      s.sl.keepsSeal_state r, s.sl.keepsSeal_charged r, s.sl.keepsSeal_keeps r⟩
  · have hans := s.sl.refusesSeal_answersAs r
    obtain ⟨t, ht, hlog, hsl⟩ := State.sealwr_admitted hs hadm (Slice.sealWrite_refused s.gentab hvia hc) hans
    refine ⟨t, ht, hlog, ?_⟩
    rw [hsl]
    exact ⟨⟨s.sl.refusesSeal_same r, hans.port⟩, s.sl.refusesSeal_queuesBeat hvia, hans.trks.trans htrks, s.sl.refusesSeal_rej r,
      s.sl.refusesSeal_rejected r, s.sl.refusesSeal_charged r, s.sl.refusesSeal_keeps r⟩

end Sys2Proof.Machine

/-! SUPPORT. Register reads: how an access to the control port is judged and answered, what a read clears, and what an event leaves in the
error record (R690, R720, R723, R740). -/

namespace Sys2Proof.Machine

/-! ### Fields of one register -/

/-- Two fields of one register share no bit. -/
abbrev FieldRow.apart (f g : FieldRow) : Prop := f.lo + f.w ≤ g.lo ∨ g.lo + g.w ≤ f.lo

theorem regPage_apart (page : Nat) : ∀ r ∈ regPage page, r.fields.Pairwise FieldRow.apart := by
  unfold regPage
  split <;> decide +kernel

theorem regFields_apart {off : Nat} {fs : List FieldRow} (h : regFields off = some fs) : fs.Pairwise FieldRow.apart := by
  unfold regFields at h
  obtain ⟨r, hr, rfl⟩ := Option.map_eq_some_iff.mp h
  exact regPage_apart _ r (List.mem_of_find?_eq_some hr)

/-- No two fields of a register hold the same bit. -/
theorem FieldRow.eq_of_shared_bit {fs : List FieldRow} (hfs : fs.Pairwise FieldRow.apart) {f g : FieldRow} (hf : f ∈ fs) (hg : g ∈ fs)
    {i : Nat} (hfi : f.lo ≤ i ∧ i < f.lo + f.w) (hgi : g.lo ≤ i ∧ i < g.lo + g.w) : f = g := by
  have : Std.Symm FieldRow.apart := ⟨fun _ _ h => h.symm⟩
  by_contra hne
  have hapart : f.apart g := hfs.forall hf hg hne
  rcases hapart with h | h <;> omega

theorem FieldRow.bitAt_bits (f : FieldRow) {i : Nat} (hi : i < 64) : bitAt f.bits i = true ↔ f.lo ≤ i ∧ i < f.lo + f.w := by
  unfold FieldRow.bits bitAt
  rw [setBits_getLsbD]
  split
  · next h =>
    rw [Nat.testBit_two_pow_sub_one]
    simp only [hi, decide_true, Bool.true_and, decide_eq_true_eq, h, and_self, iff_true]
    omega
  · next h => simp [h]

/-! ### What a read clears (R723) -/

/-- A read of the bits `m` clears the field. -/
abbrev FieldRow.clearedBy (f : FieldRow) (m : Word) : Prop := f.acc = .rc ∧ f.bits &&& m ≠ 0

theorem readClears_concat (fs : List FieldRow) (f : FieldRow) (m : Word) :
    readClears (fs ++ [f]) m = if f.clearedBy m then readClears fs m ||| f.bits else readClears fs m := by
  unfold readClears FieldRow.clearedBy
  rw [List.foldl_append, List.foldl_cons, List.foldl_nil]
  cases f.acc <;> simp

/-- A read clears the bits of the fields it clears, and no others. -/
theorem bitAt_readClears (fs : List FieldRow) (m : Word) (i : Nat) :
    bitAt (readClears fs m) i = true ↔ ∃ f ∈ fs, f.clearedBy m ∧ bitAt f.bits i = true := by
  induction fs using List.reverseRecOn with
  | nil => simp [readClears, bitAt]
  | append_singleton fs f ih =>
    have hor : bitAt (readClears fs m ||| f.bits) i = true ↔ bitAt (readClears fs m) i = true ∨ bitAt f.bits i = true := by simp [bitAt]
    rw [readClears_concat]
    split
    · next h =>
      rw [hor, ih]
      simp only [List.mem_append, List.mem_singleton, or_and_right, exists_or, exists_eq_left, and_iff_right h]
    · next h =>
      rw [ih]
      simp only [List.mem_append, List.mem_singleton, or_and_right, exists_or, exists_eq_left, h, false_and, or_false]

/-- The bits of a field are cleared where the field is: no other field holds them. -/
theorem bitAt_readClears_field {fs : List FieldRow} (hfs : fs.Pairwise FieldRow.apart) {f : FieldRow} (hf : f ∈ fs) (m : Word) {i : Nat}
    (hi : i < 64) (hfi : f.lo ≤ i ∧ i < f.lo + f.w) : bitAt (readClears fs m) i = true ↔ f.clearedBy m := by
  rw [bitAt_readClears]
  constructor
  · rintro ⟨g, hg, hclr, hbit⟩
    rwa [FieldRow.eq_of_shared_bit hfs hf hg hfi ((g.bitAt_bits hi).mp hbit)]
  · exact fun h => ⟨f, hf, h, (f.bitAt_bits hi).mpr hfi⟩

/-- The slice with the fields cleared that a read of the register `r` touches. -/
def Slice.clearRead (s : Slice) (r : Nat) (fs : List FieldRow) (a : CtAcc) : Slice :=
  if readClears fs (ctMask a) = 0 then s else s.wr r (s.rd r &&& ~~~(readClears fs (ctMask a)))

theorem Slice.clearRead_same (s : Slice) (r : Nat) (fs : List FieldRow) (a : CtAcc) :
    s.clearRead r fs a = { s with regs := (s.clearRead r fs a).regs } := by
  unfold Slice.clearRead
  split <;> rfl

theorem Slice.clearRead_rd (s : Slice) (r : Nat) (fs : List FieldRow) (a : CtAcc) :
    (s.clearRead r fs a).rd r = s.rd r &&& ~~~(readClears fs (ctMask a)) := by
  unfold Slice.clearRead
  split
  · next h =>
    rw [h]
    exact (BitVec.and_allOnes (x := s.rd r)).symm
  · exact Slice.rd_wr_same ..

theorem Slice.clearRead_rd_other (s : Slice) {r off : Nat} (fs : List FieldRow) (a : CtAcc) (h : off ≠ r) :
    (s.clearRead r fs a).rd off = s.rd off := by
  unfold Slice.clearRead
  split
  · rfl
  · exact Slice.rd_wr_other _ _ h

/-- Each field is cleared whole or keeps its bits. -/
theorem Slice.clearRead_field (s : Slice) {r : Nat} {fs : List FieldRow} (hfs : regFields r = some fs) (a : CtAcc) {f : FieldRow}
    (hf : f ∈ fs) {i : Nat} (hfi : f.lo ≤ i ∧ i < f.lo + f.w) :
    bitAt ((s.clearRead r fs a).rd r) i = if f.clearedBy (ctMask a) then false else bitAt (s.rd r) i := by
  rw [Slice.clearRead_rd]
  by_cases hi : i < 64
  · have hclr := bitAt_readClears_field (regFields_apart hfs) hf (ctMask a) hi hfi
    have hand : bitAt (s.rd r &&& ~~~(readClears fs (ctMask a))) i = (bitAt (s.rd r) i && !bitAt (readClears fs (ctMask a)) i) := by
      simp [bitAt, hi]
    rw [hand]
    split
    · next h => simp [hclr.mpr h]
    · next h => simp [Bool.eq_false_iff.mpr (hclr.not.mpr h)]
  · have hout : ∀ w : Word, bitAt w i = false := fun w => BitVec.getLsbD_of_ge w i (by omega)
    simp [hout]

/-- A frame that leaves out one whole register. -/
theorem Slice.keepsFields_wholeReg {s t : Slice} {r : Nat} (h : ∀ off, off ≠ r → t.rd off = s.rd off) :
    s.keepsFields t [wholeReg r] := by
  intro off i hi
  by_cases hoff : off = r
  · have hge : 64 ≤ i := by
      rcases hi (wholeReg r) (by simp) hoff.symm with h | h
      · exact absurd h (Nat.not_lt_zero i)
      · simpa [wholeReg] using h
    exact (BitVec.getLsbD_of_ge _ i hge).trans (BitVec.getLsbD_of_ge _ i hge).symm
  · rw [h off hoff]

/-! ### The word a register shows -/

/-- A register that shows other state is one of eleven, a region's, or one of the words of the log's oldest entry. -/
theorem shownReg_eq_false {r : Nat} (h : shownReg r = false) :
    (r ≠ Reg.NS_BLK_STAT ∧ r ≠ Reg.NS_BALANCE ∧ r ≠ Reg.NS_GRP_OPENMASK ∧ r ≠ Reg.NS_CH_STAT ∧ r ≠ Reg.NS_ECC_STAT ∧
      r ≠ Reg.NS_ECC_QUAR ∧ r ≠ Reg.NS_DIR_STAT ∧ r ≠ Reg.NS_RC_BLK) ∧
    (r ≠ Reg.NS_RC_GEN ∧ r ≠ Reg.NS_PV_STAT ∧ r ≠ Reg.NS_PV_LOST) ∧
    ¬(0x2200 ≤ r ∧ r < 0x2400) ∧ ¬(0xB040 ≤ r ∧ r < 0xB060) := by
  simpa [shownReg, and_assoc] using h

theorem Slice.view_of_not_shown (s : Slice) {r : Nat} (h : shownReg r = false) : s.view r = s.rd r := by
  obtain ⟨hslice, -, hregion, -⟩ := shownReg_eq_false h
  unfold Slice.view
  simp [hslice, hregion]

theorem State.view_of_not_shown (s : State) {r : Nat} (h : shownReg r = false) : s.view r = s.sl.rd r := by
  obtain ⟨-, htables, -, hhead⟩ := shownReg_eq_false h
  unfold State.view
  simp [htables, hhead, s.sl.view_of_not_shown h]

/-! ### The error record (R740) -/

/-- The slice once an event has been counted. -/
def Slice.countErr (s : Slice) (e : ErrEv) : Slice :=
  ((s.bump NS_ERR_CNT.COUNT 1).setFld NS_ERR_CNT.LASTCODE e.code).irqSet NS_IRQ_STAT.ERROR

/-- The slice once the record holds an event. -/
def Slice.recordErr (s : Slice) (e : ErrEv) : Slice :=
  (((s.wr Reg.NS_ERR_REC0 e.word0).setFld NS_ERR_REC1.DETAIL e.detail).wr Reg.NS_ERR_REC2 (BitVec.ofNat 64 s.now)).setFld
    NS_ERR_CNT.VALID 1

/-- An event is counted, and recorded where the record is free or takes the latest. -/
theorem Slice.err_eq (s : Slice) (e : ErrEv) : s.err e =
    if s.flag NS_ERR_CNT.VALID = false ∨ s.flag NS_CTL.ERRLATEST = true then (s.countErr e).recordErr e else s.countErr e := by
  unfold Slice.err
  simp only [Bool.or_eq_true, Bool.not_eq_true']
  rfl

theorem Slice.err_same (s : Slice) (e : ErrEv) : s.err e = { s with regs := (s.err e).regs } := by
  rw [Slice.err_eq]
  split <;> rfl

/-- Writing a whole register of a frame stays inside it. -/
theorem Slice.keepsFields.wr {s t : Slice} {fs : List Fld} (h : s.keepsFields t fs) {r : Nat} (hr : wholeReg r ∈ fs) (w : Word) :
    s.keepsFields (t.wr r w) fs := by
  have hw : t.keepsFields (t.wr r w) [wholeReg r] := Slice.keepsFields_wholeReg fun _ => Slice.rd_wr_other t w
  exact (h.append hw).mono (by simpa using hr)

theorem Slice.countErr_keeps (s : Slice) (e : ErrEv) :
    s.keepsFields (s.countErr e) [NS_ERR_CNT.COUNT, NS_ERR_CNT.LASTCODE, NS_IRQ_STAT.ERROR] := by
  have h0 := Slice.keepsFields_of_rd [NS_ERR_CNT.COUNT, NS_ERR_CNT.LASTCODE, NS_IRQ_STAT.ERROR] fun off => Eq.refl (s.rd off)
  exact ((h0.bump (by simp) 1).setFld (by simp) _).setFld (by simp) 1

theorem Slice.recordErr_keeps (s : Slice) (e : ErrEv) : s.keepsFields (s.recordErr e)
    [wholeReg Reg.NS_ERR_REC0, NS_ERR_REC1.DETAIL, wholeReg Reg.NS_ERR_REC2, NS_ERR_CNT.VALID] := by
  have h0 := Slice.keepsFields_of_rd [wholeReg Reg.NS_ERR_REC0, NS_ERR_REC1.DETAIL, wholeReg Reg.NS_ERR_REC2, NS_ERR_CNT.VALID]
    fun off => Eq.refl (s.rd off)
  exact (((h0.wr (by simp) _).setFld (by simp) _).wr (by simp) _).setFld (by simp) 1

theorem Slice.err_keeps (s : Slice) (e : ErrEv) : s.keepsFields (s.err e) errFlds := by
  have hcount : s.keepsFields (s.countErr e) errFlds := (s.countErr_keeps e).mono (by simp [errFlds])
  rw [Slice.err_eq]
  split
  · exact (hcount.append ((s.countErr e).recordErr_keeps e)).mono (by simp [errFlds])
  · exact hcount

/-- What counting an event makes of the count, the last code and the interrupt. -/
theorem Slice.countErr_counts (s : Slice) {e : ErrEv} (hcode : e.code < 256) :
    (s.countErr e).fld NS_ERR_CNT.COUNT = min (2 ^ NS_ERR_CNT.COUNT.w - 1) (s.fld NS_ERR_CNT.COUNT + 1) ∧
      (s.countErr e).fld NS_ERR_CNT.LASTCODE = e.code ∧ (s.countErr e).flag NS_IRQ_STAT.ERROR = true := by
  unfold Slice.countErr Slice.irqSet
  refine ⟨?_, ?_, Slice.flag_setFld_one _ (by decide) rfl⟩
  · rw [Slice.fld_setFld_other _ _ (by decide), Slice.fld_setFld_other _ _ (by decide), Slice.fld_bump _ _ (by decide)]
  · rw [Slice.fld_setFld_other _ _ (by decide), Slice.fld_setFld _ _ (by decide)]
    exact Nat.mod_eq_of_lt hcode

theorem Slice.countErr_valid (s : Slice) (e : ErrEv) : (s.countErr e).flag NS_ERR_CNT.VALID = s.flag NS_ERR_CNT.VALID := by
  unfold Slice.countErr Slice.irqSet Slice.bump
  rw [Slice.flag_setFld_other _ _ (by decide), Slice.flag_setFld_other _ _ (by decide), Slice.flag_setFld_other _ _ (by decide)]

/-- Counting leaves the record's registers and the clock alone. -/
theorem Slice.countErr_rd (s : Slice) (e : ErrEv) {off : Nat} (hcnt : off ≠ Reg.NS_ERR_CNT) (hirq : off ≠ Reg.NS_IRQ_STAT) :
    (s.countErr e).rd off = s.rd off := by
  refine (s.countErr_keeps e).rd_eq ?_
  simp only [List.forall_mem_cons]
  exact ⟨hcnt.symm, hcnt.symm, hirq.symm, by simp⟩

/-- Recording leaves the count, the last code and the interrupt alone. -/
theorem Slice.recordErr_counts (s : Slice) (e : ErrEv) :
    (s.recordErr e).fld NS_ERR_CNT.COUNT = s.fld NS_ERR_CNT.COUNT ∧ (s.recordErr e).fld NS_ERR_CNT.LASTCODE = s.fld NS_ERR_CNT.LASTCODE ∧
      (s.recordErr e).flag NS_IRQ_STAT.ERROR = s.flag NS_IRQ_STAT.ERROR := by
  have hrecord : ∀ {g : Fld}, g.off ≠ Reg.NS_ERR_REC0 → g.off ≠ Reg.NS_ERR_REC1 → g.off ≠ Reg.NS_ERR_REC2 → NS_ERR_CNT.VALID.apart g →
      (s.recordErr e).fld g = s.fld g := by
    intro g h0 h1 h2 hv
    unfold Slice.recordErr
    rw [Slice.fld_setFld_other _ _ hv, Slice.fld_wr_other _ _ h2, Slice.fld_setFld_other _ _ (.inl h1.symm), Slice.fld_wr_other _ _ h0]
  refine ⟨hrecord ?_ ?_ ?_ ?_, hrecord ?_ ?_ ?_ ?_, congrArg (· != 0) (hrecord ?_ ?_ ?_ ?_)⟩ <;> decide

/-- What recording an event leaves in the record. -/
theorem Slice.recordErr_records (s : Slice) (e : ErrEv) :
    (s.recordErr e).flag NS_ERR_CNT.VALID = true ∧ (s.recordErr e).rd Reg.NS_ERR_REC0 = e.word0 ∧
      (s.recordErr e).fld NS_ERR_REC1.DETAIL = e.detail % 2 ^ NS_ERR_REC1.DETAIL.w ∧
      (s.recordErr e).rd Reg.NS_ERR_REC2 = BitVec.ofNat 64 s.now := by
  unfold Slice.recordErr
  refine ⟨Slice.flag_setFld_one _ (by decide) rfl, ?_, ?_, ?_⟩
  · rw [Slice.rd_setFld_other _ _ (by decide), Slice.rd_wr_other _ _ (by decide), Slice.rd_setFld_other _ _ (by decide), Slice.rd_wr_same]
  · rw [Slice.fld_setFld_other _ _ (by decide), Slice.fld_wr_other _ _ (by decide), Slice.fld_setFld _ _ (by decide)]
  · rw [Slice.rd_setFld_other _ _ (by decide), Slice.rd_wr_same]

/-- An event is entered as R740 says. -/
theorem Slice.err_enters (s : Slice) {e : ErrEv} (hcode : e.code < 256) : s.entersErr (s.err e) e := by
  obtain ⟨hcount, hlast, hirq⟩ := s.countErr_counts hcode
  have hrd : ∀ off, off ≠ Reg.NS_ERR_CNT → off ≠ Reg.NS_IRQ_STAT → (s.countErr e).rd off = s.rd off := fun _ => s.countErr_rd e
  unfold Slice.entersErr
  rw [Slice.err_eq]
  split
  · obtain ⟨hkcount, hklast, hkirq⟩ := (s.countErr e).recordErr_counts e
    obtain ⟨hvalid, hrec0, hrec1, hrec2⟩ := (s.countErr e).recordErr_records e
    have hnow : (s.countErr e).now = s.now := congrArg BitVec.toNat (hrd _ (by decide) (by decide))
    exact ⟨hkcount.trans hcount, hklast.trans hlast, hkirq.trans hirq, hvalid, hrec0, hrec1, hnow ▸ hrec2⟩
  · next hfull =>
    have hvalid : s.flag NS_ERR_CNT.VALID = true := by simpa using (not_or.mp hfull).1
    exact ⟨hcount, hlast, hirq, (s.countErr_valid e).trans hvalid, hrd _ (by decide) (by decide), hrd _ (by decide) (by decide),
      hrd _ (by decide) (by decide)⟩

/-- Whether an event has been entered is seen in the registers. -/
theorem Slice.entersErr.of_rd {s t u : Slice} {e : ErrEv} (h : s.entersErr t e) (hu : ∀ off, u.rd off = t.rd off) : s.entersErr u e := by
  have hfld : ∀ f, u.fld f = t.fld f := fun f => Slice.fld_congr f (hu _)
  have hflag : ∀ f, u.flag f = t.flag f := fun f => Slice.flag_congr f (hu _)
  unfold Slice.entersErr at h ⊢
  simpa only [hfld, hflag, hu] using h

/-! ### Answers of the control port -/

/-- What changes registers only, and then answers at the control port, leaves the slice so and the log with the entries of what it
changed. -/
theorem State.effect_answered {s : State} {f : Slice → Slice} (code : Nat) (a : CtAcc) (d : Word) (hb : s.sl.between = true)
    (hf : f s.sl = { s.sl with regs := (f s.sl).regs }) :
    let t := s.effect fun _ sl => (f sl).ctAnswer code a d
    s.logged t ∧ s.sl.ctRegs t.sl code a d ∧ ∀ off, t.sl.rd off = (f s.sl).rd off := by
  unfold Slice.between at hb
  simp only [Bool.and_eq_true, Bool.not_eq_true'] at hb
  obtain ⟨hfail, hcap⟩ := hb
  have hsys : ((f s.sl).ctAnswer code a d).sys = s.sl.sys := by rw [hf]; rfl
  rw [State.effect_of s (fun _ sl => (f sl).ctAnswer code a d) (hsys ▸ hfail) (hsys ▸ hcap)]
  refine ⟨⟨by simp, by simp, by simp, rfl⟩, ?_, fun _ => rfl⟩
  show (f s.sl).ctAnswer code a d = _
  rw [hf]
  rfl

/-- An access is answered with data, and nothing else happens. -/
theorem State.effect_plain {s : State} (code : Nat) (a : CtAcc) (d : Word) (hb : s.sl.between = true) :
    let t := s.effect fun _ sl => sl.ctAnswer code a d
    s.logged t ∧ s.sl.ctRegs t.sl code a d ∧ s.sl.keepsFields t.sl [] := by
  obtain ⟨hlog, hregs, hrd⟩ := State.effect_answered (f := id) code a d hb rfl
  exact ⟨hlog, hregs, Slice.keepsFields_of_rd _ hrd⟩

/-- An access is refused and recorded. -/
theorem State.effect_refused {s : State} {err : Nat} (code off : Nat) (a : CtAcc) (hb : s.sl.between = true) (herr : err < 256) :
    let t := s.effect fun _ sl => (sl.errReg err off a).ctAnswer code a 0
    s.logged t ∧ s.sl.ctRegs t.sl code a 0 ∧ s.sl.entersErr t.sl (ctEvent err off a) ∧ s.sl.keepsFields t.sl errFlds := by
  obtain ⟨hlog, hregs, hrd⟩ := State.effect_answered (f := fun sl => sl.errReg err off a) code a 0 hb (s.sl.err_same _)
  have henters : s.sl.entersErr (s.sl.errReg err off a) (ctEvent err off a) := s.sl.err_enters herr
  exact ⟨hlog, hregs, henters.of_rd hrd, (s.sl.err_keeps _).of_rd hrd⟩

/-! ### A read that reaches its register -/

/-- The log with LOST taken by a read that clears it (R702). -/
def State.readLost (s : State) (r : Nat) (fs : List FieldRow) (a : CtAcc) : State := { s with prov := { s.prov with
  lost := if r = Reg.NS_PV_LOST ∧ readClears fs (ctMask a) ≠ 0 then 0 else s.prov.lost } }

theorem State.readReg_eq (s : State) (r : Nat) (a : CtAcc) (fs : List FieldRow) : s.readReg r a fs =
    (s.readLost r fs a).effect fun _ sl => (sl.clearRead r fs a).ctAnswer 0 a (ctData a (s.view r)) := by
  unfold State.readReg State.readLost
  simp only [Bool.and_eq_true, decide_eq_true_eq, bne_iff_ne]
  by_cases h : r = Reg.NS_PV_LOST ∧ readClears fs (ctMask a) ≠ 0
  · rw [if_pos h, if_pos h]
    rfl
  · rw [if_neg h, if_neg h]
    rfl

/-- A read of the register answers with the half asked for of the word it shows, and clears the fields it touches. -/
theorem State.readReg_answers {s : State} {r : Nat} {fs : List FieldRow} (a : CtAcc) (hb : s.sl.between = true)
    (hfs : regFields r = some fs) :
    (s.readLost r fs a).logged (s.readReg r a fs) ∧ s.sl.ctRegs (s.readReg r a fs).sl 0 a (ctData a (s.view r)) ∧
      (∀ f ∈ fs, ∀ i, f.lo ≤ i → i < f.lo + f.w → bitAt ((s.readReg r a fs).sl.rd r) i =
        if f.clearedBy (ctMask a) then false else bitAt (s.sl.rd r) i) ∧
      s.sl.keepsFields (s.readReg r a fs).sl [wholeReg r] := by
  rw [State.readReg_eq]
  obtain ⟨hlog, hregs, hrd⟩ := State.effect_answered (s := s.readLost r fs a) (f := fun sl => sl.clearRead r fs a) 0 a
    (ctData a (s.view r)) hb (s.sl.clearRead_same r fs a)
  refine ⟨hlog, hregs, fun f hf i hlo hhi => ?_, Slice.keepsFields_wholeReg fun off hoff => ?_⟩
  · rw [hrd r]
    exact s.sl.clearRead_field hfs a hf ⟨hlo, hhi⟩
  · rw [hrd off]
    exact s.sl.clearRead_rd_other fs a hoff

/-! ### Judging a read (R690, R720) -/

/-- A read of the slice's space or of its page of aliases, judged. -/
def State.pageRead (s : State) (page : Bool) (o : Nat) (a : CtAcc) : State := if page then s.aliasReadJudged o a else s.readJudged o a

/-- While CT takes accesses, a read is judged in its cycle. -/
theorem exec_registerRead {v s : State} (off : BitVec 16) (page : Bool) (a : CtAcc) (hv : v.ctFor = s) (ht : s.sl.ctTakes = true) :
    exec (.registerRead off page a) v = .next (s.pageRead page off.toNat a) := by
  subst hv
  have hexec : exec (.registerRead off page a) v = .next (if page then v.aliasRead off.toNat a else v.ctRead off.toNat a) := rfl
  rw [hexec]
  unfold State.aliasRead State.ctRead State.pageRead
  simp [ht]

theorem State.pageRead_misaligned (s : State) (page : Bool) {o : Nat} (a : CtAcc) (h : o % 8 ≠ 0) :
    s.pageRead page o a = s.effect fun _ sl => (sl.errReg ErrCode.ACCESS o a).ctAnswer 1 a 0 := by
  unfold State.pageRead State.aliasReadJudged State.readJudged
  cases page <;> simp [h]

/-- The privilege is too low for the page, or the page of aliases does not answer the user. -/
theorem State.pageRead_refused {s : State} {page : Bool} {o : Nat} {a : CtAcc} (h8 : o % 8 = 0)
    (h : (page = false ∧ a.priv.toNat < s.sl.needPriv o false a) ∨
      (page = true ∧ a.priv.toNat = Priv.user ∧ s.sl.userReads (aliasOf o) = false)) :
    s.pageRead page o a = s.effect fun _ sl => (sl.errReg ErrCode.PRIV o a).ctAnswer 2 a 0 := by
  unfold State.pageRead
  obtain ⟨rfl, hpriv⟩ | ⟨rfl, huser, hreads⟩ := h
  · unfold State.readJudged
    simp [h8, hpriv]
  · unfold State.aliasReadJudged
    simp [h8, huser, hreads]

theorem Slice.ctAdmits_parts {s : Slice} {o : Nat} {write : Bool} {a : CtAcc} (h : s.ctAdmits o write a = true) :
    o % 8 = 0 ∧ ¬a.priv.toNat < s.needPriv o write a := by
  unfold Slice.ctAdmits at h
  simp only [Bool.and_eq_true, beq_iff_eq, decide_eq_true_eq] at h
  obtain ⟨⟨-, h8⟩, hpriv⟩ := h
  exact ⟨h8, Nat.not_lt.mpr hpriv⟩

/-- The page of aliases answers an access that is not a user's, or that it lets a user make. -/
theorem Slice.userAnswered {s : Slice} {t : Option Nat} {a : CtAcc} (h : a.priv.toNat ≠ Priv.user ∨ s.userReads t = true) :
    ¬(a.priv.toNat = Priv.user ∧ s.userReads t = false) := by
  rintro ⟨huser, hreads⟩
  exact h.elim (· huser) (by simp [hreads])

/-- The read reaches a register: that of its offset, or that which the offset stands for in the page of aliases. -/
theorem State.pageRead_register {s : State} {page : Bool} {o r : Nat} {a : CtAcc} {fs : List FieldRow}
    (h : (page = false ∧ s.sl.ctAdmits o false a = true ∧ r = o) ∨
      (page = true ∧ o % 8 = 0 ∧ aliasOf o = some r ∧ (a.priv.toNat ≠ Priv.user ∨ s.sl.userReads (some r) = true)))
    (hfs : regFields r = some fs) : s.pageRead page o a = s.readReg r a fs := by
  unfold State.pageRead
  obtain ⟨rfl, hadm, rfl⟩ | ⟨rfl, h8, halias, hpriv⟩ := h
  · obtain ⟨h8, hpriv⟩ := Slice.ctAdmits_parts hadm
    unfold State.readJudged
    simp [h8, hpriv, hfs]
  · unfold State.aliasReadJudged
    simp [h8, halias, hfs, Slice.userAnswered hpriv]

/-- The read reaches an offset without a register. -/
theorem State.pageRead_reserved {s : State} {page : Bool} {o : Nat} {a : CtAcc}
    (h : (page = false ∧ s.sl.ctAdmits o false a = true ∧ regFields o = none) ∨
      (page = true ∧ o % 8 = 0 ∧ (aliasOf o).bind regFields = none ∧ (a.priv.toNat ≠ Priv.user ∨ s.sl.userReads (aliasOf o) = true))) :
    s.pageRead page o a = s.effect fun _ sl => sl.ctAnswer 0 a 0 := by
  unfold State.pageRead
  obtain ⟨rfl, hadm, hnone⟩ | ⟨rfl, h8, hnone, hpriv⟩ := h
  · obtain ⟨h8, hpriv⟩ := Slice.ctAdmits_parts hadm
    unfold State.readJudged
    simp [h8, hpriv, hnone]
  · unfold State.aliasReadJudged
    simp [h8, hnone, Slice.userAnswered hpriv]

/-! ### What a user reads (R690) -/

/-- `t` is counter `i`, its selector or its snapshot. -/
abbrev ofCounter (t i : Nat) : Prop := t = Reg.NS_CNT_PMC i ∨ t = Reg.NS_CNT_SEL i ∨ t = Reg.NS_CNT_SNAP_PMC i

/-- An aligned offset is under a bit of UPMC as a register of the counter of that bit. -/
theorem perCounter_iff {t : Nat} (h8 : t % 8 = 0) : perCounter t = true ↔ t % 64 / 8 < 8 ∧ ofCounter t (t % 64 / 8) := by
  simp only [perCounter, ofCounter, Reg.NS_CNT_PMC, Reg.NS_CNT_SEL, Reg.NS_CNT_SNAP_PMC, Bool.or_eq_true, Bool.and_eq_true,
    decide_eq_true_eq]
  omega

/-- A register is one counter's at most. -/
theorem ofCounter_index {t i : Nat} (hi : i < 8) (h : ofCounter t i) : t % 64 / 8 = i := by
  simp only [ofCounter, Reg.NS_CNT_PMC, Reg.NS_CNT_SEL, Reg.NS_CNT_SNAP_PMC] at h
  omega

theorem aliasOf_aligned {o t : Nat} (h8 : o % 8 = 0) (h : aliasOf o = some t) : t % 8 = 0 := by
  unfold aliasOf at h
  split at h
  · have := Option.some.inj h
    omega
  · split at h
    · have := Option.some.inj h
      omega
    · exact absurd h (by simp)

/-- A user reads where UREAD is set, and a counter's registers where its bit of UPMC is set too. -/
theorem Slice.userReads_iff (s : Slice) {o : Nat} (h8 : o % 8 = 0) : s.userReads (aliasOf o) = true ↔
    s.flag NS_CNT_PRIV.UREAD = true ∧ ∀ i < 8,
      aliasOf o = some (Reg.NS_CNT_PMC i) ∨ aliasOf o = some (Reg.NS_CNT_SEL i) ∨ aliasOf o = some (Reg.NS_CNT_SNAP_PMC i) →
      (s.fld NS_CNT_PRIV.UPMC).testBit i = true := by
  unfold Slice.userReads
  cases ht : aliasOf o with
  | none => simp
  | some t =>
    have hper := perCounter_iff (aliasOf_aligned h8 ht)
    simp only [Option.some.injEq, Bool.and_eq_true, Bool.or_eq_true, Bool.not_eq_true']
    refine and_congr_right fun _ => ⟨?_, fun h => ?_⟩
    · rintro h i hi hof
      obtain rfl := ofCounter_index hi hof
      exact h.resolve_left (by simp [hper.mpr ⟨hi, hof⟩])
    · cases hp : perCounter t with
      | false => exact .inl rfl
      | true =>
        obtain ⟨hlt, hof⟩ := hper.mp hp
        exact .inr (h _ hlt hof)

/-- Settles O50: a read is judged to be misaligned (`pageRead_misaligned`), refused (`pageRead_refused`), of no register
(`pageRead_reserved`) or of one (`pageRead_register`). A refusal is an event of the error record (`effect_refused`); what a read of a
register clears is seen field by field, since the fields of a register share no bit (`readReg_answers`). -/
theorem registerReadAnswers : Obligations.RegisterReadAnswers := by
  unfold Obligations.RegisterReadAnswers
  intro v s off a o hv ho ht hb
  subst ho
  have hexec := fun page => exec_registerRead off page a hv ht
  refine ⟨s.sl.userReads_iff, fun page r fs hreach hfs => ?_, fun page hreach => ?_, fun page h8 => ?_, fun page h8 href => ?_⟩
  · obtain ⟨hlog, hregs, hfields, hkeeps⟩ := State.readReg_answers a hb hfs
    rw [hexec, State.pageRead_register hreach hfs]
    exact ⟨_, rfl, hlog, hregs, s.view_of_not_shown, hfields, hkeeps⟩
  · rw [hexec, State.pageRead_reserved hreach]
    exact ⟨_, rfl, State.effect_plain 0 a 0 hb⟩
  · rw [hexec, State.pageRead_misaligned s page a h8]
    exact ⟨_, rfl, State.effect_refused 1 _ a hb (by decide)⟩
  · rw [hexec, State.pageRead_refused h8 href]
    exact ⟨_, rfl, State.effect_refused 2 _ a hb (by decide)⟩

end Sys2Proof.Machine
